-- ==== Sys2Proof/Word.lean ====
section
/-! DEFINITION. The word types of the model: what the manual treats as bits. -/

namespace Sys2Proof

/-- One byte of a memory, a frame or a record. -/
abbrev Byte := BitVec 8

/-- A 32-bit register, or an FP32 value as stored. -/
abbrev Word32 := BitVec 32

/-- A 64-bit register, record word or tidemark value. -/
abbrev Word64 := BitVec 64

end Sys2Proof
end

