-- ==== Sys2Proof/Syntax.lean ====
section
/-! DEFINITION. The commands of the block: one constructor of `Instr` for each row of spec/opcode_table.json, with the operands that
reach the module from outside (a register write, a frame, a pin, a sensor reading) or that name which engine acts. Everything
else a command uses it takes from the state. -/

namespace Sys2Proof

/-- The engines that hold streams (R188). -/
inductive EngKind where
  | flood | ebb
  deriving DecidableEq, Repr

/-- One engine: its kind and its stack. -/
structure Eng where
  kind  : EngKind
  stack : Nat
  deriving DecidableEq, Repr

/-- Where a mailbox frame comes from (R350): the PCIe mailbox, whose frame stands in HDL_MBOX_REQ, or the sideband mailbox, whose
frame is carried by the write transaction (R355). -/
inductive MboxSrc where
  | pcie
  | sideband (frame : List Byte)
  deriving DecidableEq, Repr

/-- Where a transfer over the plain starts or ends (R141): a core by its global ID, a base die, the I/O die. -/
inductive Place where
  | core (c : Nat)
  | base (h : Nat)
  | io
  deriving DecidableEq, Repr

/-- A plain packet (R141, R142, R150): a read or a write of 1 to 8 words of a logical core's SRAM. -/
structure PlainPkt where
  /-- Who sent it; a response goes there. -/
  src    : Place
  /-- Destination valley, global index (R18). -/
  valley : Nat
  /-- Destination logical core. -/
  core   : Nat
  /-- Byte address in core SRAM (R133). -/
  addr   : Nat
  /-- Bytes written; none for a read. -/
  data   : Option (List Byte)
  /-- Words of a read, from the one that holds the address. -/
  words  : Nat
  /-- The words carry their poison bit (R136). -/
  poison : Bool
  /-- Errors picked up in transit, as an XOR over 35 bytes for each word; for a read, in its response (R136). -/
  upset  : List Byte
  /-- Stream and epoch of a Flood packet (R203): stack, stream, epoch. -/
  flood  : Option (Nat × Nat × Nat)
  deriving DecidableEq, Repr

/-- An error that one word of core SRAM picks up in transit over the plain or a pass, as an XOR over its 35 bytes (R136): the word's valley,
logical core and number there, where the word is read or where it is stored. -/
structure WireErr where
  valley : Nat
  core   : Nat
  word   : Nat
  upset  : List Byte
  deriving DecidableEq, Repr

/-- A core or a stream whose words travel over the plain, with the errors they pick up on the way (R136). -/
structure Wired where
  no   : Nat
  errs : List WireErr
  deriving DecidableEq, Repr

/-- Where a Louber frame comes from: its source IP address, as 16 bytes, its source Ethernet address and its source UDP port; and whether
with it the port's receive buffer, whose size no rule gives, passes three quarters full (R277, R279, R280). -/
structure UdpSrc where
  ip    : List Byte
  mac   : List Byte
  port  : Nat
  fills : Bool
  deriving DecidableEq, Repr

/-- Who asks for an HBM access (R238, R239). -/
inductive HbmReq where
  | narrows (job : Nat)
  | job (job : Nat)
  deriving DecidableEq, Repr

/-- One operation of the header unit (R245): the version check of R247 (retaining or not), the check at a task's end (R248), the
claim and the commit of R250. -/
inductive HdrOp where
  | check (step : Nat) (retain : Bool)
  | release (step : Nat) (dec : Bool)
  | claim (step : Nat)
  | commit (step : Nat) (handle : Word64)
  deriving DecidableEq, Repr

/-- A request to a header unit: the job it is charged to, and the operation. -/
structure HdrReq where
  job : Nat
  op  : HdrOp
  deriving DecidableEq, Repr

/-- What a DRAM access meets: bits flipped in the unit since it was last read or written, and corrections by the dies' own ECC (R240). -/
structure HbmUpset where
  flips   : List Byte
  dieCorr : Nat
  deriving DecidableEq, Repr

/-- A NAK flit as received; or, with `refused`, the partner's word that it could not translate the WRITE of that number (R301, R412; log
30). -/
structure NakFlit where
  bytes   : List Byte
  refused : Option Nat
  deriving DecidableEq, Repr

/-- A unit that a sounding finds faulty (R361). Cores and routers by position within the valley, row * 16 + col. -/
inductive SoundFault where
  | core (pos : Nat) (bank : Bool)
  | router (pos : Nat)
  | sequencer
  | rowUnit
  | crest
  | block
  /-- A channel of a pass end that fails the link training at the end of a sounding or a boot (R146). -/
  | channel (c : Nat)
  deriving DecidableEq, Repr

/-- What a command that reads or writes the image in flash meets there: whether the flash can be read and written (R338, R352). -/
structure ImageChecks where
  flashOk : Bool
  deriving DecidableEq, Repr

/-- A fault the power-on sounding finds: the page of the block, and the unit. -/
structure BootFault where
  page : Nat
  unit : SoundFault
  deriving DecidableEq, Repr

/-- What an FW_END finds: the checks of the image, and in recovery mode the faults that the boot it starts finds (R349). -/
structure FwEndChecks where
  image  : ImageChecks
  faults : List BootFault
  deriving DecidableEq, Repr

/-- Sensor readings (R385, R395): hottest compute die, dies one by one, base dies, I/O die, inlet, outlet, in degrees Celsius;
whether the inlet has stood above 40 for 1 s. -/
structure Temps where
  dies     : List Nat
  bases    : List Nat
  io       : Nat
  inlet    : Nat
  outlet   : Nat
  inletHot : Bool
  deriving DecidableEq, Repr

/-- What an Ethernet frame that is not Louber is (R292, R408). -/
inductive FrameKind where
  | other | oversized | badFcs | pause8023x
  deriving DecidableEq, Repr

/-- A register of a function's configuration space: of its header by its place; of a capability, whose place the manual does not give, by its
distance from the capability's start: PCI Express, MSI-X, power management, Resizable BAR, VF Resizable BAR, SR-IOV; or another's (R406). -/
inductive CfgReg where
  | header (off : Nat)
  | pcie (off : Nat)
  | msix (off : Nat)
  | power (off : Nat)
  | rebar (off : Nat)
  | vfRebar (off : Nat)
  | sriov (off : Nat)
  | other (off : Nat)
  deriving DecidableEq, Repr

/-- A PCIe configuration request (R407, R321, R406): a read of a register of a function, 0 the physical one; a write of Bus Master Enable,
of NumVFs, of the power state, of half of BAR0 (of the virtual functions with `vf`), of a Resizable BAR's size; and a request with a
non-zero AT field. -/
inductive CfgReq where
  | read (fn : Nat) (reg : CfgReg)
  | bar (vf high : Bool) (value : Word32)
  | resize (vf : Bool) (size : Nat)
  | translated
  | busMaster (fn : Nat) (on : Bool)
  | numVFs (n : Nat)
  | powerState (fn : Nat) (d3hot : Bool)
  deriving DecidableEq, Repr

/-- The commands. Queue commands name the queue whose head they dispatch; the record itself stands in the state (R213). -/
inductive Instr where
  -- queue commands, dispatched from the head of queue q (R160 to R163)
  | nop (q : Nat)
  | cfgWrite (q : Nat)
  | patch (q : Nat)
  | start (q : Nat)
  | copy (q : Nat)
  | small (q : Nat)
  | signal (q : Nat)
  | wait (q : Nat)
  | fence (q : Nat)
  | reduce (q : Nat)
  | update (q : Nat)
  | snap (q : Nat)
  | hold (q : Nat)
  | release (q : Nat)
  | callChart (q : Nat)
  | cancel (q : Nat)
  -- the queue manager
  | doorbell (fn q : Nat) (value : Word32)
  | commandFetch (q : Nat)
  | loadCheck (q : Nat)
  | signalRelease (q : Nat)
  | completionWrite (ring : Nat)
  | ringFaultRetry (fn ring : Nat)
  | watchdogExpiry (q : Nat)
  | stallAck (job : Nat)
  | queueReset (fn q : Nat)
  | stop (fn q : Nat)
  | resume (fn q : Nat)
  | tmWrite (fn tm width : Nat) (value : Word64)
  | tmRead (fn tm width : Nat)
  | tmAddLatch (value : Word32)
  | tmAdd (wide : Bool) (value : Word64)
  -- the escalation table
  | escalationReport
  | read
  | commit (clearHistory thenRead : Bool)
  -- valleys and cores: v is the global valley index, c a logical core
  | slotRun (v c lslot : Nat)
  | passIssue (v c : Nat)
  | tileComplete (v c : Nat) (parity : List Nat)
  | drain (v c : Nat) (parity : List Nat)
  | panelFill (v : Nat) (c : Wired)
  | rowApply (v lslot : Nat)
  | taskComplete (q seq : Nat)
  | plainPacket (p : PlainPkt)
  | mergeWindowExpiry (v c bank word : Nat)
  | scrubStep (v c bank : Nat) (upset : List Byte)
  | channelReplay (die edge chan : Nat)
  -- Flood and Ebb engines
  | descriptorRead (e : Eng) (stream : Nat)
  | runRead (e : Eng) (stream : Wired)
  | readReturn (e : Eng) (stream : Wired)
  | gateOpen (e : Eng) (stream : Wired)
  | descriptorDone (e : Eng) (stream : Nat)
  | copyComplete (e : Eng) (stream : Nat)
  | handoffUnit (stack stream : Nat)
  | handoffTimeout (v c : Nat)
  | epochAck (e : Eng) (stream v : Nat)
  | lineBufferWrite (line : Nat)
  -- HBM and the Berm units
  | hbmAccess (stack unit : Nat) (who : HbmReq) (write : Option (Nat × List Byte)) (upset : HbmUpset)
  | patrolStep (stack : Nat) (upset : List Byte)
  | headerOp (stack addr : Nat) (op : HdrReq)
  | blockClaim (stack q seq : Nat)
  | blockCommit (stack q seq blk : Nat)
  | normWaitPass (stack q seq : Nat)
  | bermWaitTimeout (stack q seq : Nat) (blk : Option Nat)
  -- Estuary: contexts are numbered 0 to 255; packets are the UDP payload, with the sending port p of the source
  | contextTake (ctx : Nat)
  | exchangeStart (ctx : Nat)
  | fillWaitTimeout (ctx : Nat)
  | scatter (port : Nat) (src : UdpSrc) (pkt : List Byte)
  | gather (port : Nat) (src : UdpSrc) (pkt : List Byte)
  | up (port : Nat) (src : UdpSrc) (pkt : List Byte)
  | down (port : Nat) (src : UdpSrc) (pkt : List Byte)
  | louberAck (port : Nat) (src : UdpSrc) (pkt : List Byte)
  | abort (port : Nat) (src : UdpSrc) (pkt : List Byte)
  | louberAckSend (job srcPort ipHi ipLo : Nat)
  | resendTimeout (job port ipHi ipLo : Nat)
  | lateTimeout (ctx : Nat)
  | pauseFrame (port prio : Nat)
  | otherFrame (port : Nat) (kind : FrameKind)
  | linkChange (port : Nat) (speed : Nat)
  | retrain (port : Nat)
  | estJobEnable (job : Nat) (value : Word32)
  -- Tideway: l is the link; flits are raw bytes
  | train (l : Nat) (flit : List Byte)
  | trainSend (l : Nat)
  | tidewayWrite (l : Nat) (flit : List Byte)
  | tidewaySignal (l : Nat) (flit : List Byte)
  | tidewayWake (l : Nat) (flit : List Byte)
  | heartbeat (l : Nat) (flit : List Byte)
  | tidewayAck (l : Nat) (flit : List Byte)
  | nak (l : Nat) (flit : NakFlit)
  | heartbeatSend (l : Nat)
  | tidewayAckSend (l : Nat)
  | replayTimeout (l : Nat)
  | linkDown (l : Nat)
  | partnerLost
  | mirrorRound (job : Nat)
  | mirrorRetry (job : Nat)
  | wakePartner
  | linkRetrain (l : Nat)
  | snapWrite (q seq : Nat)
  | restore (value : Word32)
  | restoreDone
  -- the slack hold, sounding and resets: page is the BAR0 address of the block's page
  | holdEntered (page : Nat)
  | holdLeft (page : Nat)
  | soundStart (page : Nat) (value : Word32)
  | soundDone (page : Nat) (faults : List SoundFault)
  | resetReq (page : Nat)
  | countClr (page : Nat)
  | localTimeRead (fn page off width : Nat)
  | registerWrite (fn addr width : Nat) (value : Word64)
  -- jobs
  | create (job : Nat) (vfEn : Bool)
  | destroy (job : Nat)
  | jobReset (job : Nat)
  | inval (job : Nat) (walkInProgress : Bool)
  | assign (job valley : Nat)
  | valleyRelease (job valley : Nat)
  | seqEnable (die ctx : Nat) (value : Word32)
  | functionLevelReset (fn : Nat)
  | hotReset
  -- mailbox commands
  | getInfo (m : MboxSrc)
  | fwBegin (m : MboxSrc)
  | fwData (m : MboxSrc) (chk : ImageChecks) (bufferFull : Bool)
  | fwEnd (m : MboxSrc) (chk : FwEndChecks)
  | fwAbort (m : MboxSrc)
  | svnCommit (m : MboxSrc) (blown : Nat)
  | certRead (m : MboxSrc)
  | logRead (m : MboxSrc)
  | logClear (m : MboxSrc)
  | crashRead (m : MboxSrc)
  | alertClear (m : MboxSrc)
  | reset (m : MboxSrc)
  | powerDown (m : MboxSrc)
  | settingsWrite (m : MboxSrc)
  | unknownCmd (m : MboxSrc)
  -- the sideband
  | sbPointerWrite (bytes : List Byte)
  | sbRead (count : Nat)
  | shadowRefresh
  | entdaa (addr : Nat)
  | setdasa (static addr : Nat)
  | rstdaa
  | getpid
  | getbcr
  | getdcr
  | getstatus
  | enec (mask : Nat)
  | disec (mask : Nat)
  | otherCcc (code : Nat)
  -- attestation over DOE
  | doeDiscovery (index : Nat)
  | getVersion
  | getCapabilities (req : List Byte)
  | negotiateAlgorithms (req : List Byte)
  | getDigests
  | getCertificate (slot offset length : Nat)
  | challenge (slot : Nat) (req : List Byte)
  | getMeasurements (index : Nat) (signed : Bool) (req : List Byte)
  | getCosign (payload : List Byte)
  | getSlhChain (payload : List Byte)
  | unsupportedRequest (code : Nat)
  | cosignReady
  -- JTAG
  | idcode
  | bypass (code : Nat)
  | samplePreload (pins preload : List Bool)
  | extest
  | clamp
  -- service
  | reload (die : Nat) (source : Bool)
  | heartbeatLost (die : Nat)
  | slEnable (job : Nat) (value : Word32)
  | flush (job : Nat)
  | slLineWrite (job : Nat)
  | slHeaderRewrite (job : Nat)
  | intervalUpdate
  -- power, clocks and resets
  | powerOn (chk : ImageChecks) (faults : List BootFault)
  | bootTimeout
  | overvoltage (mv minMv : Nat)
  | undervoltage (mv minMv : Nat)
  | lowWaterEntry (mv : Nat)
  | lowWaterDip (mv : Nat)
  | lowWaterExit (mv : Nat)
  | governorTick (watts peak : Nat)
  | thermalSample (t : Temps)
  | refclk100Loss
  | refclk156Loss
  | modResetN (lowMicros : Nat) (chk : ImageChecks) (faults : List BootFault)
  | moduleReset (chk : ImageChecks) (faults : List BootFault)
  | deviceReset
  | resetComplete (page : Nat)
  | powerDownExpiry
  | stby12vChange (ok : Bool)
  | configurationRequest (r : CfgReq)
  | pauseExpiry (port : Nat)
  deriving DecidableEq, Repr

end Sys2Proof
end

