-- ==== Sys2Proof/Config.lean ====
section
/-! DEFINITION. What a grade fixes (R2, R45, R378) and the free values of the model: constants with no body,
so that nothing can be proved of the value the manual leaves open. -/

namespace Sys2Proof

/-- The three grades of R2. The letter is the one HDL_GRADE_ID reports (R45). -/
inductive Grade where
  | a | b | c
  deriving DecidableEq, Repr

/-- Enabled cores per valley (R2). -/
def Grade.enabled : Grade → Nat
  | .a => 250 | .b => 220 | .c => 180

/-- HBM stacks fitted (R2, R13): H0 upward. -/
def Grade.stacks : Grade → Nat
  | .a => 8 | .b => 8 | .c => 6

/-- Scale-out ports fitted (R2, R292). -/
def Grade.ports : Grade → Nat
  | .a => 16 | .b => 16 | .c => 8

/-- Berm units present (R2, R256). -/
def Grade.berms : Grade → Nat
  | .a => 8 | .b => 8 | .c => 0

/-- Crest units present (R2, R128). -/
def Grade.crest : Grade → Bool
  | .a => true | .b => false | .c => false

/-- TDP in watts (R378). -/
def Grade.tdp : Grade → Nat
  | .a => 9000 | .b => 8200 | .c => 6800

/-- The low-water cap of R378 in watts, 35 % of TDP. -/
def Grade.lowWaterCap : Grade → Nat
  | .a => 3150 | .b => 2870 | .c => 2380

/-- ASCII letter of the grade (R45). -/
def Grade.letter : Grade → Nat
  | .a => 0x41 | .b => 0x42 | .c => 0x43

/-- HBM capacity in GB as HDL_GRADE_ID reports it (R45). -/
def Grade.hbmGB : Grade → Nat
  | .a => 384 | .b => 384 | .c => 288

namespace Config

/-- The functions of R113 whose mapping the manual does not fix bit for bit. -/
inductive Fn where
  | geluErf | geluTanh | silu | sigmoid | tanh
  | dGeluErf | dGeluTanh | dSilu | dSigmoid | dTanh
  | exp
  deriving DecidableEq, Repr

/-- FREE VALUE (log 2). How many cycles the clock of an island counts while the machine idles for its `n`-th time: islands have clocks
of their own (R23). -/
opaque clockRate : Nat → Nat → Nat

/-- FREE VALUE (log 10). Which of the results within 2 units in the last place the fixed mapping of R113 gives at a finite input: the
manual binds the mapping only by its accuracy and its sameness. -/
opaque fnChoice : Fn → Word32 → Nat

/-- FREE VALUE (log 10). Which of the results within 1 unit in the last place rsqrt gives at a positive finite input (R124). -/
opaque rsqrtChoice : Word32 → Nat

/-- FREE VALUE (log 11). SHA-384 of a message, a standard the manual cites and does not restate. -/
opaque sha384 : List Byte → List Byte

/-- FREE VALUE (log 11). Whether a signature verifies over a message as RSASSA-PSS with SHA-384, under a modulus and exponent, each as the
image's header holds it (R337). -/
opaque rsaVerify : List Byte → List Byte → List Byte → List Byte → Bool

/-- FREE VALUE (log 11). Whether a signature verifies over a message as SLH-DSA-SHA2-192s, under a public key and with a context string
(R337). -/
opaque slhVerify : List Byte → List Byte → List Byte → List Byte → Bool

/-- FREE VALUE (log 11). The RSA signature the key store makes of a message, with the serial number of the module and a
counter of signatures made (the salt is not fixed) (R340, R341). -/
opaque rsaSign : Nat → Nat → List Byte → List Byte

/-- FREE VALUE (log 11). The SLH-DSA signature the key store makes of a message (R344). -/
opaque slhSign : Nat → Nat → List Byte → List Byte

/-- FREE VALUE (log 11). The 84 bytes of the SPDM combined signing prefix after its first 16 (R341): 0 for CHALLENGE_AUTH, 1 for
MEASUREMENTS. -/
opaque signContext : Nat → List Byte

/-- FREE VALUE (log 11). The SHA-384 hash of an SPDM transcript, which the SPDM standard composes: the count of signatures made and
the request. -/
opaque transcriptHash : Nat → List Byte → List Byte

/-- FREE VALUE (log 12). Bytes of a copy the manual calls undefined: the working-copy slot a stopped Berm block wrote (R250),
the unwritten array of a state copy (R243). Applied to the model's counter `State.freeCount` and an index. -/
opaque undefinedByte : Nat → Nat → Byte

/-- FREE VALUE (log 13). The identity certificate chains in the provisioning region (R333, R340), 0 RSA and 1 SLH-DSA: the bytes before the
subject serial number of the device certificate, the spelling of a serial number there, and the bytes after it, with the issuer's
signature. -/
opaque certBefore : Nat → List Byte
opaque serialText : Nat → List Byte
opaque certAfter : Nat → Nat → List Byte

/-- FREE VALUE (log 13). Krytne's manufacturer codes: MIPI (R403), JEDEC (R404), PCI-SIG Vendor ID (R406), and the
silicon stepping. -/
opaque makerCode : Nat → Nat

/-- FREE VALUE (log 16). I3C characteristics the manual does not give: 0 BCR, 1 DCR, 2 GETSTATUS; with the alert bits. -/
opaque i3cValue : Nat → Nat → Nat

/-- FREE VALUE (log 16). Registers of the PCIe configuration space whose contents the manual does not give, with the physical function's
Bus Master Enable and NumVFs. -/
opaque cfgValue : Nat → Nat → Nat → Nat

/-- FREE VALUE (log 220). The levels that the pins of the boundary-scan chain show at an EXTEST, at the model's counter. -/
opaque jtagPins : Nat → List Bool

/-- FREE VALUE (log 220). What TDI shifts into the chain at an EXTEST, at the model's counter. -/
opaque jtagIn : Nat → List Bool

/-- FREE VALUE (log 29). SRC_POS of an ACK that a module sends before any plan has told it its position (R278, R281), at the model's
counter. -/
opaque ackPosition : Nat → BitVec 16

/-- FREE VALUE (log 149). The input voltage that Headland measures as its main input comes up, at the model's counter. -/
opaque inputMv : Nat → Nat

/-- FREE VALUE (log 14). The order the manual leaves open: a choice among `n` alternatives, at the model's counter. -/
opaque choose : Nat → Nat → Nat

end Config
end Sys2Proof
end

