-- ==== Sys2Proof/Machine/Tbl.lean ====
section
/-! DEFINITION. Sparse tables: a list of (key, entry) pairs, keys strictly rising, no entry equal to what an unlisted key
reads as. Memories, register files and the arrays of blocks of the module are all held so. -/

namespace Sys2Proof.Machine

/-- A sparse table from a number to an entry. -/
abbrev Tbl (β : Type) := List (Nat × β)

/-- The entry at `k`; `d` where none is listed. -/
def tget {β : Type} (d : β) : Tbl β → Nat → β
  | [], _ => d
  | (a, b) :: r, k => if k = a then b else tget d r k

/-- List `v` at `k`, in order of keys. -/
def tins {β : Type} (k : Nat) (v : β) : Tbl β → Tbl β
  | [] => [(k, v)]
  | (a, b) :: r => if k < a then (k, v) :: (a, b) :: r else if k = a then (k, v) :: r else (a, b) :: tins k v r

/-- List nothing at `k`. -/
def tdel {β : Type} (k : Nat) (m : Tbl β) : Tbl β := m.filter (fun e => decide (e.1 ≠ k))

/-- Store `v` at `k`, where an unlisted `k` reads as `d`: the canonical form is kept. -/
def tput {β : Type} [DecidableEq β] (d : β) (m : Tbl β) (k : Nat) (v : β) : Tbl β :=
  if v = d then tdel k m else tins k v m

/-- Update the entry at `k`. -/
def tmod {β : Type} [DecidableEq β] (d : β) (m : Tbl β) (k : Nat) (f : β → β) : Tbl β :=
  tput d m k (f (tget d m k))

/-- The canonical form, where an unlisted key `k` reads as `d k`. -/
def twf {β : Type} [DecidableEq β] (d : Nat → β) : Tbl β → Bool
  | [] => true
  | [(a, b)] => decide (b ≠ d a)
  | (a, b) :: (c, e) :: r => decide (b ≠ d a) && decide (a < c) && twf d ((c, e) :: r)

/-- Keep the listed entries whose key satisfies `p`. -/
def tfilter {β : Type} (p : Nat → Bool) (m : Tbl β) : Tbl β := m.filter (fun e => p e.1)

end Sys2Proof.Machine
end

