-- ==== Sys2Proof/Machine/Bits.lean ====
section
/-! DEFINITION. Fields of words, byte order (R8: little-endian; the Louber header big-endian, R278) and CRC-32C (R278, R372,
R386, R411). -/

namespace Sys2Proof.Machine

/-- Bits [hi:lo] of a number. -/
def bitsOf (w hi lo : Nat) : Nat := (w >>> lo) % 2 ^ (hi + 1 - lo)

/-- Bit i of a number as a Bool. -/
def bitOf (w i : Nat) : Bool := (w >>> i) % 2 == 1

/-- Bits [hi:lo] of a word, as a number. -/
def fld {n : Nat} (w : BitVec n) (hi lo : Nat) : Nat := bitsOf w.toNat hi lo

/-- Bit i of a word. -/
def bit {n : Nat} (w : BitVec n) (i : Nat) : Bool := bitOf w.toNat i

/-- The word with bits [hi:lo] replaced by the low bits of v. -/
def setFld {n : Nat} (w : BitVec n) (hi lo v : Nat) : BitVec n :=
  BitVec.ofNat n (w.toNat - (fld w hi lo <<< lo) + ((v % 2 ^ (hi + 1 - lo)) <<< lo))

/-- One bit of a word set to b. -/
def setBit {n : Nat} (w : BitVec n) (i : Nat) (b : Bool) : BitVec n := setFld w i i (if b then 1 else 0)

/-- A Bool as a number. -/
def b2n (b : Bool) : Nat := if b then 1 else 0

/-- Little-endian bytes to a number (R8). -/
def leNat : List Byte → Nat
  | [] => 0
  | b :: r => b.toNat + 256 * leNat r

/-- The low `k` bytes of a number, little-endian (R8). -/
def leBytes : Nat → Nat → List Byte
  | 0, _ => []
  | k + 1, n => BitVec.ofNat 8 n :: leBytes k (n / 256)

/-- The low `k` bytes of a number, most significant first (R278). -/
def beBytes (k n : Nat) : List Byte := (leBytes k n).reverse

/-- Big-endian bytes to a number (R278). -/
def beNat (l : List Byte) : Nat := leNat l.reverse

/-- The value of an n-bit two's-complement number. -/
def signedOf (n w : Nat) : Int := if w % 2 ^ n < 2 ^ (n - 1) then (w % 2 ^ n : Nat) else (w % 2 ^ n : Nat) - (2 ^ n : Nat)

/-- One bit step of the reflected CRC-32C (Castagnoli polynomial). -/
def crcBit (c : Nat) : Nat := if c % 2 = 1 then (c / 2) ^^^ 0x82F63B78 else c / 2

/-- One byte step of CRC-32C. -/
def crcByte (c : Nat) (b : Byte) : Nat :=
  crcBit (crcBit (crcBit (crcBit (crcBit (crcBit (crcBit (crcBit (c ^^^ b.toNat))))))))

/-- CRC-32C of a string of bytes. -/
def crc32c (l : List Byte) : Nat := (l.foldl crcByte 0xFFFFFFFF) ^^^ 0xFFFFFFFF

/-- `n` bytes of `l` from `o`, short reads filled with zero. -/
def slice (l : List Byte) (o n : Nat) : List Byte := ((l.drop o).take n) ++ List.replicate (n - (l.drop o).length) 0

/-- Saturating count of a counter of `w` bits. -/
def satAdd (w a b : Nat) : Nat := min (2 ^ w - 1) (a + b)

/-- Ceiling division. -/
def cdiv (a b : Nat) : Nat := (a + b - 1) / b

/-- Replace element `i` of a list. -/
def listSet {α : Type} : List α → Nat → α → List α
  | [], _, _ => []
  | _ :: r, 0, v => v :: r
  | a :: r, i + 1, v => a :: listSet r i v

end Sys2Proof.Machine
end

