-- ==== Sys2Proof/Machine/Float.lean ====
section
/-! DEFINITION. The published number formats and their arithmetic: values, exact sums and products, rounding (R48 to R51, R65,
R100, R104, R251). -/

namespace Sys2Proof.Machine

/-- A value of any format: NaN, an infinity, or (-1)^neg * m * 2^e exactly. The sign of zero is kept. -/
inductive Num where
  | nan
  | inf (neg : Bool)
  | fin (neg : Bool) (m : Nat) (e : Int)
  deriving DecidableEq, Repr

/-- The published formats of R48, and FP64 for the sum of R253. -/
inductive FpFmt where
  | fp32 | bf16 | fp16 | e4m3 | e5m2 | fp64
  deriving DecidableEq, Repr

/-- Exponent bits (R48). -/
def FpFmt.ew : FpFmt → Nat
  | .fp32 => 8 | .bf16 => 8 | .fp16 => 5 | .e4m3 => 4 | .e5m2 => 5 | .fp64 => 11

/-- Mantissa bits (R48). -/
def FpFmt.mw : FpFmt → Nat
  | .fp32 => 23 | .bf16 => 7 | .fp16 => 10 | .e4m3 => 3 | .e5m2 => 2 | .fp64 => 52

/-- Exponent bias (R48). -/
def FpFmt.bias : FpFmt → Nat
  | .fp32 => 127 | .bf16 => 127 | .fp16 => 15 | .e4m3 => 7 | .e5m2 => 15 | .fp64 => 1023

/-- Magnitude code of the largest finite value (R48). -/
def FpFmt.maxCode : FpFmt → Nat
  | .fp32 => 0x7F7FFFFF | .bf16 => 0x7F7F | .fp16 => 0x7BFF | .e4m3 => 0x7E | .e5m2 => 0x7B | .fp64 => 0x7FEFFFFFFFFFFFFF

/-- The canonical quiet NaN (R50). -/
def FpFmt.nanCode : FpFmt → Nat
  | .fp32 => 0x7FC00000 | .bf16 => 0x7FC0 | .fp16 => 0x7E00 | .e4m3 => 0x7F | .e5m2 => 0x7E | .fp64 => 0x7FF8000000000000

/-- Bytes of one element. -/
def FpFmt.bytes : FpFmt → Nat
  | .fp32 => 4 | .bf16 => 2 | .fp16 => 2 | .e4m3 => 1 | .e5m2 => 1 | .fp64 => 8

/-- What an out-of-range finite value becomes when rounded to nearest (R51): E4M3 and E5M2 saturate, the others give infinity. -/
def FpFmt.overCode : FpFmt → Nat
  | .e4m3 => 0x7E | .e5m2 => 0x7B | f => f.maxCode + 1

/-- What an infinity becomes (R51). -/
def FpFmt.infCode : FpFmt → Nat
  | .e4m3 => 0x7E | f => f.maxCode + 1

/-- The value a code stands for (R48, R49). -/
def decodeNum (f : FpFmt) (w : Nat) : Num :=
  let mf := w % 2 ^ f.mw
  let ef := (w / 2 ^ f.mw) % 2 ^ f.ew
  let s := bitOf w (f.ew + f.mw)
  match f with
  | .e4m3 => if ef = 15 ∧ mf = 7 then .nan
             else if ef = 0 then .fin s mf (1 - 7 - 3) else .fin s (mf + 8) ((ef : Int) - 7 - 3)
  | _ => if ef = 2 ^ f.ew - 1 then (if mf = 0 then .inf s else .nan)
         else if ef = 0 then .fin s mf (1 - (f.bias : Int) - f.mw)
         else .fin s (mf + 2 ^ f.mw) ((ef : Int) - f.bias - f.mw)

/-- A magnitude m * 2^e cut to a format of `mw` mantissa bits and bias `bias`: the code of the largest representable
magnitude not above it (unlimited in range), with the remainder `rem` of `2^sh` in units of the last place. -/
def cutGen (mw bias m : Nat) (e : Int) : Nat × Nat × Nat :=
  if m = 0 then (0, 0, 0) else
  let top : Int := e + (Nat.log2 m : Nat)
  let emin : Int := 1 - (bias : Int)
  let ex : Int := max top emin
  let q : Int := ex - mw
  let base : Nat := ((ex + bias - 1).toNat) * 2 ^ mw
  if q ≤ e then (base + m * 2 ^ (e - q).toNat, 0, 0)
  else
    let sh := (q - e).toNat
    (base + m / 2 ^ sh, m % 2 ^ sh, sh)

/-- A cut magnitude rounded to nearest, ties to the even code. -/
def nearCut (x : Nat × Nat × Nat) : Nat :=
  if x.2.2 = 0 then x.1
  else if 2 * x.2.1 > 2 ^ x.2.2 then x.1 + 1
  else if 2 * x.2.1 = 2 ^ x.2.2 ∧ x.1 % 2 = 1 then x.1 + 1
  else x.1

/-- `cutGen` for a published format. -/
def cutMag (f : FpFmt) (m : Nat) (e : Int) : Nat × Nat × Nat := cutGen f.mw f.bias m e

/-- The magnitude code rounded to nearest, ties to even, unlimited in range. -/
def nearMag (f : FpFmt) (m : Nat) (e : Int) : Nat := nearCut (cutMag f m e)

/-- A code with its sign bit. -/
def withSign (f : FpFmt) (neg : Bool) (c : Nat) : Nat := (if neg then 2 ^ (f.ew + f.mw) else 0) + c

/-- Round to nearest even into a format, as R51 gives for values outside its range. -/
def roundNum (f : FpFmt) : Num → Nat
  | .nan => f.nanCode
  | .inf s => withSign f s f.infCode
  | .fin s m e => let c := nearMag f m e; withSign f s (if c > f.maxCode then f.overCode else c)

/-- Round to nearest even, saturating at the largest finite (R104); the Bool says it saturated. -/
def roundSat (f : FpFmt) : Num → Nat × Bool
  | .nan => (f.nanCode, false)
  | .inf s => (withSign f s f.infCode, false)
  | .fin s m e => let c := nearMag f m e; if c > f.maxCode then (withSign f s f.maxCode, true) else (withSign f s c, false)

/-- Stochastic rounding of R65 with draw r. The values R65 exempts are rounded to nearest. -/
def roundStoch (f : FpFmt) (r : Nat) : Num → Nat
  | .fin s m e =>
    let (c, rem, sh) := cutMag f m e
    if c > f.maxCode then roundNum f (.fin s m e)
    else if c = f.maxCode ∧ sh ≠ 0 ∧ rem ≠ 0 then
      withSign f s (match f with
        | .e4m3 => f.maxCode
        | .e5m2 => f.maxCode
        | _ => if 2 * rem < 2 ^ sh then f.maxCode else f.maxCode + 1)
    else if rem = 0 then withSign f s c
    else withSign f s (if r < rem * 65536 / 2 ^ sh then c + 1 else c)
  | x => roundNum f x

/-- The sign of a value. -/
def Num.neg : Num → Bool
  | .nan => false | .inf s => s | .fin s _ _ => s

/-- The value negated. -/
def Num.negate : Num → Num
  | .nan => .nan | .inf s => .inf (!s) | .fin s m e => .fin (!s) m e

/-- Whether a value is zero. -/
def Num.isZero : Num → Bool
  | .fin _ m _ => m == 0 | _ => false

/-- Whether a value is finite. -/
def Num.isFin : Num → Bool
  | .fin _ _ _ => true | _ => false

/-- A signed whole number times 2^e. -/
def Num.ofInt (i : Int) (e : Int) : Num := .fin (decide (i < 0)) i.natAbs e

/-- The mantissa of a finite value as a signed number. -/
def sgn (s : Bool) (m : Nat) : Int := if s then -(m : Int) else (m : Int)

/-- Exact product, specials as IEEE 754 gives. -/
def Num.mul : Num → Num → Num
  | .nan, _ => .nan
  | _, .nan => .nan
  | .inf s, .inf t => .inf (s != t)
  | .inf s, .fin t m _ => if m = 0 then .nan else .inf (s != t)
  | .fin s m _, .inf t => if m = 0 then .nan else .inf (s != t)
  | .fin s m e, .fin t n d => .fin (s != t) (m * n) (e + d)

/-- Exact sum, specials and the sign of zero as IEEE 754 gives for rounding to nearest. -/
def Num.add : Num → Num → Num
  | .nan, _ => .nan
  | _, .nan => .nan
  | .inf s, .inf t => if s = t then .inf s else .nan
  | .inf s, .fin _ _ _ => .inf s
  | .fin _ _ _, .inf t => .inf t
  | .fin s m e, .fin t n d =>
    if m = 0 ∧ n = 0 then .fin (s && t) 0 0
    else
      let x : Int := min e d
      let i := sgn s m * (2 ^ (e - x).toNat : Nat) + sgn t n * (2 ^ (d - x).toNat : Nat)
      Num.ofInt i x

/-- Whether a is less than b, as numbers (false where either is a NaN). -/
def Num.lt : Num → Num → Bool
  | .nan, _ => false
  | _, .nan => false
  | .inf s, .inf t => s && !t
  | .inf s, .fin _ _ _ => s
  | .fin _ _ _, .inf t => !t
  | .fin s m e, .fin t n d =>
    let x : Int := min e d
    decide (sgn s m * (2 ^ (e - x).toNat : Nat) < sgn t n * (2 ^ (d - x).toNat : Nat))

/-- The value of an FP32 word. -/
def f32 (w : Word32) : Num := decodeNum .fp32 w.toNat

/-- Round to FP32 as IEEE 754 does, NaN canonical (R50). -/
def toF32 (x : Num) : Word32 := BitVec.ofNat 32 (roundNum .fp32 x)

/-- Round to FP32, saturating (R104). -/
def toF32Sat (x : Num) : Word32 × Bool := let r := roundSat .fp32 x; (BitVec.ofNat 32 r.1, r.2)

/-- FP32 +0.0. -/
def f32Zero : Word32 := 0
/-- FP32 1.0. -/
def f32One : Word32 := 0x3F800000
/-- FP32 canonical NaN (R50). -/
def f32Nan : Word32 := 0x7FC00000
/-- FP32 minus infinity. -/
def f32NegInf : Word32 := 0xFF800000
/-- FP32 plus infinity. -/
def f32PosInf : Word32 := 0x7F800000

/-- FP32 addition, one rounding. -/
def fadd (a b : Word32) : Word32 := toF32 ((f32 a).add (f32 b))
/-- FP32 subtraction, one rounding. -/
def fsub (a b : Word32) : Word32 := toF32 ((f32 a).add (f32 b).negate)
/-- FP32 multiplication, one rounding. -/
def fmul (a b : Word32) : Word32 := toF32 ((f32 a).mul (f32 b))
/-- FP32 fused multiply-add, one rounding. -/
def ffma (a b c : Word32) : Word32 := toF32 (((f32 a).mul (f32 b)).add (f32 c))
/-- FP32 negation. -/
def fneg (a : Word32) : Word32 := if f32 a = .nan then f32Nan else a ^^^ 0x80000000

/-- FP32 division, correctly rounded. -/
def fdiv (a b : Word32) : Word32 :=
  match f32 a, f32 b with
  | .nan, _ => f32Nan
  | _, .nan => f32Nan
  | .inf _, .inf _ => f32Nan
  | .inf s, .fin t _ _ => toF32 (.inf (s != t))
  | .fin s _ _, .inf t => toF32 (.fin (s != t) 0 0)
  | .fin s m e, .fin t n d =>
    if n = 0 then (if m = 0 then f32Nan else toF32 (.inf (s != t)))
    else
      let q := (m * 2 ^ 64) / n
      let r := (m * 2 ^ 64) % n
      toF32 (.fin (s != t) (2 * q + (if r = 0 then 0 else 1)) (e - d - 65))

/-- Whole square root by `fuel` binary digits. -/
def isqrtLoop (n : Nat) : Nat → Nat → Nat
  | 0, r => r
  | k + 1, r => let t := r + 2 ^ k; isqrtLoop n k (if t * t ≤ n then t else r)

/-- Whole square root of a number below 2^128. -/
def isqrt (n : Nat) : Nat := isqrtLoop n 64 0

/-- FP32 square root, correctly rounded. -/
def fsqrt (a : Word32) : Word32 :=
  match f32 a with
  | .nan => f32Nan
  | .inf s => if s then f32Nan else f32PosInf
  | .fin s m e =>
    if m = 0 then a
    else if s then f32Nan
    else
      let k : Nat := if e % 2 = 0 then 64 else 65
      let n := m * 2 ^ k
      let r := isqrt n
      let x := if r * r = n then 0 else 1
      toF32 (.fin false (2 * r + x) ((e - k) / 2 - 1))

/-- Widen a stored element of a published format exactly to FP32 (R51). -/
def widen (f : FpFmt) (w : Nat) : Word32 := toF32 (decodeNum f w)

/-- The magnitude of an FP32 word. -/
def fabs (a : Word32) : Word32 := a &&& 0x7FFFFFFF

/-- Whether an FP32 word is finite. -/
def isFinite32 (a : Word32) : Bool := (f32 a).isFin

/-- Whether an FP32 word is a finite normal positive value (R52). -/
def isPosNormal (a : Word32) : Bool := decide (0x00800000 ≤ a.toNat ∧ a.toNat ≤ 0x7F7FFFFF)

/-- FP32 comparison. -/
def flt (a b : Word32) : Bool := (f32 a).lt (f32 b)

end Sys2Proof.Machine
end

