-- ==== Sys2Proof/Machine/Pajor.lean ====
section
/-! DEFINITION. The Pajor formats: elements, block headers, the E5M3 scale and quantisation to PJ4 (R54 to R68). -/

namespace Sys2Proof.Machine

/-- Twice the PJ4 magnitudes of R54, by exponent and mantissa bits. -/
def pj4Mags : List Nat := [0, 1, 2, 3, 4, 6, 8, 12]

/-- The value of a PJ4 element (R54); negative zero is read as zero. -/
def pj4Num (c : Nat) : Num := .fin (bitOf c 3) (pj4Mags.getD (c % 8) 0) (-1)

/-- The value of a PJ4i element (R55). -/
def pj4iNum (c : Nat) : Num := Num.ofInt (signedOf 4 c) 0

/-- The value of a PJ2 element (R56); the reserved code is read as zero. -/
def pj2Num (c : Nat) : Num :=
  if c % 4 = 1 then .fin false 1 0 else if c % 4 = 3 then .fin true 1 0 else .fin false 0 0

/-- The block scale of R60 as an exact value. -/
def e5m3Num (s : Nat) : Num :=
  let m := s % 8
  let e := (s / 8) % 32
  if e = 0 then .fin false m (-17) else .fin false (8 + m) ((e : Int) - 18)

/-- Element c of a PJ4 block of scale s (R60, R61). -/
def pj4Elem (s c : Nat) : Num := (e5m3Num s).mul (pj4Num c)
/-- Element c of a PJ4i block of scale s. -/
def pj4iElem (s c : Nat) : Num := (e5m3Num s).mul (pj4iNum c)
/-- Element c of a PJ2 block of scale s. -/
def pj2Elem (s c : Nat) : Num := (e5m3Num s).mul (pj2Num c)

/-- The CLIP or ERR count of a header as the module sums it: 65 to 127 count as 64 (R61). -/
def hdrCount (h : Nat) : Nat := min 64 (bitsOf h 14 8)

/-- A block header (R59). -/
def mkHeader (clamp : Bool) (clip scale : Nat) : Nat := b2n clamp * 0x8000 + (clip % 128) * 256 + scale % 256

/-- PJ4 element c of a block's 32 element bytes (R58). -/
def nibbleAt (l : List Byte) (i : Nat) : Nat := bitsOf (l.getD (i / 2) 0).toNat (4 * (i % 2) + 3) (4 * (i % 2))

/-- PJ2 element c of a block's 16 element bytes (R58). -/
def crumbAt (l : List Byte) (i : Nat) : Nat := bitsOf (l.getD (i / 4) 0).toNat (2 * (i % 4) + 1) (2 * (i % 4))

/-- Reserved PJ2 codes among the 64 of a block (R68). -/
def pj2Reserved (l : List Byte) : Nat := ((List.range 64).filter (fun i => crumbAt l i == 2)).length

/-- A magnitude and a scale as whole numbers over one power of two: (X, Y) with |x| / S = X / Y. -/
def ratioOf (m : Nat) (e : Int) (s : Nat) : Nat × Nat :=
  match e5m3Num s with
  | .fin _ sm se =>
    let x : Int := min e se
    (m * 2 ^ (e - x).toNat, sm * 2 ^ (se - x).toNat)
  | _ => (0, 1)

/-- The halfway points of R63 in quarters, each with whether a tie goes up. -/
def pj4Halves : List (Nat × Bool) := [(1, false), (3, true), (5, false), (7, true), (10, false), (14, true), (20, false)]

/-- Index of the PJ4 magnitude nearest to X / Y (R63): the halfway points it has passed. -/
def pj4Near (X Y : Nat) : Nat :=
  (pj4Halves.filter (fun t => decide (4 * X > t.1 * Y) || (t.2 && decide (4 * X = t.1 * Y)))).length

/-- Index of the largest PJ4 magnitude not above X / Y. -/
def pj4Floor (X Y : Nat) : Nat := ((pj4Mags.drop 1).filter (fun t => decide (2 * X ≥ t * Y))).length

/-- Index of the PJ4 magnitude of R65 with draw r. -/
def pj4Stoch (X Y r : Nat) : Nat :=
  let i := pj4Floor X Y
  let a := pj4Mags.getD i 0
  let b := pj4Mags.getD (i + 1) 0
  if i = 7 ∨ 2 * X = a * Y then i
  else if r < (2 * X - a * Y) * 65536 / ((b - a) * Y) then i + 1 else i

/-- One element of R62: its code and whether it counts in CLIP. `r` is the draw of stochastic rounding. -/
def pj4Code (s : Nat) (r : Option Nat) (x : Word32) : Nat × Bool :=
  match f32 x with
  | .nan => (0, true)
  | .inf n => (7 + 8 * b2n n, true)
  | .fin n m e =>
    let (X, Y) := ratioOf m e s
    if X > 6 * Y then (7 + 8 * b2n n, true)
    else
      let i := match r with | none => pj4Near X Y | some d => pj4Stoch X Y d
      (if i = 0 then 0 else i + 8 * b2n n, false)

/-- The larger magnitude of two values, NaN ignored; infinity counts as infinity (R62). -/
def maxMag (a : Num) (x : Word32) : Num :=
  match f32 x with
  | .nan => a
  | .inf _ => .inf false
  | .fin _ m e => if a.lt (.fin false m e) then .fin false m e else a

/-- The scale code and CLAMP of R62 for a largest magnitude. -/
def pj4Scale (amax : Num) : Nat × Bool :=
  match amax with
  | .fin _ m e =>
    if (Num.fin false 737280 0).lt amax then (0xFF, true)
    else
      let q := (m * 2 ^ 40) / 6
      let r := (m * 2 ^ 40) % 6
      let c := nearCut (cutGen 3 15 (2 * q + (if r = 0 then 0 else 1)) (e - 41))
      if c = 0 then (0x01, true) else (c, false)
  | _ => (0xFF, true)

/-- A quantised block: 64 codes and the header (R62). -/
structure Pj4Block where
  codes  : List Nat
  header : Nat
  deriving DecidableEq, Repr

/-- R62: quantise 64 FP32 values; `draws` is empty for rounding to nearest. -/
def quantisePj4 (xs : List Word32) (draws : List Nat) : Pj4Block :=
  let amax := xs.foldl maxMag (.fin false 0 0)
  if amax.isZero then
    ⟨xs.map (fun _ => 0), mkHeader false (xs.filter (fun x => f32 x == .nan)).length 0⟩
  else
    let (s, clamp) := pj4Scale amax
    let cs := (xs.zip (List.range xs.length)).map (fun p => pj4Code s draws[p.2]? p.1)
    ⟨cs.map (·.1), mkHeader clamp (cs.filter (·.2)).length s⟩

/-- Nibbles packed two a byte, the even element low (R58). -/
def packNibbles : List Nat → List Byte
  | a :: b :: r => BitVec.ofNat 8 (a + 16 * b) :: packNibbles r
  | [a] => [BitVec.ofNat 8 a]
  | [] => []

end Sys2Proof.Machine
end

