-- ==== Sys2Proof/Machine/State.lean ====
section
/-! DEFINITION. The state of the module, as plain data, and its value right after reset. Registers of the 4 KiB pages (R28 and the
register tables of every chapter) stand in `State.regs` under their BAR0 addresses; the arrays of records, the engines and Headland's
stores have structures of their own. Fields marked MODEL are the model's own bookkeeping of work in progress that the manual
describes without naming a register for it. -/

namespace Sys2Proof.Machine

/-- A record of eight 64-bit words: a command (R160), a descriptor (R190). -/
abbrev Rec := List Word64

/-- Memory: bytes by address, canonical (Host.Cell), an unlisted byte reading 0 (log 3). -/
abbrev Memory := List Host.Cell

/-- What a completion record says of its command, besides its handle (R206, R220). -/
structure CompRec where
  status     : Nat := 0
  flags      : Nat := 0
  faultKind  : Nat := 0
  nonrestart : Bool := false
  partialOut : Bool := false
  badReason  : Nat := 0
  faultRun   : Nat := 0
  detail     : Nat := 0
  index      : Nat := 0
  deriving DecidableEq, Repr

/-- Where a long command stands (R165, R219): at its engine; ended but kept at its engine for want of a pending place; its record
composed and waiting for its ring. A command whose record is written is no longer listed. -/
inductive OpPhase where
  | running | ended | stored
  deriving DecidableEq, Repr

/-- MODEL. A long command dispatched and not yet wholly reported (R162, R166, R216). -/
structure Op where
  queue    : Nat
  seq      : Nat
  job      : Nat
  ring     : Nat
  opcode   : Nat
  cmd      : Rec
  parent   : Option Nat := none
  phase    : OpPhase := .running
  comp     : CompRec := {}
  /-- Its index in its chart; 0xFFFF outside one (R184). -/
  index    : Nat := 0xFFFF
  /-- Order in which it ended, among those kept at their engines (R219). -/
  endNo    : Nat := 0
  deriving DecidableEq, Repr

/-- MODEL. A signal due and not yet performed (R165, R221, R222). -/
structure HeldSig where
  seq    : Nat
  own    : Bool
  /-- The latest command it follows: its own, or the last of its CALL_CHART's replay (R165, R222). -/
  last   : Nat
  tm     : Nat
  add    : Bool
  value  : Word64
  parent : Option Nat := none
  deriving DecidableEq, Repr

/-- A load held for Breakwater: commands not yet dispatched, and whether it has been checked (R178, R215). -/
structure Load where
  /-- Commands not yet dispatched. -/
  count   : Nat
  checked : Bool := false
  /-- Commands of it already dispatched. -/
  gone    : List Rec := []
  deriving DecidableEq, Repr

/-- A replay in progress (R177), checked where its queue checks loads: its CALL_CHART's sequence number, the chart's commands not yet
dispatched with their indices. -/
structure Replay where
  seq     : Nat
  cmd     : Rec
  cmds    : List (Nat × Rec)
  deriving DecidableEq, Repr

/-- A queue: its context (R214) and the queue manager's work for it. -/
structure Queue where
  sizeLog2    : BitVec 4 := 0
  cmdBase     : BitVec 40 := 0
  tail        : BitVec 16 := 0
  head        : BitVec 16 := 0
  watchdog    : BitVec 16 := 2000
  job         : BitVec 6 := 0
  stopCause   : BitVec 3 := 0
  stopped     : Bool := false
  tainted     : Bool := false
  enable      : Bool := false
  skipMode    : Bool := false
  defaultRing : BitVec 11 := 0
  nextSeq     : BitVec 50 := 0
  /-- I/O die LOCAL_TIME when the wait of the head command began, and the least WAITED_MS its watchdog vouches for. -/
  waitSince   : Nat := 0
  waitFloor   : Nat := 0
  /-- The head command waits for a memory request that is held (R407). -/
  waitMem     : Bool := false
  waitTm      : BitVec 13 := 0
  waitKind    : BitVec 3 := 0
  waitValue   : Word64 := 0
  /-- Loads submitted and not wholly dispatched (R178). -/
  loads       : List Load := []
  /-- Records fetched from HEAD onward (R213). -/
  fetched     : List Rec := []
  /-- The slot after `fetched` cannot be fetched: the record that says so (R217). -/
  fetchBad    : Option CompRec := none
  replay      : Option Replay := none
  /-- The cancellation list (R230). -/
  cancels     : List Nat := []
  sigs        : List HeldSig := []
  /-- The SNAPs that pause its dispatch, by queue and sequence number, and the I/O die LOCAL_TIME when the first did (R302). -/
  pausedBy    : List (Nat × Nat) := []
  pausedAt    : Nat := 0
  /-- A reset waits for CANCELLED records (R233). -/
  resetting   : Bool := false
  deriving DecidableEq, Repr

/-- A completion ring context (R218). -/
structure Ring where
  sizeLog2  : BitVec 4 := 0
  base      : BitVec 40 := 0
  readIdx   : BitVec 16 := 0
  phase     : Bool := true
  writeIdx  : BitVec 16 := 0
  job       : BitVec 6 := 0
  irqVector : BitVec 11 := 0
  fault     : Bool := false
  irqEn     : Bool := false
  enable    : Bool := false
  records   : Word64 := 0
  deriving DecidableEq, Repr

/-- A completion record waiting in the pending store, and the long command it ends, if any (R219). -/
structure Pend where
  job   : Nat
  ring  : Nat
  words : List Word64
  op    : Option (Nat × Nat) := none
  deriving DecidableEq, Repr

/-- A stall report (R229). -/
structure StallEntry where
  queue    : Nat
  waitKind : Nat
  stopped  : Bool
  waitedMs : Nat
  tm       : Nat
  await    : Word64
  seen     : Word64
  deriving DecidableEq, Repr

/-- The held stall report of a job, and MISSED (R229). -/
structure Stall where
  valid     : Bool := false
  truncated : Bool := false
  trigger   : Nat := 0
  entries   : List StallEntry := []
  missed    : Nat := 0
  deriving DecidableEq, Repr

/-- An escalation entry (R72 to R77). `rep` and `shut` say of the step LAST_STEP whether it has received a report and whether a change
of state has closed it (R73). -/
structure Esc where
  enable       : Bool := false
  pin          : BitVec 2 := 0
  toE4m3       : Bool := false
  window       : BitVec 7 := 0
  tripLimit    : BitVec 7 := 0
  cleanRun     : BitVec 16 := 0
  thresh       : BitVec 16 := 0
  lastStep     : Word32 := 0
  dispatchStep : Word32 := 0
  switchStep   : Word32 := 0
  cleanCount   : BitVec 16 := 0
  switches     : BitVec 16 := 0
  history      : Word64 := 0
  rep          : Bool := false
  shut         : Bool := false
  /-- MODEL. Changes of state, oldest first: the first step of each and the state it holds from then on (R74). -/
  past         : List (Nat × Bool) := []
  /-- MODEL. The state of the steps before the first of those changes. -/
  base         : Bool := false
  deriving DecidableEq, Repr

/-- A report under R69 or R71, waiting for the queue manager (R72). -/
structure Report where
  job   : Nat
  layer : Nat
  step  : Nat
  guard : Bool
  deriving DecidableEq, Repr

/-- The states of a layer slot (R167). -/
inductive SlotSt where
  | empty | loaded | armed | running | tail | invalid
  deriving DecidableEq, Repr

/-- MODEL. How far one core has come with a task (R168, R84): whether the slot runs there, passes filled, issued, completed, drained. -/
structure CoreRun where
  on      : Bool := false
  /-- The seeds of a task with SEED_LOAD have been loaded (R66). -/
  seeded  : Bool := false
  filled  : Nat := 0
  issued  : Nat := 0
  done    : Nat := 0
  drained : Nat := 0
  deriving DecidableEq, Repr

/-- Partials of a row in one core, or combined (R125, R126): included positions, Welford's mean and m2, the sums q, s1 and s2, the running
maximum with its sums s and t. -/
structure Part where
  n    : Nat := 0
  mean : Word32 := 0
  m2   : Word32 := 0
  q    : Word32 := 0
  s1   : Word32 := 0
  s2   : Word32 := 0
  m    : Word32 := 0xFF800000
  s    : Word32 := 0
  t    : Word32 := 0
  deriving DecidableEq, Repr

/-- What the row unit keeps of a row gathered by a core (R127): its partials, whether an included element is a NaN or an infinity (R123),
and the candidates of the core's Crest filter under OP 7 (R131). -/
structure RowStat where
  part  : Part := {}
  nan   : Bool := false
  cands : List (Nat × Word32) := []
  deriving DecidableEq, Repr

/-- MODEL. The task of a layer slot in one valley (R168, R169, R205). -/
structure Task where
  queue      : Nat
  seq        : Nat
  /-- The logical cores that take part (R172, R173). -/
  cores      : List Nat
  runs       : Tbl CoreRun := []
  flags      : Nat := 0
  clipSum    : Nat := 0
  elemSum    : Nat := 0
  /-- Set when the task has aborted or been cancelled (R205, R230). -/
  ending     : Option CompRec := none
  partialOut : Bool := false
  nonrestart : Bool := false
  /-- A row task: rows applied so far, and whether the last of them has been (R127). -/
  row        : Nat := 0
  applied    : Bool := false
  /-- A row task: what each core has gathered, row by row (R127). -/
  gathered   : Tbl (List RowStat) := []
  deriving DecidableEq, Repr

/-- A layer slot (R167, R187). -/
structure Slot where
  st        : SlotSt := .empty
  words     : Tbl Word64 := []
  handle    : Word64 := 0
  armNo     : Nat := 0
  linkAbort : Option CompRec := none
  /-- A skipped write has found it taken: it becomes INVALID as its task leaves it (R185). -/
  spoil     : Bool := false
  task      : Option Task := none
  deriving DecidableEq, Repr

/-- A plain read held for the merge window (R139). -/
structure HeldRead where
  core  : Nat
  addr  : Nat
  src   : Place
  /-- Errors its response picks up in transit (R136). -/
  upset : List Byte := []
  /-- MODEL. Which of the packets that wait here it came in (R150). -/
  pkt   : Nat := 0
  deriving DecidableEq, Repr

/-- MODEL. Configuration words on their way to a held valley (R392): the command that sent them, its slot, the words by number. -/
structure CfgMsg where
  queue : Nat
  seq   : Nat
  lslot : Nat
  first : Nat
  words : List Word64
  /-- A skipped write: it makes the slot INVALID (R185). -/
  inval : Bool := false
  /-- The START that stood before it at the slot, not yet judged (R22). -/
  after : Option (Nat × Nat) := none
  deriving DecidableEq, Repr

/-- A valley: its sequencer's slots, the epochs it has been told (R203), the plain reads its banks hold (R139), its scrubbers'
next words by core and bank (R138), configuration that waits for it to leave the hold. -/
structure Valley where
  slot0  : Slot := {}
  slot1  : Slot := {}
  armed  : Nat := 0
  epochs : Tbl (BitVec 8) := []
  reads  : List HeldRead := []
  scrub  : Tbl Nat := []
  inbox  : List CfgMsg := []
  deriving DecidableEq, Repr

/-- A channel of a pass end (R146): when it last replayed, whether it is out of use, whether a spare has taken its place, how many spares
failed there, whether it or its spare has been taken out of use since the last training. -/
structure Chan where
  times  : List Nat := []
  failed : Bool := false
  spare  : Bool := false
  lost   : Nat := 0
  recent : Bool := false
  deriving DecidableEq, Repr

/-- An accumulator tile (R79, R95, R103 to R105): accumulators by 8 * i + j, their SAT and NONFINITE bits, LONG_SUM, the chain counter. -/
structure Tile where
  acc     : Tbl Word32 := []
  sat     : Word64 := 0
  nonfin  : Word64 := 0
  longSum : Bool := false
  count   : BitVec 16 := 0
  deriving DecidableEq, Repr

/-- A filled panel slot of the sixteen inlets (R80): the pass it serves and the elements of each row and column inlet, in reduction
order, a Pajor element with its block's scale. -/
structure Panel where
  lslot : Nat
  pass  : Nat
  a     : List (List Num)
  b     : List (List Num)
  deriving DecidableEq, Repr

/-- MODEL. An open PJ4 block group (R118): the result row of its first row, its row mask, and the values of its drains so far. -/
structure Group where
  lslot  : Nat
  drains : List (List (List Word32))
  deriving DecidableEq, Repr

/-- A physical core (R66, R79, R80, R97, R114). -/
structure Core where
  rnd      : Word64 := 0x9E3779B97F4A7C15
  rndLeft  : List Nat := []
  drp      : Word64 := 0xD1B54A32D192ED03
  drpLeft  : List Nat := []
  tile0    : Tile := {}
  tile1    : Tile := {}
  inlet0   : Option Panel := none
  inlet1   : Option Panel := none
  /-- Panels whose inlets have presented their last step, replaced in their slots while their pass is still in the array (R86, R88). -/
  feeding  : List Panel := []
  /-- Passes issued and not complete: layer slot, pass number (R85). -/
  inArray  : List (Nat × Nat) := []
  /-- Passes complete whose drain has not begun: layer slot, pass number (R86). -/
  toDrain  : List (Nat × Nat) := []
  group    : Option Group := none
  deriving DecidableEq, Repr

/-- MODEL. A memory read in flight (R196, R202): the epoch it was issued under, its COPY, descriptor and run. -/
structure Flight where
  epoch : BitVec 8
  seq   : Nat
  queue : Nat
  desc  : Nat
  run   : Nat
  /-- Where it reads, and how many bytes (R191). -/
  va    : Nat
  len   : Nat
  deriving DecidableEq, Repr

/-- A run's data in the staging buffer: its bytes, and for each 32-byte word whether it is poisoned (R196, R241). -/
structure Staged where
  run    : Nat
  bytes  : List Byte
  poison : List Bool
  deriving DecidableEq, Repr

/-- MODEL. A descriptor the engine has read and not finished (R191, R195, R198). -/
structure DescSt where
  idx     : Nat
  d       : Rec
  issued  : Nat := 0
  staged  : List Staged := []
  written : Nat := 0
  units   : Nat := 0
  /-- Its gate has opened (R195). -/
  opened  : Bool := false
  /-- Runs read from host memory, for the strandline (R372). -/
  host    : List (Nat × List Byte) := []
  /-- Combining store of a hand-off descriptor, by device virtual address (R198). -/
  comb    : Tbl Byte := []
  deriving DecidableEq, Repr

/-- MODEL. A COPY at its stream (R188). -/
structure CopyJob where
  queue  : Nat
  seq    : Nat
  job    : Nat
  list   : Nat
  count  : Nat
  next   : Nat := 0
  active : List DescSt := []
  /-- DONE signals are performed in order; descriptors below this one have performed theirs (R195). -/
  doneTo : Nat := 0
  wrote  : Bool := false
  /-- Valleys and layer slots its descriptors link to (R204). -/
  links  : List (Nat × Nat) := []
  /-- Aborted or cancelled: no further run starts, in-flight reads drain (R202, R204). -/
  ending : Option CompRec := none
  /-- Valleys named by the descriptors it had in progress as it ended (R316). -/
  names  : List Nat := []
  /-- Cancelled: it also waits for the valleys' acknowledgements (R202). -/
  cancelling : Bool := false
  deriving DecidableEq, Repr

/-- MODEL. What waits at the control input of a held engine (R392): a COPY for one of its streams, the cancellation of one. -/
inductive EngMsg where
  | copy (c : CopyJob)
  | cancel (queue seq : Nat)
  deriving DecidableEq, Repr

/-- A stream of a Flood or Ebb engine (R188, R202). -/
structure Stream where
  epoch  : BitVec 8 := 0
  copies : List CopyJob := []
  flight : List Flight := []
  /-- Valleys whose acknowledgement of the epoch is awaited (R202). -/
  acks   : List Nat := []
  /-- Valleys to be told, while the next epoch still has reads in flight (R203). -/
  due    : Option (List Nat) := none
  /-- Taken while the engine stood in the hold, oldest first (R392). -/
  input  : List EngMsg := []
  deriving DecidableEq, Repr

/-- A hand-off unit on its way to an Ebb stream (R198). -/
structure HandUnit where
  valley : Nat
  core   : Nat
  lslot  : Nat
  stack  : Nat
  stream : Nat
  row    : Nat
  elem   : Nat
  size2  : Nat
  /-- Its bytes; none for an inactive position, which is not written (R96). -/
  data   : List (Option Byte)
  header : Option Nat := none
  /-- The tile whose drain hands it off; none from the row unit (R199). -/
  tile   : Option Nat := none
  /-- The task that hands it off (R199). -/
  queue  : Nat
  seq    : Nat
  deriving DecidableEq, Repr

/-- A Narrows line buffer (R209): its line's physical place, the bytes gathered, the SMALLs waiting on it. -/
structure LineBuf where
  host  : Bool
  line  : Nat
  bytes : Tbl Byte
  smalls : List (Nat × Nat)
  deriving DecidableEq, Repr

/-- MODEL. An UPDATE in its Berm unit (R249 to R255). Blocks are named by their index. -/
structure Upd where
  queue    : Nat
  seq      : Nat
  job      : Nat
  cmd      : Rec
  /-- It is among the unit's eight in progress: its optimiser record has been read (R249, R255). -/
  started  : Bool := false
  opt      : Rec := []
  /-- It waits for no norm tidemark: blocks may be claimed (R253). -/
  normOk   : Bool := false
  clip     : Word32 := 0x3F800000
  /-- MODEL. When it last had its turn among the UPDATEs of its unit, by a number that rises (R255). -/
  turn     : Nat := 0
  /-- The next block not yet taken. -/
  next     : Nat := 0
  /-- Blocks deferred or waiting. -/
  waiting  : List Nat := []
  /-- Claimed blocks, with header word 0 as the claim read it. -/
  claimed  : List (Nat × Nat) := []
  /-- The lowest block in each condition of R254: with FAULT_KIND and FAULT_VA, with the header word 0. -/
  fault    : Option (Nat × Nat × Nat) := none
  ecc      : Option Nat := none
  mismatch : Option (Nat × Nat) := none
  timeout  : Option Nat := none
  nonfin   : Bool := false
  maxW     : Nat := 0
  satCount : Nat := 0
  clipSum  : Nat := 0
  elemSum  : Nat := 0
  /-- The FP64 sum of KIND 5 (R253). -/
  sum64    : Nat := 0
  /-- A block's copies have been written (R232). -/
  touched  : Bool := false
  cancelled : Bool := false
  /-- It has ended and keeps its place until its record has one (R219). -/
  parked   : Bool := false
  deriving DecidableEq, Repr

/-- A bucket context's states (R287); WAITING REDUCEs stand in `State.estWait`. -/
inductive CtxSt where
  | free | armed | exchanging | spreading | done
  deriving DecidableEq, Repr

/-- A packet's content as a receiver knows it (R280): TYPE, SRC_POS, COPY, packet number, HOPS, and its CHECKSUM (R286). -/
structure Seen where
  ty   : Nat
  pos  : Nat
  copy : Nat
  num  : Nat
  hops : Nat
  crc  : Nat
  deriving DecidableEq, Repr

/-- MODEL. A leader's sum of one packet (R283): the running FP32 sum, the members added, the leaders added, and the leaders' segments
that came before the group's sum was whole, in order of arrival. -/
structure TreeSum where
  words   : List Word32 := []
  members : Nat := 0
  leaders : Nat := 0
  early   : List (Nat × List Word32) := []
  /-- SRC_POS of each addend, in order of addition (R372). -/
  order   : List Nat := []
  deriving DecidableEq, Repr

/-- A bucket context (R275 to R288). -/
structure Ctx where
  st       : CtxSt := .free
  queue    : Nat := 0
  seq      : Nat := 0
  job      : Nat := 0
  cmd      : Rec := []
  /-- The plan record's header, and its entries as first read (R276). -/
  plan     : Rec := []
  entries  : Tbl Rec := []
  /-- Packets accepted while ARMED, in order of arrival. -/
  held     : List (List Byte) := []
  /-- Contents received (R280, R286). -/
  seen     : List Seen := []
  sums     : Tbl TreeSum := []
  /-- Packets of the result written and their bytes (R287, R372). -/
  written  : Tbl (List Byte) := []
  mismatch : Nat := 0
  nonfin   : Bool := false
  partialOut : Bool := false
  deriving DecidableEq, Repr

/-- A data packet in the early store (R281). -/
structure Early where
  job     : Nat
  pkt     : List Byte
  deriving DecidableEq, Repr

/-- MODEL. A packet of a flow, not yet acknowledged: its number, where it goes, the ports its plan allows, whether it has been sent. -/
structure TxPkt where
  psn  : Nat
  ip   : List Byte
  mac  : List Byte
  mask : Nat
  pkt  : List Byte
  sent : Bool
  deriving DecidableEq, Repr

/-- A flow's sending end: the destination module by its IP address, the next number and the unacknowledged packets, oldest first (R279). -/
structure TxFlow where
  job     : Nat
  port    : Nat
  ip      : List Byte
  next    : Nat := 0
  unacked : List TxPkt := []
  deriving DecidableEq, Repr

/-- A flow's receiving end: the sending port by its IP address and UDP port, the number expected next, the port its packets come in on,
packets accepted and not yet acknowledged, the Ethernet address and the header of the last one (R279). -/
structure RxFlow where
  /-- An ACK waits for its port to send again (R280). -/
  due     : Bool := false
  job     : Nat
  srcPort : Nat
  srcIp   : List Byte
  srcMac  : List Byte := []
  port    : Nat := 0
  expect  : Nat := 0
  unacked : Nat := 0
  last    : List Byte := []
  deriving DecidableEq, Repr

/-- A numbered flit (R411): TYPE, the partner's job, the job it is sent for, WHICH, DEST or value, and its payload. -/
structure Flit where
  ty    : Nat
  /-- MODEL. The entry of the mirror list it carries, and whether it is part of a snapshot's image (R301, R303). -/
  entry : Nat := 0
  image : Bool := false
  job   : Nat := 0
  owner : Nat := 0
  which : Nat := 0
  dest  : Nat := 0
  body  : List Byte := []
  deriving DecidableEq, Repr

/-- A Tideway link (R411 to R413): its flits sent and not acknowledged, under their numbers. -/
structure Link where
  trained  : Bool := false
  /-- A TRAIN has been received since training began (R413). -/
  heard    : Bool := false
  serial   : Nat := 0
  txNext   : Nat := 0
  unacked  : List (Nat × Flit) := []
  rxNext   : Nat := 0
  deriving DecidableEq, Repr

/-- A mirror round (R301): the value it carries; failed and waiting for MIRROR_RETRY, or broken off by the loss of the partner. -/
structure Round where
  value   : Nat
  failed  : Bool := false
  lost    : Bool := false
  deriving DecidableEq, Repr

/-- How far a SNAP to the partner has come: its zero header sent, its body sent, its header sent, SNAP_TM to be raised (R305). -/
inductive SnapPhase where
  | waiting | zero | body | header | signal
  deriving DecidableEq, Repr

/-- A SNAP in progress (R302): its queue, sequence number and job; for one sent to the partner, the 4 KiB that the header goes into and
the flits that follow the first, which holds it as zero (R305); whether it is cancelled (R303). -/
structure SnapJob where
  queue : Nat
  seq   : Nat
  job   : Nat
  phase : SnapPhase := .waiting
  first : List Byte := []
  rest  : List Flit := []
  cancelled : Bool := false
  deriving DecidableEq, Repr

/-- A HOLD in progress (R391): the blocks still entering, and the counts of its DETAIL. -/
structure HoldOp where
  queue   : Nat
  seq     : Nat
  pages   : List Nat
  held    : Nat
  unarmed : Nat
  cancelled : Bool := false
  /-- Valleys of a die whose steward is being reset, which the HOLD has not reached (R366). -/
  late    : List Nat := []
  deriving DecidableEq, Repr

/-- The hold and sounding side of a block (R358, R360, R392, R393): entering the hold, a latched wake, the tidemark and value that wake it,
the STATE it returns to from the hold, the scope of a running sounding. -/
structure Blk where
  entering : Bool := false
  wake     : Bool := false
  wakeTm   : Nat := 0
  wakeVal  : Word64 := 0
  back     : Nat := 3
  scope    : Option Nat := none
  /-- The sounding began in the slack hold. -/
  fromHold : Bool := false
  /-- Reset in progress: the block is in init (R31). -/
  inReset  : Bool := false
  /-- The reset reloads a steward's firmware, from the running image or from flash (R366). -/
  reload   : Option Bool := none
  deriving DecidableEq, Repr

/-- A job command (R317 to R319); CREATE with VF_EN. -/
inductive JobKind where
  | create (vf : Bool)
  | reset
  | destroy
  deriving DecidableEq, Repr

/-- MODEL. A job command in arrival order: not begun, waiting for its job's queues, waiting for its job's valleys (R318, R320). -/
structure JobCmd where
  kind    : JobKind
  job     : Nat
  phase   : Nat := 0
  valleys : List Nat := []
  deriving DecidableEq, Repr

/-- A strandline record's writer (R372, R373): staged bytes, entries, the next SEQ, entries dropped and not yet reported, and the
parameter blocks last read by address. -/
structure Strand where
  staged  : List Byte := []
  place   : Nat := 0
  seq     : Nat := 0
  dropped : Nat := 0
  params  : List (Nat × List Word64) := []
  deriving DecidableEq, Repr

/-- An event-log entry (R367). -/
structure LogEntry where
  seq    : Nat
  code   : Nat
  index  : Nat
  time   : Nat
  source : Nat
  info   : Nat
  value  : Nat
  deriving DecidableEq, Repr

/-- A retirement as the map logs it (R362): the ID, the failing unit, the powered hours. -/
structure RetireLog where
  id    : Nat
  unit  : Nat
  hours : Nat
  deriving DecidableEq, Repr

/-- Headland's flash and fuses (R333, R334, R362, R310, R313, R369): they survive power. -/
structure Flash where
  image       : List Byte := []
  /-- The image region holds a whole image (R347). -/
  whole       : Bool := true
  /-- SEC_VERSION of the image in flash, as the settings region holds it (R346). -/
  secVersion  : Nat := 0
  role        : Bool := false
  mac         : Nat := 0
  budget      : Option Nat := none
  onboot      : Nat := 0
  retireOnFail : Bool := true
  ckptCost    : Nat := 0
  ckptMin     : Nat := 300
  ckptMax     : Nat := 14400
  ckptWeights : List Nat := [256, 256, 256, 64, 256, 13, 256, 256]
  ckptCounts  : List Nat := [0, 0, 0, 0, 0, 0, 0, 0]
  /-- Counts of each powered hour of the window, newest first (R310). -/
  ckptWindow  : List (List Nat) := []
  ckptHours   : Nat := 0
  coresRetired : List Nat := []
  holes       : List Nat := []
  valleysRetired : List Nat := []
  blocksRetired : List Nat := []
  crestRetired : List Nat := []
  /-- Core-map entries that differ from manufacture, by valley * 256 + logical index (R19, R46). -/
  coreMap     : Tbl Nat := []
  retireLog   : List RetireLog := []
  hours       : Nat := 0
  crashSeq    : Nat := 0
  /-- The two fuses of each of the 64 steps of SVN, the first step first (R334, R335). -/
  svnFuses    : List (Bool × Bool) := List.replicate 64 (false, false)
  serial      : Word64 := 0
  idLock      : Bool := true
  rsaKeyHash  : List Byte := []
  slhKeyHash  : List Byte := []
  deriving DecidableEq, Repr

/-- A firmware update in progress (R346, R348): who began it, the bytes held, whether the erase has begun. -/
structure FwUpd where
  pcie   : Bool
  bytes  : List Byte := []
  erased : Bool := false
  deriving DecidableEq, Repr

/-- A co-signature (R344): the hash signed, the signature, whether it has been computed. -/
structure Cosign where
  hash  : List Byte := []
  sig   : List Byte := []
  ready : Bool := false
  /-- A read of this signature from its start has been answered. -/
  begun : Bool := false
  /-- It replaced one whose reading had begun. -/
  stale : Bool := false
  deriving DecidableEq, Repr

/-- What Headland does with the module (HDL_BOOT_STATUS.STATE of R357): no boot yet, a module reset in progress, up, recovery mode, a
controlled stop, a loss of REFCLK100 (R405). -/
inductive BootSt where
  | off | starting | up | recovery | stopped | clockLost
  deriving DecidableEq, Repr

/-- The JTAG instruction selected (R404). -/
inductive JtagIr where
  | idcode | bypass | samplePreload | extest | clamp
  deriving DecidableEq, Repr

/-- Headland, the sideband, the pins, JTAG and PCIe configuration (R331, R350, R354, R355, R401 to R407). -/
structure Headland where
  boot      : BootSt := .off
  fail      : Nat := 0
  /-- The running image's header, for BUILD_ID, SEC_VERSION and the measurements (R343, R356). -/
  running   : List Byte := []
  update    : Option FwUpd := none
  /-- An FW_END has succeeded since the last boot (R349, R366). -/
  updated   : Bool := false
  log       : List LogEntry := []
  logSeq    : Nat := 0
  logLost   : Nat := 0
  journal   : Tbl (List Byte) := []
  sbState   : Nat := 0
  sbTag     : Nat := 0
  sbDropped : Bool := false
  sbRsp     : List Byte := []
  sbPtr     : Nat := 0
  shadow    : Tbl Word32 := []
  refreshes : Nat := 0
  i3cAddr   : Option Nat := none
  i3cEvents : Nat := 1
  cosign    : Option Cosign := none
  signCount : Nat := 0
  pairId    : Nat := 3
  slotId    : Nat := 63
  strapPair : Nat := 3
  strapSlot : Nat := 63
  modPg     : Bool := false
  pwrWarn   : Bool := false
  modFault  : Bool := false
  stby      : Bool := false
  /-- The cause of the latest controlled stop (R386). -/
  stopCause : Nat := 0
  /-- Input voltages reported in the last millisecond, and the one before them, newest first: Headland's LOCAL_TIME, millivolts (R386). -/
  mvs       : List (Nat × Nat) := []
  jtagIr    : JtagIr := .idcode
  jtagChain : List Bool := []
  jtagDrive : Bool := false
  busMaster : List Nat := []
  numVFs    : Nat := 0
  /-- BAR0 of the physical function and of the virtual functions, as the host has written them (R406). -/
  bar0      : Nat := 0
  vfBar0    : Nat := 0
  d3hot     : List Nat := []
  /-- The main input is within its limits (R331). -/
  mainIn    : Bool := false
  /-- The base Ethernet address in flash at the last boot (R292, R369). -/
  mac       : Nat := 0
  /-- MODEL. A sideband request frame taken and not yet performed (R355). -/
  sbHeld    : Option (List Byte) := none
  /-- With a frame waiting in each mailbox, PCIe's is served next (R350). -/
  mbPcie    : Bool := false
  /-- Junction temperatures of the dies, the base dies and the I/O die (R395). -/
  dieTemps  : List Nat := []
  baseTemps : List Nat := []
  ioTemp    : Nat := 0
  /-- Ticks of the governor in a row with the draw above the budget in force (R395). -/
  overTicks : Nat := 0
  /-- ONBOOT of the sounding policy at the last boot (R363). -/
  onboot    : Nat := 0
  inletHot  : Bool := false
  thermCap  : Bool := false
  /-- POWER_DOWN: the 100 ms are running (R389). -/
  downing   : Bool := false
  /-- The cycle at which Headland's island last left reset (R23). -/
  clkBase   : Nat := 0
  /-- RETIRE_ON_FAIL of the sounding policy at the last boot (R369). -/
  policy    : Bool := true
  /-- Events of each kind of R313 since the last hourly store (R310). -/
  ckptNow   : List Nat := [0, 0, 0, 0, 0, 0, 0, 0]
  deriving DecidableEq, Repr

/-- The configuration space of every function at its reset values (R407). -/
def Headland.cfgReset (h : Headland) : Headland := { h with busMaster := [], numVFs := 0, d3hot := [], bar0 := 0, vfBar0 := 0 }

/-- A clock island's counter (R23, R36): running, with `count` at machine cycle `base`, or stopped at `count`. -/
inductive Clk where
  | running (base count : Nat)
  | halted (count : Nat)
  deriving DecidableEq, Repr

/-- An answer over DOE (R342 to R344): what the manual states of each SPDM response, whose octets the SPDM standard lays out. -/
inductive SpdmRsp where
  | version (v : Nat)
  | capabilities (cert chal measSigned : Bool) (ctExponent : Nat)
  | algorithms (rsaBits shaBits : Nat)
  | digests (slot : Nat) (digest : List Byte)
  | certificate (slot : Nat) (bytes : List Byte) (remaining : Nat)
  | challengeAuth (hash sig : List Byte)
  | measurements (blocks : List (Nat × Bool × List Byte)) (signed : Option (List Byte × List Byte))
  | vendor (bytes : List Byte)
  | unsupportedRequest
  | invalidRequest
  | busy
  deriving DecidableEq, Repr

/-- What one destination of a plain response receives (R139, R140): the word, and whether it is poisoned there. -/
structure PlainRsp where
  dest   : Place
  bytes  : List Byte
  poison : Bool
  deriving DecidableEq, Repr

/-- A Louber frame as it leaves a port (R277): Ethernet addresses, the 802.1Q tag's PCP and VID, IPv6 or IPv4 with its addresses and its
traffic class or DSCP, UDP ports and checksum, and the packet. -/
structure Frame where
  port   : Nat
  srcMac : List Byte
  dstMac : List Byte
  pcp    : Nat
  vid    : Nat
  v6     : Bool
  srcIp  : List Byte
  dstIp  : List Byte
  cls    : Nat
  sport  : Nat
  dport  : Nat
  check  : Nat
  pkt    : List Byte
  deriving DecidableEq, Repr

/-- What the module sends out (MODEL): messages, packets, flits, responses and the data of reads, in order. -/
inductive Out where
  | msix (fn vector : Nat)
  | data (value : Nat)
  | unsupported
  | plain (rsps : List PlainRsp)
  | hbm (bytes : List Byte) (poison : Bool)
  | hdr (word0 : Nat) (ok : Bool)
  | louber (f : Frame)
  | pause (port prio : Nat)
  | flit (link : Nat) (bytes : List Byte)
  | refusal (link seq : Nat)
  | mbox (pcie : Bool) (frame : List Byte)
  | i3c (ack : Bool) (bytes : List Byte)
  | ibi (data : Nat)
  | doe (type : Option Nat) (next : Nat)
  | spdm (r : SpdmRsp)
  | jtag (bits : List Bool)
  | cfg (retry : Bool) (value : Nat)
  deriving DecidableEq, Repr

/-- A translation held by a translating unit (R326): its kind (1 Flood, 2 Ebb, 3 Narrows) and stack, the job, the 2 MiB page of device virtual
addresses, where it lies, and whether it may be written. -/
structure Xlat where
  unit  : Nat
  stack : Nat
  job   : Nat
  page  : Nat
  host  : Bool
  base  : Nat
  write : Bool
  deriving DecidableEq, Repr

/-- MODEL. What an image of a snapshot counts, under the handle of the SNAP that wrote it (R305, R307; log 34): the queues, tidemarks, rings,
stage contexts, escalation entries and cores of its sections. -/
structure ImageMark where
  handle : Nat
  counts : List Nat
  deriving DecidableEq, Repr

/-- The state of the module. -/
structure State where
  /-- MODEL. Commands waiting, first in first out. -/
  pending   : List Instr := []
  grade     : Grade := .a
  /-- Registers of the pages that differ from their reset values, by BAR0 address + 2^26 * bank (R28, R44). -/
  regs      : Tbl Word32 := []
  /-- Upper halves latched by 32-bit reads of 64-bit registers: function and address (R36). -/
  latch     : List (Nat × Nat × Word32) := []
  blks      : Tbl Blk := []
  cycles    : Nat := 0
  clks      : Tbl Clk := []
  /-- The cycle at which the islands outside Headland that `clks` does not list last left reset (R23). -/
  clkBase   : Nat := 0
  /-- A device reset is in progress: every block outside Headland and the power page is in init (R388). -/
  devInit   : Bool := false
  /-- RETIRE_ON_FAIL of the sounding policy when the blocks outside Headland last left reset (R369). -/
  devPolicy : Bool := true
  /-- The blocks outside Headland last left reset by a boot, which sounds them, and not by a device reset (R363). -/
  sounded   : Bool := true
  hbm       : Memory := []
  host      : Memory := []
  sram      : Memory := []
  /-- Poisoned units and words, rising: HBM by unit, SRAM by word (R136, R241). -/
  hbmPoison  : Tbl Bool := []
  sramPoison : Tbl Bool := []
  /-- Upsets standing in a stored code word, as an XOR over data and check bytes (R136, R240). -/
  hbmUpset  : Tbl (List Byte) := []
  sramUpset : Tbl (List Byte) := []
  queues    : Tbl Queue := []
  rings     : Tbl Ring := []
  tms       : Tbl Word64 := []
  tmLatch   : Word32 := 0
  ops       : List Op := []
  /-- Dispatched STARTs not yet judged, because a valley of their group is in the hold or entering it (R392): queue, sequence number. -/
  starts    : List (Nat × Nat) := []
  pends     : List Pend := []
  stalls    : Tbl Stall := []
  escs      : Tbl Esc := []
  reports   : List Report := []
  owners    : Tbl Nat := []
  valleys   : Tbl Valley := []
  cores     : Tbl Core := []
  /-- Pass channels, by (die * 4 + edge) * 256 + channel (R146). -/
  chans     : Tbl Chan := []
  streams   : Tbl Stream := []
  /-- The stream of each engine served last, by the engine's first stream key / 4,096 (R188). -/
  engTurn   : Tbl Nat := []
  handoffs  : List HandUnit := []
  lines     : List LineBuf := []
  berms     : Tbl (List Upd) := []
  patrols   : Tbl Nat := []
  ctxs      : Tbl Ctx := []
  estWait   : List (Nat × Nat) := []
  early     : List Early := []
  estLast   : Tbl Nat := []
  /-- MODEL. SELF of the plan under which a job last took a context, plus 1 (R276; log 29). -/
  estSelf   : Tbl Nat := []
  txFlows   : List TxFlow := []
  rxFlows   : List RxFlow := []
  paused    : List Nat := []
  /-- The port whose turn comes next, by destination (R280). -/
  portTurns : Tbl Nat := []
  /-- The sublink of a port in breakout mode that sends next, plus 1; 0 where the port last trained as one link (R292). -/
  sublinks  : Tbl Nat := []
  links     : Tbl Link := []
  /-- WRITE and WAKE flits that wait for a link with room (R412), and the link whose turn it is (R294). -/
  twyQ      : List Flit := []
  twyTurn   : Nat := 0
  /-- SIGNAL flits that wait for every earlier WRITE of their job (R412). -/
  twySigs   : List Flit := []
  /-- Bytes landed from the partner for each job since its last SIGNAL, for the strandline (R372). -/
  twyIn     : Tbl (List Byte) := []
  rounds    : Tbl (Option Round) := []
  snaps     : List SnapJob := []
  holdOps   : List HoldOp := []
  strands   : Tbl Strand := []
  flash     : Flash := {}
  hl        : Headland := {}
  /-- MODEL. Job commands waiting and in progress (R320). -/
  jobCmds   : List JobCmd := []
  /-- Valleys whose release waits for their reset (R316). -/
  releasing : List Nat := []
  /-- Translations the units hold (R326). -/
  xlats     : List Xlat := []
  /-- MODEL. Images written, oldest first (R307). -/
  images    : List ImageMark := []
  /-- MODEL. For each word of core SRAM the cycle, plus 1, of the latest bank read for another core's inlets or an engine, until the word
  is written (R139). -/
  bankAt    : Tbl Nat := []
  /-- Jobs whose invalidation is in progress (R326). -/
  invalBusy : List Nat := []
  /-- MODEL. Within a step: a memory request was held, for want of Bus Master Enable (R407) or of a stack's controller (R358, R365). -/
  hostWait  : Bool := false
  /-- MODEL. Commands whose memory requests are held, oldest first: they are performed once those can go (R407; log 137). -/
  heldCmds  : List Instr := []
  /-- Messages held for want of Bus Master Enable: function and vector (R407). -/
  heldMsgs  : List (Nat × Nat) := []
  /-- MODEL. The cycle in which a first-error register took its capture, by its address (R157, R257). -/
  capAt     : Tbl Nat := []
  /-- MODEL. Counter the free values are applied to. -/
  freeCount : Nat := 0
  out       : List Out := []
  deriving DecidableEq, Repr

/-- Why a step faults. The manual gives every command an effect, and the model raises no fault; the one constructor stands for the
access the host's rule keeps for an address the manual says does not exist, which here is answered by R37, R41 and R325 as registers
reading 0 and translation faults. Nothing raises it: safe. -/
inductive Fault where
  | noSuchAddress (addr : Nat)
  deriving DecidableEq, Repr

/-- Why a command is refused. `notModelled` names a row not yet given its meaning; no arm answers it once all are written: safe. -/
inductive Refusal where
  | notModelled (mnemonic : String)
  deriving DecidableEq, Repr

/-- The image a module leaves manufacture with (log 4): a header with MAGIC, HDR_VER 1, SEC_VERSION 0, RSA_E and the smallest
body, every other byte 0 (R336). -/
def factoryImage : List Byte :=
  [0x4B, 0x48, 0x4C, 0x31, 1, 0, 0, 0, 0, 0, 0, 0, 0, 0x10, 0, 0] ++ List.replicate (0x240 - 16) 0 ++ [1, 0, 1, 0] ++
    List.replicate (0x6000 - 0x244) 0

/-- The machine right after reset: every register at its reset value, no job, no work, not booted (R387, R390; log 1). -/
def State.reset : State := { flash := { image := factoryImage } }

end Sys2Proof.Machine
end

