-- ==== Sys2Proof/Machine/Flags.lean ====
section
/-! DEFINITION. Status codes (R11), completion FLAGS (R106, R220) and the words of a completion record (R220). -/

namespace Sys2Proof.Machine

/-- Status codes of R11. -/
def stOk : Nat := 0
def stOkFlagged : Nat := 1
def stCancelled : Nat := 2
def stFault : Nat := 3
def stEcc : Nat := 4
def stAbsent : Nat := 5
def stSkipped : Nat := 6
def stRejected : Nat := 7
def stTimeout : Nat := 8
def stGone : Nat := 9
def stMismatch : Nat := 10
def stLate : Nat := 11

/-- FLAGS as numbered from bit 8 of word 1 (R220). -/
def flSat : Nat := 1
def flNonfinite : Nat := 2
def flLongSum : Nat := 4
def flGuard : Nat := 8
def flTaint : Nat := 16

/-- Union of two FLAGS values. -/
def flOr (a b : Nat) : Nat := a ||| b

/-- The record as the queue writes it (R184, R220): TAINT joins the flags of a tainted queue's OK completions, OK with flags is
OK_FLAGGED, and no other status carries flags (log 23). -/
def finishRec (tainted : Bool) (r : CompRec) : CompRec :=
  if r.status = stOk || r.status = stOkFlagged then
    let f := flOr r.flags (if tainted then flTaint else 0)
    { r with flags := f, status := if f = 0 then stOk else stOkFlagged }
  else { r with flags := 0 }

/-- Words 0 to 3 of a completion record, PHASE 0 (R220). -/
def recWords (handle : Nat) (r : CompRec) (time : Nat) : List Word64 :=
  [BitVec.ofNat 64 handle,
   BitVec.ofNat 64 (r.faultRun % 2 ^ 32 * 2 ^ 32 + r.badReason % 256 * 2 ^ 24 + r.faultKind % 8 * 2 ^ 19 +
     (if r.nonrestart then 2 ^ 18 else 0) + (if r.partialOut then 2 ^ 17 else 0) + r.flags % 32 * 2 ^ 8 + r.status % 256),
   BitVec.ofNat 64 r.detail,
   BitVec.ofNat 64 (r.index % 2 ^ 16 * 2 ^ 48 + time % 2 ^ 48)]

/-- The record with the PHASE its ring gives it (R219). -/
def withPhase (ws : List Word64) (phase : Bool) : List Word64 :=
  listSet ws 1 (setBit (ws.getD 1 0) 16 phase)

end Sys2Proof.Machine
end

