-- ==== Sys2Proof/Machine/Ecc.lean ====
section
/-! DEFINITION. The Reed-Solomon codes over GF(2^8) of core SRAM (R136) and of HBM (R240): what a decoder makes of an error. An
error is the XOR of the stored code word with the one written, byte by byte, data bytes first. -/

namespace Sys2Proof.Machine

/-- Doubling in GF(2^8) with field polynomial x^8 + x^4 + x^3 + x^2 + 1 (R136). -/
def gfDouble (a : Nat) : Nat := if a < 128 then 2 * a else (2 * a) ^^^ 0x11D

/-- Product in GF(2^8), over the eight bits of the second factor. -/
def gfMul (a b : Nat) : Nat :=
  ((List.range 8).foldl (fun (p : Nat × Nat) i => (if bitOf b i then p.1 ^^^ p.2 else p.1, gfDouble p.2)) (0, a)).1

/-- α^k, α = 0x02. -/
def gfPow : Nat → Nat
  | 0 => 1
  | k + 1 => gfDouble (gfPow k)

/-- Syndrome S_j of an error: its value as a polynomial at α^j, the first byte the highest coefficient (Horner). -/
def syndrome (e : List Byte) (j : Nat) : Nat :=
  e.foldl (fun acc b => gfMul acc (gfPow j) ^^^ b.toNat) 0

/-- What the decoder finds in a code word. -/
inductive EccRes where
  | clean
  /-- One byte is corrected: its position, the value added to it. -/
  | fixed (pos : Nat) (val : Nat)
  | bad
  deriving DecidableEq, Repr

/-- Decoding with `n` check bytes: no error where every syndrome is 0; a single-byte error where the syndromes are those of
one byte; otherwise uncorrectable (R136, R240). -/
def eccDecode (n : Nat) (e : List Byte) : EccRes :=
  let syn := (List.range n).map (syndrome e)
  if syn.all (· = 0) then .clean
  else
    let s0 := syn.headD 0
    let fits := fun pos => (List.range n).all (fun j => gfMul s0 (gfPow ((e.length - 1 - pos) * j % 255)) = syn.getD j 0)
    match (List.range e.length).find? (fun pos => decide (s0 ≠ 0) && fits pos) with
    | some pos => .fixed pos s0
    | none => .bad

/-- XOR of two strings of bytes, as long as the first. -/
def xorBytes : List Byte → List Byte → List Byte
  | [], _ => []
  | a :: r, [] => a :: r
  | a :: r, b :: q => (a ^^^ b) :: xorBytes r q

end Sys2Proof.Machine
end

