-- ==== Sys2Proof/Machine/RegTable.lean ====
section
/-! DEFINITION. The register tables of the chapters, one row for each 32-bit register (a 64-bit register is two rows, low half
first): offset, number of copies and their distance, reset value, and the masks of RW, W1C, WO and RO bits; every other bit
is RSV (R9). Where a reset value is 'per grade', 'from flash' or 'from fuses' the row gives 0 and `Regs.lean` the value. -/

namespace Sys2Proof.Machine

/-- One 32-bit register of a page, or a row of equal ones (R9). -/
structure RegSpec where
  name  : String
  off   : Nat
  count : Nat
  step  : Nat
  reset : Nat
  rw    : Nat
  w1c   : Nat
  wo    : Nat
  ro    : Nat
  deriving DecidableEq, Repr

/-- Registers of the grade page. -/
def regsGrade : List RegSpec := [
  ⟨"HDL_GRADE_ID", 0x080, 1, 4, 0x0, 0x0, 0x0, 0x0, 0xFFFF00FF⟩,
  ⟨"HDL_GRADE_CORES", 0x084, 1, 4, 0x0, 0x0, 0x0, 0x0, 0xFFFF01FF⟩,
  ⟨"HDL_GRADE_UNITS", 0x088, 1, 4, 0x0, 0x0, 0x0, 0x0, 0xFFFFFFFF⟩,
  ⟨"HDL_GRADE_FLAGS", 0x08C, 1, 4, 0x1, 0x0, 0x0, 0x0, 0x7⟩]

/-- Registers of the valley page. -/
def regsValley : List RegSpec := [
  ⟨"VLY_GRADE_STATUS", 0x080, 1, 4, 0x0, 0x0, 0x0, 0x0, 0x1FF01FF⟩,
  ⟨"VLY_SLOT_STATUS", 0x100, 1, 4, 0x0, 0x0, 0x0, 0x0, 0x1FF⟩,
  ⟨"VLY_SLOT_HANDLE0.lo", 0x108, 1, 4, 0x0, 0x0, 0x0, 0x0, 0xFFFFFFFF⟩,
  ⟨"VLY_SLOT_HANDLE0.hi", 0x10C, 1, 4, 0x0, 0x0, 0x0, 0x0, 0xFFFFFFFF⟩,
  ⟨"VLY_SLOT_HANDLE1.lo", 0x110, 1, 4, 0x0, 0x0, 0x0, 0x0, 0xFFFFFFFF⟩,
  ⟨"VLY_SLOT_HANDLE1.hi", 0x114, 1, 4, 0x0, 0x0, 0x0, 0x0, 0xFFFFFFFF⟩,
  ⟨"VLY_CFG_INDEX", 0x118, 1, 4, 0x0, 0x11FF, 0x0, 0x0, 0x0⟩,
  ⟨"VLY_CFG_DATA.lo", 0x120, 1, 4, 0x0, 0x0, 0x0, 0x0, 0xFFFFFFFF⟩,
  ⟨"VLY_CFG_DATA.hi", 0x124, 1, 4, 0x0, 0x0, 0x0, 0x0, 0xFFFFFFFF⟩,
  ⟨"VLY_CFG_ERR", 0x128, 1, 4, 0x0, 0x0, 0x80000000, 0x0, 0x400011FF⟩,
  ⟨"VLY_CORE_MAP", 0x400, 256, 4, 0x0, 0x0, 0x0, 0x0, 0xC0FF⟩,
  ⟨"VLY_DRAIN_FLAGS", 0xC00, 1, 4, 0x0, 0x0, 0x7, 0x0, 0x0⟩,
  ⟨"VLY_FLAG_FIRST", 0xC04, 1, 4, 0x0, 0x0, 0x0, 0x0, 0xF00180FF⟩,
  ⟨"VLY_ROW_STATUS", 0xC10, 1, 4, 0x0, 0x0, 0x0, 0x0, 0xDFFF1FFF⟩,
  ⟨"VLY_ROW_COUNT", 0xC14, 1, 4, 0x0, 0x0, 0x0, 0x0, 0xFFFFFFFF⟩,
  ⟨"VLY_ROW_NAN", 0xC18, 1, 4, 0x0, 0x0, 0x0, 0x80000000, 0xFFFF⟩,
  ⟨"VLY_CREST_STATUS", 0xC20, 1, 4, 0x0, 0x0, 0x0, 0x0, 0xFF03⟩,
  ⟨"VLY_CREST_SHORT", 0xC24, 1, 4, 0x0, 0x0, 0x0, 0x0, 0xFFFFFFFF⟩,
  ⟨"VLY_SRAM_CTRL", 0xD00, 1, 4, 0x401, 0xF01, 0x0, 0x0, 0x0⟩,
  ⟨"VLY_SRAM_ERR", 0xD04, 1, 4, 0x0, 0x0, 0x80000000, 0x0, 0x67FFFFFF⟩,
  ⟨"VLY_SRAM_POISONED", 0xD08, 1, 4, 0x0, 0x0, 0x0, 0x0, 0xFFFF⟩,
  ⟨"VLY_SCRUB_STATUS", 0xD0C, 1, 4, 0x0, 0x0, 0x0, 0x0, 0xFFFF03FF⟩,
  ⟨"VLY_MERGE_COUNT", 0xD10, 1, 4, 0x0, 0x0, 0x0, 0x0, 0xFFFFFFFF⟩,
  ⟨"VLY_PLAIN_STATUS", 0xD14, 1, 4, 0x0, 0x0, 0x0, 0x0, 0xFFFF000F⟩,
  ⟨"VLY_PLAIN_HOLE", 0xD20, 8, 4, 0x0, 0x0, 0x0, 0x0, 0x80FF⟩]

/-- Registers of the esc page. -/
def regsEsc : List RegSpec := [
  ⟨"QM_ESC_INDEX", 0x080, 1, 4, 0x0, 0x3F0FFF, 0x0, 0x0, 0x0⟩,
  ⟨"QM_ESC_CMD", 0x084, 1, 4, 0x0, 0x0, 0x0, 0x7, 0x0⟩,
  ⟨"QM_ESC_STATUS", 0x088, 1, 4, 0x0, 0x0, 0x0, 0x0, 0x3⟩,
  ⟨"QM_ESC_LAST", 0x08C, 1, 4, 0x0, 0x0, 0x0, 0x0, 0xFF000FFF⟩,
  ⟨"QM_ESC_WORD0", 0x0A0, 1, 4, 0x0, 0xF07F7FFF, 0x0, 0x0, 0x0⟩,
  ⟨"QM_ESC_WORD1", 0x0A4, 1, 4, 0x0, 0xFFFFFFFF, 0x0, 0x0, 0x0⟩,
  ⟨"QM_ESC_WORD2", 0x0A8, 1, 4, 0x0, 0xFFFFFFFF, 0x0, 0x0, 0x0⟩,
  ⟨"QM_ESC_WORD3", 0x0AC, 1, 4, 0x0, 0xFFFFFFFF, 0x0, 0x0, 0x0⟩,
  ⟨"QM_ESC_WORD4", 0x0B0, 1, 4, 0x0, 0xFFFFFFFF, 0x0, 0x0, 0x0⟩,
  ⟨"QM_ESC_WORD5", 0x0B4, 1, 4, 0x0, 0xFFFFFFFF, 0x0, 0x0, 0x0⟩,
  ⟨"QM_ESC_WORD6", 0x0B8, 1, 4, 0x0, 0xFFFFFFFF, 0x0, 0x0, 0x0⟩,
  ⟨"QM_ESC_WORD7", 0x0BC, 1, 4, 0x0, 0xFFFFFFFF, 0x0, 0x0, 0x0⟩]

/-- Registers of the passEnd page. -/
def regsPassEnd : List RegSpec := [
  ⟨"DS_PASS_STATUS", 0x080, 1, 4, 0x0, 0x0, 0x0, 0x0, 0x8000FFFF⟩,
  ⟨"DS_PASS_TX_BYTES.lo", 0x088, 1, 4, 0x0, 0x0, 0x0, 0x0, 0xFFFFFFFF⟩,
  ⟨"DS_PASS_TX_BYTES.hi", 0x08C, 1, 4, 0x0, 0x0, 0x0, 0x0, 0xFFFFFFFF⟩,
  ⟨"DS_PASS_RX_BYTES.lo", 0x090, 1, 4, 0x0, 0x0, 0x0, 0x0, 0xFFFFFFFF⟩,
  ⟨"DS_PASS_RX_BYTES.hi", 0x094, 1, 4, 0x0, 0x0, 0x0, 0x0, 0xFFFFFFFF⟩,
  ⟨"DS_PASS_REPLAY", 0x098, 1, 4, 0x0, 0x0, 0x0, 0x0, 0xFFFFFFFF⟩]

/-- Registers of the stream page. -/
def regsStream : List RegSpec := [
  ⟨"STREAM_SEL", 0x080, 1, 4, 0x0, 0xFFF, 0x0, 0x0, 0x0⟩,
  ⟨"STREAM_STATUS", 0x084, 1, 4, 0x0, 0x0, 0x0, 0x0, 0xC0FF7F00⟩,
  ⟨"STREAM_HANDLE.lo", 0x088, 1, 4, 0x0, 0x0, 0x0, 0x0, 0xFFFFFFFF⟩,
  ⟨"STREAM_HANDLE.hi", 0x08C, 1, 4, 0x0, 0x0, 0x0, 0x0, 0xFFFFFFFF⟩,
  ⟨"STAGE_LIMIT", 0x090, 1, 4, 0x100, 0xFFF, 0x0, 0x0, 0x0⟩,
  ⟨"STAGE_USED", 0x094, 1, 4, 0x0, 0x0, 0x0, 0x0, 0xFFF⟩,
  ⟨"FAULT_VA.lo", 0x098, 1, 4, 0x0, 0x0, 0x0, 0x0, 0xFFFFFFFF⟩,
  ⟨"FAULT_VA.hi", 0x09C, 1, 4, 0x0, 0x0, 0x0, 0x0, 0xFFFFF⟩,
  ⟨"FAULT_INFO", 0x0A0, 1, 4, 0x0, 0x0, 0x80000000, 0x0, 0x7FFFFFFF⟩,
  ⟨"FAULT_RUN", 0x0A4, 1, 4, 0x0, 0x0, 0x0, 0x0, 0xFFFFFFFF⟩,
  ⟨"FAULT_HANDLE.lo", 0x0A8, 1, 4, 0x0, 0x0, 0x0, 0x0, 0xFFFFFFFF⟩,
  ⟨"FAULT_HANDLE.hi", 0x0AC, 1, 4, 0x0, 0x0, 0x0, 0x0, 0xFFFFFFFF⟩,
  ⟨"EBB_HANDOFF_TIMEOUT", 0x0B0, 1, 4, 0x2710, 0xFFFF, 0x0, 0x0, 0x0⟩]

/-- Registers of the narrows page. -/
def regsNarrows : List RegSpec := [
  ⟨"NAR_CTRL", 0x080, 1, 4, 0x10A, 0xFFF, 0x0, 0x0, 0x0⟩,
  ⟨"NAR_WRITES.lo", 0x088, 1, 4, 0x0, 0x0, 0x0, 0x0, 0xFFFFFFFF⟩,
  ⟨"NAR_WRITES.hi", 0x08C, 1, 4, 0x0, 0x0, 0x0, 0x0, 0xFFFFFFFF⟩,
  ⟨"NAR_LINES.lo", 0x090, 1, 4, 0x0, 0x0, 0x0, 0x0, 0xFFFFFFFF⟩,
  ⟨"NAR_LINES.hi", 0x094, 1, 4, 0x0, 0x0, 0x0, 0x0, 0xFFFFFFFF⟩,
  ⟨"NAR_FAULT_VA.lo", 0x098, 1, 4, 0x0, 0x0, 0x0, 0x0, 0xFFFFFFFF⟩,
  ⟨"NAR_FAULT_VA.hi", 0x09C, 1, 4, 0x0, 0x0, 0x80000000, 0x0, 0xFFFFF⟩]

/-- Registers of the qm page. -/
def regsQm : List RegSpec := [
  ⟨"QM_STALL_SEL", 0x080, 1, 4, 0x0, 0x1FF003F, 0x0, 0x80000000, 0x0⟩,
  ⟨"QM_STALL_HDR", 0x084, 1, 4, 0x0, 0x0, 0x0, 0x0, 0xFFF03FFF⟩,
  ⟨"QM_STALL_ENTRY.lo", 0x088, 1, 4, 0x0, 0x0, 0x0, 0x0, 0x7FFFFFFF⟩,
  ⟨"QM_STALL_ENTRY.hi", 0x08C, 1, 4, 0x0, 0x0, 0x0, 0x0, 0xFFFFFFFF⟩,
  ⟨"QM_STALL_AWAIT.lo", 0x090, 1, 4, 0x0, 0x0, 0x0, 0x0, 0xFFFFFFFF⟩,
  ⟨"QM_STALL_AWAIT.hi", 0x094, 1, 4, 0x0, 0x0, 0x0, 0x0, 0xFFFFFFFF⟩,
  ⟨"QM_STALL_SEEN.lo", 0x098, 1, 4, 0x0, 0x0, 0x0, 0x0, 0xFFFFFFFF⟩,
  ⟨"QM_STALL_SEEN.hi", 0x09C, 1, 4, 0x0, 0x0, 0x0, 0x0, 0xFFFFFFFF⟩,
  ⟨"QM_STALL_MISSED", 0x0A0, 1, 4, 0x0, 0x0, 0x0, 0x0, 0xFFFF⟩]

/-- Registers of the tmCtl page. -/
def regsTmCtl : List RegSpec := [
  ⟨"TM_ADD_INDEX", 0x080, 1, 4, 0x0, 0x1FFF, 0x0, 0x0, 0x0⟩,
  ⟨"TM_ADD_VALUE.lo", 0x088, 1, 4, 0x0, 0x0, 0x0, 0xFFFFFFFF, 0x0⟩,
  ⟨"TM_ADD_VALUE.hi", 0x08C, 1, 4, 0x0, 0x0, 0x0, 0xFFFFFFFF, 0x0⟩,
  ⟨"TM_SIGNALS.lo", 0x090, 1, 4, 0x0, 0x0, 0x0, 0x0, 0xFFFFFFFF⟩,
  ⟨"TM_SIGNALS.hi", 0x094, 1, 4, 0x0, 0x0, 0x0, 0x0, 0xFFFFFFFF⟩]

/-- Registers of the hbmCtl page. -/
def regsHbmCtl : List RegSpec := [
  ⟨"HBM_CAPACITY", 0x080, 1, 4, 0x5969, 0x0, 0x0, 0x0, 0xFFFF⟩,
  ⟨"HBM_ECC_CTRL", 0x084, 1, 4, 0x1801, 0xFF01, 0x0, 0x0, 0x0⟩,
  ⟨"HBM_ERR_INFO", 0x088, 1, 4, 0x0, 0x0, 0x80000000, 0x0, 0x7FFF0000⟩,
  ⟨"HBM_ERR_PA.lo", 0x090, 1, 4, 0x0, 0x0, 0x0, 0x0, 0xFFFFFFC0⟩,
  ⟨"HBM_ERR_PA.hi", 0x094, 1, 4, 0x0, 0x0, 0x0, 0x0, 0x7F⟩,
  ⟨"HBM_STACK_CORR", 0x098, 1, 4, 0x0, 0x0, 0x0, 0x0, 0xFFFFFFFF⟩,
  ⟨"HBM_PATROL_STATUS", 0x09C, 1, 4, 0x0, 0x0, 0x0, 0x0, 0xFFFFFFFF⟩,
  ⟨"HBM_EPOCH", 0x0A0, 1, 4, 0x0, 0x0, 0x0, 0x0, 0xFF⟩,
  ⟨"HBM_HDR_OPS.lo", 0x0A8, 1, 4, 0x0, 0x0, 0x0, 0x0, 0xFFFFFFFF⟩,
  ⟨"HBM_HDR_OPS.hi", 0x0AC, 1, 4, 0x0, 0x0, 0x0, 0x0, 0xFFFFFFFF⟩]

/-- Registers of the hbmReg page. -/
def regsHbmReg : List RegSpec := [
  ⟨"HBM_REG_NAR.lo", 0x080, 1, 4, 0x0, 0x0, 0x0, 0x0, 0xFFFFFFFF⟩,
  ⟨"HBM_REG_NAR.hi", 0x084, 1, 4, 0x0, 0x0, 0x0, 0x0, 0xFFFFFFFF⟩,
  ⟨"HBM_REG_IDLE.lo", 0x088, 1, 4, 0x0, 0x0, 0x0, 0x0, 0xFFFFFFFF⟩,
  ⟨"HBM_REG_IDLE.hi", 0x08C, 1, 4, 0x0, 0x0, 0x0, 0x0, 0xFFFFFFFF⟩,
  ⟨"HBM_REG_SHARE", 0x100, 64, 4, 0x0, 0xFF, 0x0, 0x0, 0x0⟩,
  ⟨"HBM_REG_GRANT.lo", 0x200, 64, 8, 0x0, 0x0, 0x0, 0x0, 0xFFFFFFFF⟩,
  ⟨"HBM_REG_GRANT.hi", 0x204, 64, 8, 0x0, 0x0, 0x0, 0x0, 0xFFFFFFFF⟩,
  ⟨"HBM_REG_BYTES.lo", 0x400, 64, 8, 0x0, 0x0, 0x0, 0x0, 0xFFFFFFFF⟩,
  ⟨"HBM_REG_BYTES.hi", 0x404, 64, 8, 0x0, 0x0, 0x0, 0x0, 0xFFFFFFFF⟩]

/-- Registers of the berm page. -/
def regsBerm : List RegSpec := [
  ⟨"BERM_STATUS", 0x080, 1, 4, 0x0, 0x0, 0x0, 0x0, 0xFFF⟩,
  ⟨"BERM_OLDEST_HANDLE.lo", 0x088, 1, 4, 0x0, 0x0, 0x0, 0x0, 0xFFFFFFFF⟩,
  ⟨"BERM_OLDEST_HANDLE.hi", 0x08C, 1, 4, 0x0, 0x0, 0x0, 0x0, 0xFFFFFFFF⟩,
  ⟨"BERM_APPLIED.lo", 0x090, 1, 4, 0x0, 0x0, 0x0, 0x0, 0xFFFFFFFF⟩,
  ⟨"BERM_APPLIED.hi", 0x094, 1, 4, 0x0, 0x0, 0x0, 0x0, 0xFFFFFFFF⟩,
  ⟨"BERM_SKIPPED.lo", 0x098, 1, 4, 0x0, 0x0, 0x0, 0x0, 0xFFFFFFFF⟩,
  ⟨"BERM_SKIPPED.hi", 0x09C, 1, 4, 0x0, 0x0, 0x0, 0x0, 0xFFFFFFFF⟩,
  ⟨"BERM_WAIT_TIMEOUT", 0x0A0, 1, 4, 0x7D0, 0xFFFF, 0x0, 0x0, 0x0⟩]

/-- Registers of the seq page. -/
def regsSeq : List RegSpec := [
  ⟨"DS_SEQ_SEL", 0x080, 1, 4, 0x0, 0x7, 0x0, 0x0, 0x0⟩,
  ⟨"DS_SEQ_CTRL", 0x084, 1, 4, 0x0, 0xFFFFFFFF, 0x0, 0x0, 0x0⟩,
  ⟨"DS_SEQ_QUEUES", 0x088, 1, 4, 0x0, 0x3FFF3FFF, 0x0, 0x0, 0x0⟩,
  ⟨"DS_SEQ_ORDER_TM", 0x08C, 1, 4, 0x0, 0x1FFF, 0x0, 0x0, 0x0⟩,
  ⟨"DS_SEQ_COUNT.lo", 0x090, 1, 4, 0x0, 0x1FFF1FFF, 0x0, 0x0, 0x0⟩,
  ⟨"DS_SEQ_COUNT.hi", 0x094, 1, 4, 0x0, 0xFFFFFFFF, 0x0, 0x0, 0x0⟩,
  ⟨"DS_SEQ_NEXT", 0x098, 1, 4, 0x0, 0x0, 0x0, 0x0, 0x80001FFF⟩,
  ⟨"DS_SEQ_GRANTS.lo", 0x0A0, 1, 4, 0x0, 0x0, 0x0, 0x0, 0xFFFFFFFF⟩,
  ⟨"DS_SEQ_GRANTS.hi", 0x0A4, 1, 4, 0x0, 0x0, 0x0, 0x0, 0xFFFFFFFF⟩]

/-- Registers of the estuary page. -/
def regsEstuary : List RegSpec := [
  ⟨"EST_NET", 0x080, 1, 4, 0x30006C62, 0x7FFFFFFF, 0x0, 0x0, 0x0⟩,
  ⟨"EST_JOB_SEL", 0x084, 1, 4, 0x0, 0x3F, 0x0, 0x0, 0x0⟩,
  ⟨"EST_JOB", 0x088, 1, 4, 0x0, 0xE000FFFF, 0x0, 0x0, 0x0⟩,
  ⟨"EST_JOB_TM", 0x08C, 1, 4, 0x0, 0x1FFF, 0x0, 0x0, 0x0⟩,
  ⟨"EST_JOB_TIMEOUT", 0x090, 1, 4, 0x7D001F4, 0xFFFFFFFF, 0x0, 0x0, 0x0⟩,
  ⟨"EST_STATUS", 0x098, 1, 4, 0x0, 0x0, 0x0, 0x0, 0xFFFF01FF⟩,
  ⟨"EST_RX_DROP.lo", 0x0A0, 1, 4, 0x0, 0x0, 0x0, 0x0, 0xFFFFFFFF⟩,
  ⟨"EST_RX_DROP.hi", 0x0A4, 1, 4, 0x0, 0x0, 0x0, 0x0, 0xFFFFFFFF⟩,
  ⟨"EST_LATE_DROP.lo", 0x0A8, 1, 4, 0x0, 0x0, 0x0, 0x0, 0xFFFFFFFF⟩,
  ⟨"EST_LATE_DROP.hi", 0x0AC, 1, 4, 0x0, 0x0, 0x0, 0x0, 0xFFFFFFFF⟩,
  ⟨"EST_RESENT.lo", 0x0B0, 1, 4, 0x0, 0x0, 0x0, 0x0, 0xFFFFFFFF⟩,
  ⟨"EST_RESENT.hi", 0x0B4, 1, 4, 0x0, 0x0, 0x0, 0x0, 0xFFFFFFFF⟩,
  ⟨"EST_MISMATCH.lo", 0x0B8, 1, 4, 0x0, 0x0, 0x0, 0x0, 0xFFFFFFFF⟩,
  ⟨"EST_MISMATCH.hi", 0x0BC, 1, 4, 0x0, 0x0, 0x0, 0x0, 0xFFFFFFFF⟩]

/-- Registers of the port page. -/
def regsPort : List RegSpec := [
  ⟨"LINK_UP", 0x080, 1, 4, 0x0, 0x10000000, 0x0, 0x8000000, 0xE0000000⟩,
  ⟨"MAC.lo", 0x088, 1, 4, 0x0, 0x0, 0x0, 0x0, 0xFFFFFFFF⟩,
  ⟨"MAC.hi", 0x08C, 1, 4, 0x0, 0x0, 0x0, 0x0, 0xFFFF⟩,
  ⟨"IP", 0x090, 4, 4, 0x0, 0xFFFFFFFF, 0x0, 0x0, 0x0⟩,
  ⟨"TX_FRAMES.lo", 0x0A0, 1, 4, 0x0, 0x0, 0x0, 0x0, 0xFFFFFFFF⟩,
  ⟨"TX_FRAMES.hi", 0x0A4, 1, 4, 0x0, 0x0, 0x0, 0x0, 0xFFFFFFFF⟩,
  ⟨"RX_FRAMES.lo", 0x0A8, 1, 4, 0x0, 0x0, 0x0, 0x0, 0xFFFFFFFF⟩,
  ⟨"RX_FRAMES.hi", 0x0AC, 1, 4, 0x0, 0x0, 0x0, 0x0, 0xFFFFFFFF⟩,
  ⟨"FCS_ERRORS.lo", 0x0B0, 1, 4, 0x0, 0x0, 0x0, 0x0, 0xFFFFFFFF⟩,
  ⟨"FCS_ERRORS.hi", 0x0B4, 1, 4, 0x0, 0x0, 0x0, 0x0, 0xFFFFFFFF⟩,
  ⟨"PAUSE_RX.lo", 0x0B8, 1, 4, 0x0, 0x0, 0x0, 0x0, 0xFFFFFFFF⟩,
  ⟨"PAUSE_RX.hi", 0x0BC, 1, 4, 0x0, 0x0, 0x0, 0x0, 0xFFFFFFFF⟩,
  ⟨"PAUSE_TX.lo", 0x0C0, 1, 4, 0x0, 0x0, 0x0, 0x0, 0xFFFFFFFF⟩,
  ⟨"PAUSE_TX.hi", 0x0C4, 1, 4, 0x0, 0x0, 0x0, 0x0, 0xFFFFFFFF⟩,
  ⟨"OTHER_RX.lo", 0x0C8, 1, 4, 0x0, 0x0, 0x0, 0x0, 0xFFFFFFFF⟩,
  ⟨"OTHER_RX.hi", 0x0CC, 1, 4, 0x0, 0x0, 0x0, 0x0, 0xFFFFFFFF⟩]

/-- Registers of the tideway page. -/
def regsTideway : List RegSpec := [
  ⟨"TWY_PAIR_STATUS", 0x080, 1, 4, 0x0, 0x0, 0x0, 0x0, 0x80000F33⟩,
  ⟨"TWY_PAIR_CTRL", 0x084, 1, 4, 0x3E8, 0xFFFF, 0x0, 0x80000000, 0x0⟩,
  ⟨"TWY_JOB_SEL", 0x088, 1, 4, 0x0, 0x3F, 0x0, 0x0, 0x0⟩,
  ⟨"TWY_JOB", 0x08C, 1, 4, 0x0, 0x3F03, 0x0, 0x80000000, 0x0⟩,
  ⟨"TWY_JOB_TM", 0x090, 1, 4, 0x0, 0x1FFF1FFF, 0x0, 0x0, 0x0⟩,
  ⟨"TWY_SNAP_TM", 0x094, 1, 4, 0x0, 0x1FFF, 0x0, 0x0, 0x0⟩,
  ⟨"TWY_MIRROR_LIST.lo", 0x098, 1, 4, 0x0, 0xFFFFFFFF, 0x0, 0x0, 0x0⟩,
  ⟨"TWY_MIRROR_LIST.hi", 0x09C, 1, 4, 0x0, 0xFFFFF, 0x0, 0x0, 0x0⟩,
  ⟨"TWY_MIRROR_SENT.lo", 0x0A0, 1, 4, 0x0, 0x0, 0x0, 0x0, 0xFFFFFFFF⟩,
  ⟨"TWY_MIRROR_SENT.hi", 0x0A4, 1, 4, 0x0, 0x0, 0x0, 0x0, 0xFFFF0000⟩,
  ⟨"TWY_RESTORE_ADDR.lo", 0x0B0, 1, 4, 0x0, 0xFFFFFFFF, 0x0, 0x0, 0x0⟩,
  ⟨"TWY_RESTORE_ADDR.hi", 0x0B4, 1, 4, 0x0, 0xFFFFF, 0x0, 0x0, 0x0⟩,
  ⟨"TWY_RESTORE_CTRL", 0x0B8, 1, 4, 0x0, 0x3F013F, 0x0, 0x80000000, 0x70000000⟩]

/-- Registers of the twyLink page. -/
def regsTwyLink : List RegSpec := [
  ⟨"LINK_UP", 0x080, 1, 4, 0x0, 0x0, 0x0, 0x40000000, 0x80000000⟩,
  ⟨"TX_BYTES.lo", 0x088, 1, 4, 0x0, 0x0, 0x0, 0x0, 0xFFFFFFFF⟩,
  ⟨"TX_BYTES.hi", 0x08C, 1, 4, 0x0, 0x0, 0x0, 0x0, 0xFFFFFFFF⟩,
  ⟨"RX_BYTES.lo", 0x090, 1, 4, 0x0, 0x0, 0x0, 0x0, 0xFFFFFFFF⟩,
  ⟨"RX_BYTES.hi", 0x094, 1, 4, 0x0, 0x0, 0x0, 0x0, 0xFFFFFFFF⟩,
  ⟨"REPLAYS", 0x098, 1, 4, 0x0, 0x0, 0x0, 0x0, 0xFFFFFFFF⟩]

/-- Registers of the headland page. -/
def regsHeadland : List RegSpec := [
  ⟨"HDL_BOOT_STATUS", 0x080, 1, 4, 0x0, 0x0, 0x0, 0x0, 0xFF0F⟩,
  ⟨"HDL_SVN", 0x084, 1, 4, 0x0, 0x0, 0x0, 0x0, 0xFFFFFF⟩,
  ⟨"HDL_ALERT_CTRL", 0x088, 1, 4, 0x1, 0x3, 0xF0000, 0x0, 0x0⟩,
  ⟨"HDL_MBOX_CTRL", 0x08C, 1, 4, 0x0, 0x0, 0x0, 0x80000000, 0x3FF00⟩,
  ⟨"HDL_MBOX_REQ", 0x400, 64, 4, 0x0, 0xFFFFFFFF, 0x0, 0x0, 0x0⟩,
  ⟨"HDL_MBOX_RSP", 0x500, 64, 4, 0x0, 0x0, 0x0, 0x0, 0xFFFFFFFF⟩,
  ⟨"HDL_CKPT_COST", 0xC00, 1, 4, 0x0, 0xFFFF, 0x0, 0x0, 0x0⟩,
  ⟨"HDL_CKPT_LIMITS", 0xC04, 1, 4, 0x0, 0xFFFFFFFF, 0x0, 0x0, 0x0⟩,
  ⟨"HDL_CKPT_INTERVAL", 0xC08, 1, 4, 0xE10, 0x0, 0x0, 0x0, 0x3FFFFFF⟩,
  ⟨"HDL_CKPT_WEIGHT", 0xC10, 8, 4, 0x0, 0x1FF, 0x0, 0x0, 0x0⟩,
  ⟨"HDL_CKPT_COUNT", 0xC30, 8, 4, 0x0, 0x0, 0x0, 0x0, 0xFFFF⟩]

/-- Registers of the jobTable page. -/
def regsJobTable : List RegSpec := [
  ⟨"QM_JOB_SEL", 0x080, 1, 4, 0x0, 0x3F, 0x0, 0x0, 0x0⟩,
  ⟨"QM_JOB_CTRL", 0x084, 1, 4, 0x0, 0x80, 0x0, 0xF0000000, 0x10F07⟩,
  ⟨"QM_JOB_PT_ROOT.lo", 0x088, 1, 4, 0x0, 0xFFFF0000, 0x0, 0x0, 0x0⟩,
  ⟨"QM_JOB_PT_ROOT.hi", 0x08C, 1, 4, 0x0, 0x7F, 0x0, 0x0, 0x0⟩,
  ⟨"QM_JOB_QUEUES", 0x090, 1, 4, 0x0, 0x7FFF3FFF, 0x0, 0x0, 0x0⟩,
  ⟨"QM_JOB_TMS", 0x094, 1, 4, 0x0, 0x7FFF3FFF, 0x0, 0x0, 0x0⟩,
  ⟨"QM_JOB_RINGS", 0x098, 1, 4, 0x0, 0x7FFF3FFF, 0x0, 0x0, 0x0⟩,
  ⟨"QM_JOB_STREAMS", 0x09C, 1, 4, 0x0, 0x7FFF3FFF, 0x0, 0x0, 0x0⟩,
  ⟨"QM_VALLEY_ASSIGN", 0x0A0, 1, 4, 0x0, 0x3F07FF, 0x0, 0xC0000000, 0x0⟩,
  ⟨"QM_VALLEY_OWNER", 0x0A4, 1, 4, 0x0, 0x0, 0x0, 0x0, 0x3F87FF⟩,
  ⟨"QM_JOB_FAULT_INFO", 0x0B0, 1, 4, 0x0, 0x0, 0x80000000, 0x0, 0x7F000000⟩,
  ⟨"QM_JOB_FAULT_VA.lo", 0x0B8, 1, 4, 0x0, 0x0, 0x0, 0x0, 0xFFFFFFFF⟩,
  ⟨"QM_JOB_FAULT_VA.hi", 0x0BC, 1, 4, 0x0, 0x0, 0x0, 0x0, 0xFFFFFFFF⟩,
  ⟨"QM_JOB_FAULT_HANDLE.lo", 0x0C0, 1, 4, 0x0, 0x0, 0x0, 0x0, 0xFFFFFFFF⟩,
  ⟨"QM_JOB_FAULT_HANDLE.hi", 0x0C4, 1, 4, 0x0, 0x0, 0x0, 0x0, 0xFFFFFFFF⟩,
  ⟨"QM_SL_CTRL", 0x100, 1, 4, 0x0, 0xC0000000, 0x0, 0x20000000, 0x0⟩,
  ⟨"QM_SL_BASE.lo", 0x108, 1, 4, 0x0, 0xFFE00000, 0x0, 0x0, 0x0⟩,
  ⟨"QM_SL_BASE.hi", 0x10C, 1, 4, 0x0, 0x7F, 0x0, 0x0, 0x0⟩,
  ⟨"QM_SL_SIZE", 0x110, 1, 4, 0x0, 0xFFF, 0x0, 0x0, 0x0⟩,
  ⟨"QM_SL_WINDOW.lo", 0x118, 1, 4, 0x0, 0xFFFFFFFF, 0x0, 0x0, 0x0⟩,
  ⟨"QM_SL_WINDOW.hi", 0x11C, 1, 4, 0x0, 0xFFFFFFFF, 0x0, 0x0, 0x0⟩,
  ⟨"QM_SL_WRITTEN.lo", 0x120, 1, 4, 0x0, 0x0, 0x0, 0x0, 0xFFFFFFFF⟩,
  ⟨"QM_SL_WRITTEN.hi", 0x124, 1, 4, 0x0, 0x0, 0x0, 0x0, 0xFFFFFFFF⟩,
  ⟨"QM_SL_LOST.lo", 0x128, 1, 4, 0x0, 0x0, 0x0, 0x0, 0xFFFFFFFF⟩,
  ⟨"QM_SL_LOST.hi", 0x12C, 1, 4, 0x0, 0x0, 0x0, 0x0, 0xFFFFFFFF⟩]

/-- Registers of the ident page. -/
def regsIdent : List RegSpec := [
  ⟨"SERIAL.lo", 0x080, 1, 4, 0x0, 0x0, 0x0, 0x0, 0xFFFFFFFF⟩,
  ⟨"SERIAL.hi", 0x084, 1, 4, 0x0, 0x0, 0x0, 0x0, 0xFFFFFFFF⟩,
  ⟨"BUILD_ID.lo", 0x088, 1, 4, 0x0, 0x0, 0x0, 0x0, 0xFFFFFFFF⟩,
  ⟨"BUILD_ID.hi", 0x08C, 1, 4, 0x0, 0x0, 0x0, 0x0, 0xFFFFFFFF⟩,
  ⟨"ID_LOCK", 0x090, 1, 4, 0x0, 0x0, 0x0, 0x0, 0x1⟩,
  ⟨"RSA_KEY_HASH", 0x100, 12, 4, 0x0, 0x0, 0x0, 0x0, 0xFFFFFFFF⟩,
  ⟨"SLH_KEY_HASH", 0x130, 12, 4, 0x0, 0x0, 0x0, 0x0, 0xFFFFFFFF⟩]

/-- Registers of the steward page. -/
def regsSteward : List RegSpec := [
  ⟨"DS_FW_STATUS", 0x080, 1, 4, 0x0, 0x0, 0x0, 0x0, 0xC0FFFFFF⟩,
  ⟨"DS_FW_BUILD.lo", 0x088, 1, 4, 0x0, 0x0, 0x0, 0x0, 0xFFFFFFFF⟩,
  ⟨"DS_FW_BUILD.hi", 0x08C, 1, 4, 0x0, 0x0, 0x0, 0x0, 0xFFFFFFFF⟩,
  ⟨"DS_FW_CTRL", 0x090, 1, 4, 0x0, 0x2, 0x0, 0x1, 0x0⟩,
  ⟨"DS_SOUND_FAIL", 0x098, 1, 4, 0x0, 0x0, 0x80000000, 0x0, 0x707FFFF⟩,
  ⟨"DS_RETIRED", 0x0A0, 1, 4, 0x0, 0x0, 0x0, 0x0, 0xFFFFFFFF⟩]

/-- Registers of the power page. -/
def regsPower : List RegSpec := [
  ⟨"PWR_INPUT", 0x080, 1, 4, 0x0, 0x0, 0x0, 0x0, 0xC000FFFF⟩,
  ⟨"PWR_POWER", 0x084, 1, 4, 0x0, 0x0, 0x0, 0x0, 0xFFFFFFFF⟩,
  ⟨"PWR_BUDGET", 0x088, 1, 4, 0x0, 0xFFFF, 0x0, 0x0, 0x0⟩,
  ⟨"PWR_GOV", 0x08C, 1, 4, 0x0, 0x0, 0x0, 0x0, 0x30F⟩,
  ⟨"PWR_TEMP", 0x090, 1, 4, 0x0, 0x0, 0x0, 0x0, 0xFFFFFFFF⟩,
  ⟨"PWR_RESET_CTRL", 0x098, 1, 4, 0x0, 0x1, 0x0, 0xC0000000, 0x0⟩,
  ⟨"PWR_LW_COUNT.lo", 0x0A0, 1, 4, 0x0, 0x0, 0x0, 0x0, 0xFFFFFFFF⟩,
  ⟨"PWR_LW_COUNT.hi", 0x0A4, 1, 4, 0x0, 0x0, 0x0, 0x0, 0xFFFFFFFF⟩]

end Sys2Proof.Machine
end

