-- ==== Sys2Proof/Machine/Pages.lean ====
section
/-! DEFINITION. The BAR0 map (R41, R42), block types (R44), what each grade fits (R2, R13, R42, R327), CAPS (R415), the defined
error and event bits of every page, and the reset value of every register (R28 and the chapters' tables). -/

namespace Sys2Proof.Machine

/-- The block types of R44. -/
inductive PageKind where
  | identity | grade | headland | qm | jobTable | esc | tmCtl | narrows | power
  | steward | seq | passEnd | valley | hbmCtl | hbmReg | berm | flood | ebb
  | estuary | port | tideway | twyLink
  deriving DecidableEq, Repr

/-- BLOCK_TYPE codes of R44. -/
def PageKind.code : PageKind → Nat
  | .identity => 0x0001 | .grade => 0x0002 | .headland => 0x0003 | .qm => 0x0010 | .jobTable => 0x0011 | .esc => 0x0012
  | .tmCtl => 0x0013 | .narrows => 0x0014 | .power => 0x0015 | .steward => 0x0020 | .seq => 0x0021 | .passEnd => 0x0022
  | .valley => 0x0030 | .hbmCtl => 0x0040 | .hbmReg => 0x0041 | .berm => 0x0042 | .flood => 0x0043 | .ebb => 0x0044
  | .estuary => 0x0050 | .port => 0x0051 | .tideway => 0x0060 | .twyLink => 0x0061

/-- A page: its block type and INSTANCE (R44). -/
structure Page where
  kind : PageKind
  inst : Nat
  deriving DecidableEq, Repr

/-- The page that holds BAR0 address `a`, if any (R41, R42). -/
def pageOf (a : Nat) : Option Page :=
  let n := a / 0x1000
  if n < 9 then
    some ⟨[PageKind.identity, .grade, .headland, .qm, .jobTable, .esc, .tmCtl, .narrows, .power].getD n .power, 0⟩
  else if 0x400 ≤ n && n < 0x4C0 then
    let d := (n - 0x400) / 16
    match n % 16 with
    | 0 => some ⟨.steward, d⟩
    | 1 => some ⟨.seq, d⟩
    | 2 => some ⟨.passEnd, 4 * d⟩
    | 3 => some ⟨.passEnd, 4 * d + 1⟩
    | 4 => some ⟨.passEnd, 4 * d + 2⟩
    | 5 => some ⟨.passEnd, 4 * d + 3⟩
    | _ => none
  else if 0x800 ≤ n && n < 0x800 + 1200 then some ⟨.valley, n - 0x800⟩
  else if 0xE00 ≤ n && n < 0xE80 then
    let h := (n - 0xE00) / 16
    match n % 16 with
    | 0 => some ⟨.hbmCtl, h⟩
    | 1 => some ⟨.hbmReg, h⟩
    | 2 => some ⟨.berm, h⟩
    | 3 => some ⟨.flood, h⟩
    | 4 => some ⟨.ebb, h⟩
    | _ => none
  else if n = 0xF00 then some ⟨.estuary, 0⟩
  else if n = 0xF10 then some ⟨.tideway, 0⟩
  else if n = 0xF11 then some ⟨.twyLink, 0⟩
  else if n = 0xF12 then some ⟨.twyLink, 1⟩
  else if 0xF20 ≤ n && n < 0xF30 then some ⟨.port, n - 0xF20⟩
  else none

/-- Addresses of the pages (R41, R42). -/
def pgIdent : Nat := 0x0000
def pgGrade : Nat := 0x1000
def pgHeadland : Nat := 0x2000
def pgQm : Nat := 0x3000
def pgJob : Nat := 0x4000
def pgEsc : Nat := 0x5000
def pgTm : Nat := 0x6000
def pgNar : Nat := 0x7000
def pgPwr : Nat := 0x8000
def pgSteward (d : Nat) : Nat := 0x400000 + d * 0x10000
def pgSeq (d : Nat) : Nat := 0x401000 + d * 0x10000
def pgPass (d e : Nat) : Nat := 0x402000 + d * 0x10000 + e * 0x1000
def pgValley (v : Nat) : Nat := 0x800000 + v * 0x1000
def pgHbm (h : Nat) : Nat := 0xE00000 + h * 0x10000
def pgReg (h : Nat) : Nat := 0xE01000 + h * 0x10000
def pgBerm (h : Nat) : Nat := 0xE02000 + h * 0x10000
def pgEng (e : Eng) : Nat := (match e.kind with | .flood => 0xE03000 | .ebb => 0xE04000) + e.stack * 0x10000
def pgEst : Nat := 0xF00000
def pgTwy : Nat := 0xF10000
def pgLink (l : Nat) : Nat := 0xF11000 + l * 0x1000
def pgPort (p : Nat) : Nat := 0xF20000 + p * 0x1000

/-- Every page of the map (R41, R42). -/
def allPages : List Nat :=
  (List.range 9).map (0x1000 * ·) ++ (List.range 12).flatMap (fun d => (List.range 6).map (fun k => pgSteward d + 0x1000 * k)) ++
  (List.range 1200).map pgValley ++ (List.range 8).flatMap (fun h => (List.range 5).map (fun k => pgHbm h + 0x1000 * k)) ++
  [pgEst, pgTwy, pgLink 0, pgLink 1] ++ (List.range 16).map pgPort

/-- Whether the grade fits the block of a page (R2, R13, R15, R42). -/
def fitted (g : Grade) (p : Page) : Bool :=
  match p.kind with
  | .passEnd =>
    let d := p.inst / 4
    let stackOf := if d < 4 then d else d - 4
    match p.inst % 4 with
    | 1 => d % 4 ≠ 3
    | 2 => true
    | 3 => if d < 8 then true else decide (stackOf < g.stacks)
    | _ => true
  | .hbmCtl | .hbmReg | .flood | .ebb => decide (p.inst < g.stacks)
  | .berm => decide (p.inst < g.berms)
  | .port => decide (p.inst < g.ports)
  | _ => true

/-- CAPS bits [3:1] of a present page: HOLD, SOUND, ISLAND_RESET as R415 gives. -/
def capsBits : PageKind → Nat
  | .steward | .valley | .berm | .flood | .ebb => 0xE
  | .passEnd | .hbmCtl | .estuary | .port | .twyLink => 0xC
  | .tideway => 0xA
  | _ => 0

def canReset (k : PageKind) : Bool := bitOf (capsBits k) 3
def canSound (k : PageKind) : Bool := bitOf (capsBits k) 2
def canHold (k : PageKind) : Bool := bitOf (capsBits k) 1

/-- BLOCK_ERR bits [31:8] that the page's chapter defines. -/
def blockErr : PageKind → Nat
  | .headland | .narrows | .steward | .seq | .port | .twyLink | .power => 0x100
  | .qm => 0x1F00
  | .jobTable | .esc | .passEnd | .hbmCtl | .flood | .estuary => 0x300
  | .valley => 0x3F00
  | .berm | .tideway => 0x700
  | .ebb => 0xF00
  | _ => 0

/-- BLOCK_EVT bits [31:8] that the page's chapter defines. -/
def blockEvt : PageKind → Nat
  | .headland | .jobTable | .steward | .seq | .flood | .ebb | .port => 0x100
  | .qm | .estuary => 0x300
  | .esc | .tideway | .power => 0x700
  | _ => 0

/-- The common error bits [5:0], and the block's own. -/
def errBits (k : PageKind) : Nat := 0x3F + blockErr k

/-- The common event bits [3:0], and the block's own. -/
def evtBits (k : PageKind) : Nat := 0xF + blockEvt k

/-- The block's own registers (0x080 to 0xFFF) by its chapter's tables. -/
def blockRegs : PageKind → List RegSpec
  | .identity => regsIdent | .grade => regsGrade | .headland => regsHeadland | .qm => regsQm | .jobTable => regsJobTable
  | .esc => regsEsc | .tmCtl => regsTmCtl | .narrows => regsNarrows | .power => regsPower | .steward => regsSteward
  | .seq => regsSeq | .passEnd => regsPassEnd | .valley => regsValley | .hbmCtl => regsHbmCtl | .hbmReg => regsHbmReg
  | .berm => regsBerm | .ebb => regsStream | .flood => regsStream.filter (fun r => r.off ≠ 0x0B0)
  | .estuary => regsEstuary | .port => regsPort | .tideway => regsTideway | .twyLink => regsTwyLink

/-- Whether a row of a register table covers offset `off`. -/
def RegSpec.covers (r : RegSpec) (off : Nat) : Bool :=
  decide (r.off ≤ off) && decide ((off - r.off) % r.step = 0) && decide ((off - r.off) / r.step < r.count)

/-- The row of the register at offset `off` of a page's own registers. -/
def regSpec (k : PageKind) (off : Nat) : Option RegSpec := (blockRegs k).find? (·.covers off)

/-- Checkpoint weights when unset (R313). -/
def ckptWeightReset (k : Nat) : Nat := [256, 256, 256, 64, 256, 13, 256, 256].getD k 0

/-- R359: coverage of the logic patterns in units of 0.5 %, and the lengths of logic and memory tests in units of 100 µs; no memory
test where the last is 0. -/
def soundFigures : PageKind → Nat × Nat × Nat
  | .valley => (193, 18, 26)
  | .steward => (188, 120, 31)
  | .passEnd => (196, 30, 0)
  | .hbmCtl => (191, 50, 90)
  | .berm => (194, 25, 10)
  | .flood | .ebb => (192, 15, 12)
  | .estuary => (190, 80, 40)
  | .port | .twyLink => (195, 200, 0)
  | _ => (0, 0, 0)

/-- COVERAGE and DURATION of a sounding (R359). -/
def soundReport (k : PageKind) (scope : Nat) : Nat × Nat :=
  let f := soundFigures k
  match scope with
  | 0 => (f.1, f.2.1 + f.2.2)
  | 1 => (f.1, f.2.1)
  | _ => if f.2.2 = 0 then (0, 0) else (200, f.2.2)

/-- SOUND_RESULT that the power-on sounding leaves in a block that passes, by ONBOOT (R358, R359, R363). -/
def bootSound (k : PageKind) (onboot : Nat) : Nat :=
  if canSound k then
    let r := soundReport k 0
    let d := if k = .valley then (match onboot with | 1 => 44 | 2 => 18 | _ => 144) else r.2
    d * 2 ^ 16 + r.1 * 2 ^ 8 + 2
  else 0

/-- How a block left its latest reset (R30, R363): not yet; without a sounding; sounded at boot, with ONBOOT. -/
inductive Left where
  | notYet | quiet | sounded (onboot : Nat)
  deriving DecidableEq, Repr

/-- STATE, EVT_STAT or SOUND_RESULT of a block as it leaves reset: ready, entered from init or from its power-on sounding. -/
def leftValue (g : Grade) (p : Page) (left : Left) (off : Nat) : Nat :=
  if !fitted g p then 0
  else match left, off with
    | .notYet, 0x00C => 1
    | .notYet, _ => 0
    | .quiet, 0x00C => 0x10013
    | .quiet, 0x028 => 1
    | .quiet, _ => 0
    | .sounded b, o =>
      if canSound p.kind then (match o with
        | 0x00C => 0x20023
        | 0x028 => 9
        | _ => bootSound p.kind b)
      else (match o with
        | 0x00C => 0x10013
        | 0x028 => 1
        | _ => 0)

/-- Reset value of the register at offset `off` of page `p`; `left`: how the block left its latest reset; `policy`:
RETIRE_ON_FAIL of the sounding policy (R369). -/
def pageReset (g : Grade) (left : Left) (policy : Bool) (p : Page) (off : Nat) : Nat :=
  match off with
  | 0x000 => p.kind.code * 0x10000 + p.inst
  | 0x004 => 0x0100
  | 0x008 => if fitted g p then capsBits p.kind + 1 + (if p.kind = .valley && g.crest then 0x100 else if p.kind = .seq then 0x800 else 0) else 0
  | 0x00C | 0x028 | 0x034 => leftValue g p left off
  | 0x010 => 1
  | 0x018 => errBits p.kind
  | 0x030 => if policy then 0x10 else 0
  | _ =>
    if off < 0x80 then 0
    else match p.kind, off with
    | .grade, 0x080 => g.hbmGB * 0x10000 + g.letter
    | .grade, 0x084 => g.enabled
    | .grade, 0x088 => (2 ^ g.ports - 1) * 0x10000 + (2 ^ g.berms - 1) * 0x100 + (2 ^ g.stacks - 1)
    | .grade, 0x08C => 1 + (if g.crest then 2 else 0)
    | .power, 0x088 => g.tdp
    | .headland, 0xC04 => 14400 * 0x10000 + 300
    | k, _ =>
      if k = .headland && 0xC10 ≤ off && off < 0xC30 then ckptWeightReset ((off - 0xC10) / 4)
      else match regSpec k off with
        | some r => r.reset
        | none => 0

end Sys2Proof.Machine
end

