-- ==== Sys2Proof/Machine/Regs.lean ====
section
/-! DEFINITION. The register file (R28), clock islands (R23, R36, R414), the event log (R367, R368) with its alert (R357), errors and
events (R32 to R34), STATE (R30) and the core map (R19, R46). Registers are handled as numbers below 2^32. -/

namespace Sys2Proof.Machine

/-- The block of a page stands in the retired-core map (R362). -/
def retired (s : State) (p : Page) : Bool :=
  if p.kind = .valley then s.flash.valleysRetired.contains p.inst
  else s.flash.blocksRetired.contains (p.kind.code * 0x10000 + p.inst)

/-- How the blocks of a page's kind left their latest reset. -/
def pageLeft (s : State) (own : Bool) : Left :=
  if s.hl.boot ≠ .up || (!own && s.devInit) then .notYet
  else if own || s.sounded then .sounded s.hl.onboot else .quiet

/-- Reset value of the register listed at `key` (BAR0 address + 2^26 * bank), in the machine's present grade and policy. Before
boot, and while a device reset is in progress, the blocks outside Headland are in init. -/
def regReset (s : State) (key : Nat) : Nat :=
  match pageOf (key % 2 ^ 26) with
  | some p =>
    let own := p.kind.code < 0x10 || p.kind = .power
    if key % 0x1000 = 0xC && s.hl.boot = .up && retired s p then 0x10018
    else if key % 0x1000 = 8 && retired s p then 0
    else if key % 0x1000 = 8 && p.kind = .valley && s.flash.crestRetired.contains p.inst then 0xF
    else pageReset s.grade (pageLeft s own) (if own then s.hl.policy else s.devPolicy) p (key % 0x1000)
  | none => 0

/-- The register at `key`. -/
def rd (s : State) (key : Nat) : Nat := (tget (BitVec.ofNat 32 (regReset s key)) s.regs key).toNat

/-- Hardware's store to the register at `key`. -/
def wr (s : State) (key v : Nat) : State :=
  { s with regs := tput (BitVec.ofNat 32 (regReset s key)) s.regs key (BitVec.ofNat 32 v) }

/-- The register at `key` of bank `b`: registers that show a selected job, context or stream. -/
def bk (key b : Nat) : Nat := key + 2 ^ 26 * b

/-- A 64-bit register, low half at `key`. -/
def rd64 (s : State) (key : Nat) : Nat := rd s key + 2 ^ 32 * rd s (key + 4)

def wr64 (s : State) (key v : Nat) : State := wr (wr s key (v % 2 ^ 32)) (key + 4) (v / 2 ^ 32)

/-- Bits [hi:lo] of a register. -/
def rf (s : State) (key hi lo : Nat) : Nat := bitsOf (rd s key) hi lo

/-- One bit of a register. -/
def rb (s : State) (key i : Nat) : Bool := bitOf (rd s key) i

/-- Bits [hi:lo] of a register stored. -/
def wf (s : State) (key hi lo v : Nat) : State :=
  wr s key (setFld (BitVec.ofNat 32 (rd s key)) hi lo v).toNat

/-- A 32-bit counter advanced, wrapping. -/
def inc32 (s : State) (key n : Nat) : State := wr s key ((rd s key + n) % 2 ^ 32)

/-- A 64-bit counter advanced, wrapping. -/
def inc64 (s : State) (key n : Nat) : State := wr64 s key ((rd64 s key + n) % 2 ^ 64)

/-- A field [hi:lo] that counts and saturates. -/
def incSat (s : State) (key hi lo n : Nat) : State := wf s key hi lo (satAdd (hi + 1 - lo) (rf s key hi lo) n)

/-! ### Clock islands -/

/-- Island numbers: valleys 0 to 1,199, then die stewards, base dies, the I/O die, Headland (R23). -/
def islSteward (d : Nat) : Nat := 2000 + d
def islBase (h : Nat) : Nat := 2100 + h
def islIo : Nat := 2200
def islHeadland : Nat := 2300

/-- The island whose counter a page reports (R414). -/
def islandOf (p : Page) : Nat :=
  match p.kind with
  | .valley => p.inst
  | .steward | .seq => islSteward p.inst
  | .passEnd => islSteward (p.inst / 4)
  | .hbmCtl | .hbmReg | .berm | .flood | .ebb => islBase p.inst
  | .identity | .grade | .headland | .power => islHeadland
  | _ => islIo

/-- An island that has counted from 0 since the domain it belongs to left reset. -/
def clkStart (s : State) (i : Nat) : Clk := .running (if i = islHeadland then s.hl.clkBase else s.clkBase) 0

/-- Cycles that the clock of island `i` has counted in `n` idle steps from the `b`-th on (R23): each island has a clock of its own,
in no defined relation to any other. -/
def ticksFrom (i b : Nat) : Nat → Nat
  | 0 => 0
  | n + 1 => ticksFrom i b n + Config.clockRate i (b + n)

/-- The counter of an island (R23): a halted island keeps its count (R36). -/
def clkOf (s : State) (i : Nat) : Clk := tget (clkStart s i) s.clks i

def islTime (s : State) (i : Nat) : Nat :=
  match clkOf s i with
  | .running b c => (c + ticksFrom i b (s.cycles - b)) % 2 ^ 64
  | .halted c => c

def setClk (s : State) (i : Nat) (c : Clk) : State := { s with clks := tput (clkStart s i) s.clks i c }

/-- The island leaves reset: its counter starts at 0 (R23). -/
def restartClk (s : State) (i : Nat) : State := setClk s i (.running s.cycles 0)

/-- The island's clock stops in the slack hold, and runs on from its count (R36, R392, R393). -/
def haltClk (s : State) (i : Nat) : State := setClk s i (.halted (islTime s i))

def resumeClk (s : State) (i : Nat) : State := setClk s i (.running s.cycles (islTime s i))

/-- LOCAL_TIME of a page (R414). -/
def localTime (s : State) (pg : Nat) : Nat :=
  match pageOf pg with
  | some p => islTime s (islandOf p)
  | none => 0

/-! ### The event log and the alert -/

/-- The level of HL_ALERT_N: low while any of HDL_ALERT_CTRL bits [19:16] is 1, high or floating otherwise (R401, R402). -/
def alertN (s : State) : Bool := decide (rf s (pgHeadland + 0x88) 19 16 = 0)

/-- Set one of HDL_ALERT_CTRL bits [19:16]; HL_ALERT_N asserts where none was set, with an in-band interrupt on an addressed and
enabled I3C target (R354, R357). -/
def alertSet (s : State) (b : Nat) : State :=
  let was := alertN s
  let s := wf s (pgHeadland + 0x88) b b 1
  if was && s.hl.i3cAddr.isSome && s.hl.i3cEvents % 2 = 1 then
    { s with out := s.out ++ [.ibi (rf s (pgHeadland + 0x88) 19 16)] } else s

/-- Append an entry to Headland's event log of 4,096 entries; a full log drops its oldest entry and counts it in LOST (R367). -/
def logEntry (s : State) (code index source info value : Nat) : State :=
  let e : LogEntry := { seq := (s.hl.logSeq + 1) % 2 ^ 32, code := code, index := index, time := islTime s islHeadland,
                        source := source, info := info, value := value }
  let l := s.hl.log ++ [e]
  { s with hl := { s.hl with log := if l.length > 4096 then l.drop 1 else l, logSeq := (s.hl.logSeq + 1) % 2 ^ 32,
                             logLost := if l.length > 4096 then s.hl.logLost + 1 else s.hl.logLost } }

/-- The alert bit a log entry sets: ERR for an error while ON_ERR is 1, SUPPLY_THERMAL always, EVT for every other entry while
ON_EVT is 1 (R357; log 20). -/
def logAlert (s : State) (code : Nat) : State :=
  if code = 0x0001 then (if rb s (pgHeadland + 0x88) 0 then alertSet s 16 else s)
  else if code = 0x0060 then alertSet s 18
  else if rb s (pgHeadland + 0x88) 1 then alertSet s 17 else s

/-- PAGE_ID of the page at `pg` (R28, R44). -/
def pageId (pg : Nat) : Nat :=
  match pageOf pg with
  | some p => p.kind.code * 0x10000 + p.inst
  | none => 0

/-- Log an entry of R368 and set its alert. -/
def logAdd (s : State) (code index source info value : Nat) : State :=
  logAlert (logEntry s code index source info value) code

/-- An event of kind `k` of R313, counted for the checkpoint interval (R310). -/
def ckptEvent (s : State) (k : Nat) : State :=
  { s with hl := { s.hl with ckptNow := listSet s.hl.ckptNow k (s.hl.ckptNow.getD k 0 + 1) } }

/-! ### Errors and events -/

/-- Capture ERR_FIRST while its VALID is 0 (R33). -/
def captureFirst (s : State) (pg b : Nat) : State :=
  if rb s (pg + 0x1C) 7 then s
  else wr s (pg + 0x1C) ((localTime s pg / 2 ^ 16 % 2 ^ 24) * 256 + 128 + b)

/-- Count an occurrence of error bit `b` in ERR_COUNT, saturating (R34). -/
def countErr (s : State) (pg b : Nat) : State :=
  match b with
  | 0 => incSat s (pg + 0x20) 15 0 1
  | 1 => incSat s (pg + 0x20) 31 16 1
  | _ => incSat s (pg + 0x24) 15 0 1

/-- Error bit `b` of the page at `pg` (R32 to R34): recorded, captured, counted, and forwarded to the event log while its ERR_EN bit
is 1. -/
def errSet (s : State) (pg b : Nat) : State :=
  let s := countErr (captureFirst (wf s (pg + 0x14) b b 1) pg b) pg b
  if rb s (pg + 0x18) b then logAdd s 0x0001 0xFFFF (pageId pg) b (rd s (pg + 0x1C)) else s

/-- Event bit `b` of the page at `pg`: recorded, and written to the event log while its EVT_EN bit is 1. -/
def evtSet (s : State) (pg b : Nat) : State :=
  let s := wf s (pg + 0x28) b b 1
  if rb s (pg + 0x2C) b then logAdd s 0x0002 0xFFFF (pageId pg) b 0 else s

/-- BAD_WRITE of a page (R26). -/
def badWrite (s : State) (pg : Nat) : State := errSet s pg 2

/-! ### STATE -/

/-- STATE of the page at `pg` (R30). -/
def stateOf (s : State) (pg : Nat) : Nat := rf s (pg + 0xC) 3 0

/-- A change of STATE: TRANSITIONS counts it, PREV takes the old value, STATE_CHANGE is set (R30). -/
def setState (s : State) (pg st : Nat) : State :=
  let old := rd s (pg + 0xC)
  if old % 16 = st then s
  else evtSet (wr s (pg + 0xC) (satAdd 16 (old / 2 ^ 16) 1 * 2 ^ 16 + (old % 16) * 16 + st)) pg 0

/-- The module is in low-water mode: PWR_INPUT.SUPPLY reads 1 (R382). -/
def lowWater (s : State) : Bool := rf s (pgPwr + 0x80) 31 30 = 1

/-- Leave to ready or running by whether the block holds work, or to low water while the mode lasts (R383). -/
def idleState (s : State) (busy : Bool) : Nat := if lowWater s then 6 else if busy then 4 else 3

/-- Where the block stands in ready or running, STATE follows whether it holds work (R383). -/
def workState (s : State) (pg : Nat) (busy : Bool) : State :=
  if stateOf s pg = 3 && busy then setState s pg 4
  else if stateOf s pg = 4 && !busy then setState s pg 3 else s

/-- The page is there: fitted and not retired (CAPS.PRESENT). -/
def present (s : State) (pg : Nat) : Bool := decide (stateOf s pg ≠ 0) && decide (stateOf s pg ≠ 8)

/-- CTRL.ENABLE of a page (R31). -/
def enabled (s : State) (pg : Nat) : Bool := rb s (pg + 0x10) 0

/-- Known absent when a load is checked: PRESENT 0 or ENABLE 0 (R179). -/
def absentAtLoad (s : State) (pg : Nat) : Bool := !(present s pg && enabled s pg)

/-- Absent at dispatch: also faulted or sounding (R11, R182, R360). -/
def absentNow (s : State) (pg : Nat) : Bool := absentAtLoad s pg || stateOf s pg = 7 || stateOf s pg = 2

/-- Held: in the slack hold (STATE 5), or sounding from it. -/
def held (s : State) (pg : Nat) : Bool := stateOf s pg = 5

/-- The MODEL's bookkeeping of a block. -/
def blk (s : State) (pg : Nat) : Blk := tget {} s.blks pg

def setBlk (s : State) (pg : Nat) (b : Blk) : State := { s with blks := tput {} s.blks pg b }

/-- The block takes new work now: neither held nor entering the hold, in init or sounding (R358, R392). -/
def working (s : State) (pg : Nat) : Bool := !(held s pg) && !(blk s pg).entering && decide (stateOf s pg ≠ 1) && decide (stateOf s pg ≠ 2)

/-- A block's clock runs and it can carry on with work in flight: not held, not in init, sounding, faulted or retired. -/
def clocked (s : State) (pg : Nat) : Bool := stateOf s pg = 3 || stateOf s pg = 4 || stateOf s pg = 6

/-- Work in flight of one of the module's engines may go on only while the module is up. -/
def up (s : State) : Bool := s.hl.boot = .up && !s.devInit

/-- A command that is a write of a block's own register: while a device reset lasts the block is in init, and the write is dropped
with BAD_WRITE (R39). -/
def ownReach (s : State) (pg : Nat) (act : State → State) : State :=
  if up s then act s else if s.hl.boot = .up then badWrite s pg else s

/-- The same of a block that has an island reset or the slack hold of its own (R37 to R39). -/
def ownGuard (s : State) (pg : Nat) (act : State → State) : State :=
  ownReach s pg (fun s =>
    if !present s pg then s else if stateOf s pg = 1 || stateOf s pg = 5 then badWrite s pg else act s)

/-! ### Places in the module -/

/-- Global core ID of position `pos` (row * 16 + col) of valley `v` (R17, R18). -/
def coreAt (v pos : Nat) : Nat :=
  (v / 100) * 25600 + ((v % 100 / 10) * 16 + pos / 16) * 160 + (v % 10) * 16 + pos % 16

/-- Position within its valley of a global core ID (R17). -/
def posOf (core : Nat) : Nat := (core % 25600 / 160 % 16) * 16 + core % 160 % 16

/-- Global valley index of a global core ID (R17, R18). -/
def valleyOf (core : Nat) : Nat := (core / 25600) * 100 + (core % 25600 / 160 / 16) * 10 + core % 160 / 16

/-- VLY_CORE_MAP[n] of valley `v` (R19, R46): at manufacture index n stands at position n. -/
def mapEntry (s : State) (v n : Nat) : Nat :=
  if n < s.grade.enabled then tget (0x8000 + n) s.flash.coreMap (v * 256 + n) else 0

def setMapEntry (s : State) (v n e : Nat) : State :=
  { s with flash := { s.flash with coreMap := tput (0x8000 + n) s.flash.coreMap (v * 256 + n) e } }

/-- The working core behind logical index `n` of valley `v`, if its entry reads VALID 1. -/
def logical (s : State) (v n : Nat) : Option Nat :=
  if bitOf (mapEntry s v n) 15 then some (coreAt v (mapEntry s v n % 256)) else none

/-- Positions of valley `v` not behind any index and not retired: its spares, lowest (row, col) first (R19). -/
def spares (s : State) (v : Nat) : List Nat :=
  (List.range 256).filter (fun pos =>
    !(s.flash.coresRetired.contains (coreAt v pos)) &&
    !((List.range s.grade.enabled).any (fun n => mapEntry s v n % 256 = pos)))

/-- Valley index within a rectangle of a die: the valleys of a valley group (R164). -/
def groupValleys (die x0 x1 y0 y1 : Nat) : List Nat :=
  (List.range 100).filterMap (fun i =>
    if x0 ≤ i % 10 && i % 10 ≤ x1 && y0 ≤ i / 10 && i / 10 ≤ y1 then some (die * 100 + i) else none)

/-- The compute die a stack is attached to (R13). -/
def dieOfStack (h : Nat) : Nat := if h < 4 then h else h + 4

end Sys2Proof.Machine
end

