-- ==== Sys2Proof/Machine/Route.lean ====
section
/-! DEFINITION. Routes over the plain and the passes: coordinates, detours around holes, and the pass ends that payload bytes cross (R13,
R141, R149, R158, R197). -/

namespace Sys2Proof.Machine

/-- Global coordinates of a core's router (R141). -/
def gxOf (c : Nat) : Nat := c / 25600 % 4 * 160 + c % 160
def gyOf (c : Nat) : Nat := c / 25600 / 4 * 160 + c % 25600 / 160

/-- The router at global coordinates is a hole (R149). -/
def holeAt (s : State) (x y : Nat) : Bool := s.flash.holes.any (fun c => decide (gxOf c = x) && decide (gyOf c = y))

/-- The nearest gx that a stack's attached die covers. -/
def clampX (h gx : Nat) : Nat := let lo := dieOfStack h % 4 * 160; max lo (min gx (lo + 159))

/-- gy of the edge a stack is joined to (R13). -/
def edgeY (h : Nat) : Nat := if h < 4 then 0 else 479

/-- The places from `a` to `b` along an axis, `a` left out. -/
def steps (a b : Nat) : List Nat :=
  if a ≤ b then (List.range (b - a)).map (fun i => a + 1 + i) else (List.range (a - b)).map (fun i => a - 1 - i)

/-- The coordinate before `h` on the way from `a`, and the one after it. -/
def before (a h : Nat) : Nat := if a < h then h - 1 else h + 1
def after (a h : Nat) : Nat := if a < h then h + 1 else h - 1

/-- The line beside line `k` on which a packet passes a hole: one toward 0, or away from 0 on line 0 (R149). -/
def aside (k : Nat) : Nat := if k = 0 then 1 else k - 1

/-- Corners of a leg from `a` to `b` on line `k`, given the holes on it: each is passed on the line beside, where the leg may also end. -/
def leg (holes : List Nat) (a b k : Nat) : List (Nat × Nat) :=
  holes.flatMap (fun h =>
    [(before a h, k), (before a h, aside k)] ++ (if h = b then [(h, aside k)] else [(after a h, aside k), (after a h, k)])) ++
  (if holes.contains b then [] else [(b, k)])

/-- Corners of the route over the mesh, first along gx, then along gy (R141). -/
def corners (s : State) (x0 y0 x1 y1 : Nat) : List (Nat × Nat) :=
  let hx := if s.flash.holes.isEmpty then [] else (steps x0 x1).filter (fun x => holeAt s x y0)
  let a := leg hx x0 x1 y0
  let y := if hx.contains x1 then aside y0 else y0
  let hy := if s.flash.holes.isEmpty then [] else (steps y y1).filter (fun z => holeAt s x1 z)
  (x0, y0) :: a ++ (leg hy y y1 x1).map (fun p => (p.2, p.1))

/-- The pass ends a packet crosses in steps along an axis from `a` to `b` (in dies): whether it sends there. -/
def hops (a b : Nat) (index : Nat → Nat) (up' down : Nat) : List (Nat × Bool) :=
  if a ≤ b then (List.range (b - a)).flatMap (fun i => [(4 * index (a + i) + up', true), (4 * index (a + i + 1) + down, false)])
  else (List.range (a - b)).flatMap (fun i => [(4 * index (a - i) + down, true), (4 * index (a - i - 1) + up', false)])

/-- The pass ends between two corners on one line. -/
def sideEnds (p q : Nat × Nat) : List (Nat × Bool) :=
  hops (p.1 / 160) (q.1 / 160) (fun k => p.2 / 160 * 4 + k) 1 0 ++ hops (p.2 / 160) (q.2 / 160) (fun k => k * 4 + q.1 / 160) 3 2

/-- The pass ends along a list of corners. -/
def pathEnds : List (Nat × Nat) → List (Nat × Bool)
  | p :: q :: r => sideEnds p q ++ pathEnds (q :: r)
  | _ => []

def meshHops (s : State) (x0 y0 x1 y1 : Nat) : List (Nat × Bool) := pathEnds (corners s x0 y0 x1 y1)

/-- The pass end of a stack's attached die toward its base die, and of column 0 toward the I/O die. -/
def baseEnd (h : Nat) : Nat := 4 * dieOfStack h + (if h < 4 then 2 else 3)
def ioEnd (gy : Nat) : Nat := 4 * (gy / 160 * 4)

/-- The pass ends of a transfer (R141, R197): from a base die in the channel of the destination's gx, from the I/O die in that of its
gy, or the nearest. -/
def routeEnds (s : State) : Place → Place → List (Nat × Bool)
  | .core a, .core b => meshHops s (gxOf a) (gyOf a) (gxOf b) (gyOf b)
  | .base h, .core b => (baseEnd h, false) :: meshHops s (clampX h (gxOf b)) (edgeY h) (gxOf b) (gyOf b)
  | .core a, .base h => meshHops s (gxOf a) (gyOf a) (clampX h (gxOf a)) (edgeY h) ++ [(baseEnd h, true)]
  | .io, .core b => (ioEnd (gyOf b), false) :: meshHops s 0 (gyOf b) (gxOf b) (gyOf b)
  | .core a, .io => meshHops s (gxOf a) (gyOf a) 0 (gyOf a) ++ [(ioEnd (gyOf a), true)]
  | .io, .base h => (ioEnd (edgeY h), false) :: meshHops s 0 (edgeY h) (clampX h 0) (edgeY h) ++ [(baseEnd h, true)]
  | .base h, .io => (baseEnd h, false) :: meshHops s (clampX h 0) (edgeY h) 0 (edgeY h) ++ [(ioEnd (edgeY h), true)]
  | .base a, .base b =>
    if a = b then []
    else
      let x := clampX a (dieOfStack b % 4 * 160)
      (baseEnd a, false) :: meshHops s x (edgeY a) (clampX b x) (edgeY b) ++ [(baseEnd b, true)]
  | .io, .io => []

/-- Payload bytes from one source to its destinations: each pass end on the union of the routes carries them once (R140, R158). -/
def carry (s : State) (src : Place) (dst : List Place) (bytes : Nat) : State :=
  let ends := (dst.flatMap (routeEnds s src)).foldl (fun (l : List (Nat × Bool)) e => if l.contains e then l else l ++ [e]) []
  ends.foldl (fun s e => inc64 s (pgPass (e.1 / 4) (e.1 % 4) + (if e.2 then 0x88 else 0x90)) bytes) s

/-- Bytes between a unit and memory, to the memory where `out`; none: the unit's data does not come to it. -/
def carryMem (s : State) (unit : Option Place) (out : Bool) (mem : Place) (n : Nat) : State :=
  match unit with
  | none => s
  | some p => if out then carry s p [mem] n else carry s mem [p] n

/-- The place of the HBM at physical address `pa`. -/
def hbmPlace (pa : Nat) : Place := .base (pa / 2 ^ 36)

end Sys2Proof.Machine
end

