-- ==== Sys2Proof/Machine/Mem.lean ====
section
/-! DEFINITION. The memories: core SRAM with its code and poison (R133 to R137), HBM with its code, poison and charges (R234 to
R241), host memory; and translation of device virtual addresses (R322 to R325). -/

namespace Sys2Proof.Machine

/-- `n` bytes of a memory from `a`; an unlisted byte reads 0 (log 3). -/
def memGet (m : Memory) (a n : Nat) : List Byte := (List.range n).map (fun i => tget 0 m (a + i))

/-- Bytes stored from `a` on. -/
def memSet : Memory → Nat → List Byte → Memory
  | m, _, [] => m
  | m, a, b :: r => memSet (tput 0 m a b) (a + 1) r

/-- Number of a core's SRAM word in the module: 5,120 words a core (R133). -/
def sramWord (core w : Nat) : Nat := core * 5120 + w

/-- Bank of a word number of a core, and the word within the bank (R133). -/
def bankOf (w : Nat) : Nat := w % 8
def wordOf (w : Nat) : Nat := w / 8

/-- What a read of memory delivers: its bytes, and for each byte whether it came in a word or unit marked poisoned. -/
structure Got where
  s     : State
  bytes : List Byte
  bad   : List Bool

/-- The place of an error in the order of R157: uncorrectable ones first, then by bank, word and physical position. -/
def sramRank (sym : Option Nat) (bank word pos : Nat) : Nat := ((b2n sym.isSome * 8 + bank) * 1024 + word) * 256 + pos

/-- The same of the capture that VLY_SRAM_ERR holds. -/
def sramHeldRank (e : Nat) : Nat :=
  sramRank (if bitOf e 30 then none else some 0) (bitsOf e 26 24) (bitsOf e 9 0) (bitsOf e 23 16)

/-- Capture VLY_SRAM_ERR while its VALID is 0; among the errors of the capturing cycle the first in order stands (R157; log
205). -/
def captureSram (s : State) (core w : Nat) (scrub : Bool) (sym : Option Nat) : State :=
  let k := pgValley (valleyOf core) + 0xD04
  let first := decide (tget 0 s.capAt k = s.cycles + 1) &&
    decide (sramRank sym (bankOf w) (wordOf w) (posOf core) < sramHeldRank (rd s k))
  if rb s k 31 && !first then s
  else wr { s with capAt := tput 0 s.capAt k (s.cycles + 1) } k
    (2 ^ 31 + b2n sym.isNone * 2 ^ 30 + b2n scrub * 2 ^ 29 + bankOf w * 2 ^ 24 + posOf core * 2 ^ 16 + sym.getD 63 * 2 ^ 10 + wordOf w)

/-- An uncorrectable or poisoned word is read: UNCORR and the capture, and POISON_READ where the word is delivered; the read of a partial
write delivers it to nobody (R135, R137, R157; log 36). -/
def sramBad (s : State) (core w : Nat) (merge : Bool) : State :=
  let pg := pgValley (valleyOf core)
  let s := errSet (ckptEvent s 0) pg 1
  captureSram (if merge then s else errSet s pg 8) core w false none

/-- One 32-byte word read through its code: clean, corrected and written back, or delivered poisoned (R136, R137; log 21). `merge`: the
read of a partial write. -/
def sramRead (s : State) (core w : Nat) (merge : Bool := false) : Got :=
  let k := sramWord core w
  let raw := memGet s.sram (32 * k) 32
  if tget false s.sramPoison k then ⟨sramBad s core w merge, raw, List.replicate 32 true⟩
  else match tget [] s.sramUpset k with
    | [] => ⟨s, raw, List.replicate 32 false⟩
    | e =>
      let seen := xorBytes raw e
      match eccDecode 3 e with
      | .clean => ⟨s, seen, List.replicate 32 false⟩
      | .fixed pos val =>
        let good := if pos < 32 then listSet seen pos (seen.getD pos 0 ^^^ BitVec.ofNat 8 val) else seen
        let s := { s with sram := memSet s.sram (32 * k) good, sramUpset := tput [] s.sramUpset k [] }
        ⟨captureSram (errSet s (pgValley (valleyOf core)) 0) core w false (some pos), good, List.replicate 32 false⟩
      | .bad => ⟨sramBad s core w merge, seen, List.replicate 32 true⟩

/-- A whole word stored, with valid check bytes and the poison bit it carries (R135, R137). -/
def sramWrite (s : State) (core w : Nat) (bytes : List Byte) (poison : Bool) : State :=
  let k := sramWord core w
  { s with sram := memSet s.sram (32 * k) (slice bytes 0 32), sramUpset := tput [] s.sramUpset k [],
           sramPoison := tput false s.sramPoison k poison, bankAt := tput 0 s.bankAt k 0 }

/-- Bytes merged into one word: read, corrected, merged and written; dropped where the word is uncorrectable or poisoned (R135). Answers
whether it was stored. -/
def sramMerge (s : State) (core w off : Nat) (bytes : List Byte) (poison : Bool) : State × Bool :=
  let g := sramRead s core w true
  if g.bad.any id then (errSet g.s (pgValley (valleyOf core)) 9, false)
  else (sramWrite g.s core w (g.bytes.take off ++ bytes ++ g.bytes.drop (off + bytes.length)) poison, true)

/-- A word as it comes in after errors `e` picked up in transit: corrected, or as it reads and uncorrectable (R136). -/
def wordSeen (bytes e : List Byte) : List Byte × EccRes :=
  let seen := xorBytes bytes e
  match eccDecode 3 (slice e 0 35) with
  | .clean => (seen, .clean)
  | .fixed pos val =>
    (if pos < bytes.length then listSet seen pos (seen.getD pos 0 ^^^ BitVec.ofNat 8 val) else seen, .fixed pos val)
  | .bad => (seen, .bad)

/-- An error in transit is an error of the word (R136, R137): CORR or UNCORR of the valley, captured. The Bool: uncorrectable. -/
def transitNote (s : State) (core w : Nat) (r : EccRes) : State × Bool :=
  match r with
  | .clean => (s, false)
  | .fixed pos _ => (captureSram (errSet s (pgValley (valleyOf core)) 0) core w false (some pos), false)
  | .bad => (captureSram (errSet (ckptEvent s 0) (pgValley (valleyOf core)) 1) core w false none, true)

/-- Bytes from address `a` of a core's SRAM, word by word. -/
def sramLoad (s : State) (core a n : Nat) : Got :=
  let w0 := a / 32
  let w1 := (a + n + 31) / 32
  let g := (List.range (w1 - w0)).foldl (fun (g : Got) i =>
    let r := sramRead g.s core (w0 + i)
    ⟨r.s, g.bytes ++ r.bytes, g.bad ++ r.bad⟩) ⟨s, [], []⟩
  ⟨g.s, slice g.bytes (a % 32) n, (g.bad.drop (a % 32)).take n⟩

/-- Bytes stored at address `a` of a core's SRAM: whole words at once, others merged (R135). With them, how many bytes were stored. -/
def sramStore (s : State) (core a : Nat) (bytes : List Byte) (poison : Bool := false) : State × Nat :=
  let n := bytes.length
  let w0 := a / 32
  let w1 := (a + n + 31) / 32
  (List.range (w1 - w0)).foldl (fun (r : State × Nat) i =>
    let w := w0 + i
    let lo := max a (32 * w)
    let hi := min (a + n) (32 * w + 32)
    let part := slice bytes (lo - a) (hi - lo)
    if hi - lo = 32 then (sramWrite r.1 core w part poison, r.2 + 32)
    else
      let q := sramMerge r.1 core w (lo - 32 * w) part poison
      (q.1, r.2 + (if q.2 then hi - lo else 0))) (s, 0)

/-- Zero, with valid check bytes, in every word of a core's SRAM (R316, R358, R388). -/
def zeroCore (s : State) (core : Nat) : State :=
  let lo := core * 5120
  let keep := fun k => decide (k < lo) || decide (lo + 5120 ≤ k)
  { s with sram := tfilter (fun k => keep (k / 32)) s.sram, sramUpset := tfilter keep s.sramUpset,
           sramPoison := tfilter keep s.sramPoison, bankAt := tfilter keep s.bankAt }

/-- Every core of a valley zeroed. -/
def zeroValley (s : State) (v : Nat) : State :=
  let keep := fun k => decide (valleyOf (k / 5120) ≠ v)
  { s with sram := tfilter (fun k => keep (k / 32)) s.sram, sramUpset := tfilter keep s.sramUpset,
           sramPoison := tfilter keep s.sramPoison, bankAt := tfilter keep s.bankAt }

/-! ### HBM -/

/-- Bytes of one stack (R234). -/
def stackBytes : Nat := 22889 * 2 ^ 21

/-- A 39-bit physical address lies in a fitted stack's memory (R234). -/
def isHbm (g : Grade) (pa : Nat) : Bool :=
  decide (pa < 2 ^ 39) && decide (pa / 2 ^ 36 < g.stacks) && decide (pa % 2 ^ 36 < stackBytes)

/-- Charge the slot that moves one unit to its job (R238), or to the Narrows and its job (R239, R258); 64 bytes (log 22). -/
def hbmCharge (s : State) (stack : Nat) (who : HbmReq) : State :=
  let pg := pgReg stack
  let s := match who with | .narrows _ => inc64 s (pg + 0x80) 1 | .job _ => s
  let j := match who with | .narrows j => j | .job j => j
  if j < 64 then inc64 (inc64 s (pg + 0x200 + 8 * j) 1) (pg + 0x400 + 8 * j) 64 else s

/-- One idle cycle of the module at the regulators: every slot of a partition is one cycle of its base die's clock (R235), and in each of
them no request waits, on the 32 partitions of each fitted stack whose clock runs (R258; log 171). -/
def regIdle (s : State) : State :=
  if !up s then s
  else (List.range s.grade.stacks).foldl (fun s h =>
    if clocked s (pgHbm h) then inc64 s (pgReg h + 0x88) (32 * Config.clockRate (islBase h) s.cycles) else s) s

/-- A stack whose controller is in init or sounding serves no request: the step that needs it waits (R358, R365). -/
def stackTouch (s : State) (stack : Nat) : State :=
  let st := stateOf s (pgHbm stack)
  if st = 1 || st = 2 then { s with hostWait := true } else s

/-- Capture HBM_ERR_INFO and HBM_ERR_PA while VALID is 0; among the errors of the capturing cycle an uncorrectable one stands first, then
the one at the lowest address (R257; log 205). -/
def captureHbm (s : State) (unit src : Nat) (sym : Option Nat) : State :=
  let pg := pgHbm (unit / 2 ^ 30)
  let k := pg + 0x88
  let rank := fun (corr : Bool) (u : Nat) => b2n corr * 2 ^ 33 + u
  let first := decide (tget 0 s.capAt k = s.cycles + 1) &&
    decide (rank sym.isSome unit < rank (!rb s k 30) (rd64 s (pg + 0x90) / 64))
  if rb s k 31 && !first then s
  else wr64 (wr { s with capAt := tput 0 s.capAt k (s.cycles + 1) } k (2 ^ 31 + b2n sym.isNone * 2 ^ 30 + src * 2 ^ 28 + (unit / 64 % 32) * 2 ^ 23 + sym.getD 127 * 2 ^ 16))
         (pg + 0x90) (64 * unit)

/-- An uncorrectable or poisoned unit is read (R241). -/
def hbmBad (s : State) (unit src : Nat) : State :=
  let pg := pgHbm (unit / 2 ^ 30)
  captureHbm (errSet (errSet (ckptEvent s 1) pg 1) pg 8) unit src none

/-- One 64-byte unit (number pa / 64) read through its code (R240, R241). `src`: 0 demand, 1 patrol, 2 partial write. -/
def unitRead (s : State) (unit src : Nat) (who : Option HbmReq) : Got :=
  let s := stackTouch s (unit / 2 ^ 30)
  let s := match who with | some w => hbmCharge s (unit / 2 ^ 30) w | none => s
  let raw := memGet s.hbm (64 * unit) 64
  if tget false s.hbmPoison unit then ⟨hbmBad s unit src, raw, List.replicate 64 true⟩
  else match tget [] s.hbmUpset unit with
    | [] => ⟨s, raw, List.replicate 64 false⟩
    | e =>
      let seen := xorBytes raw e
      match eccDecode 4 e with
      | .clean => ⟨s, seen, List.replicate 64 false⟩
      | .fixed pos val =>
        let good := if pos < 64 then listSet seen pos (seen.getD pos 0 ^^^ BitVec.ofNat 8 val) else seen
        let s := { s with hbm := memSet s.hbm (64 * unit) good, hbmUpset := tput [] s.hbmUpset unit [] }
        ⟨captureHbm (errSet s (pgHbm (unit / 2 ^ 30)) 0) unit src (some pos), good, List.replicate 64 false⟩
      | .bad => ⟨hbmBad s unit src, seen, List.replicate 64 true⟩

/-- A whole unit stored: its poison bit is 0 again (R241). -/
def unitWrite (s : State) (unit : Nat) (bytes : List Byte) (who : Option HbmReq) (poison : Bool := false) : State :=
  let s := stackTouch s (unit / 2 ^ 30)
  let s := match who with | some w => hbmCharge s (unit / 2 ^ 30) w | none => s
  { s with hbm := memSet s.hbm (64 * unit) (slice bytes 0 64), hbmUpset := tput [] s.hbmUpset unit [],
           hbmPoison := tput false s.hbmPoison unit poison }

/-- Fewer than 64 bytes merged into a unit as one access, a read and a write (R236); a poisoned unit is left as it was. -/
def unitMerge (s : State) (unit off : Nat) (bytes : List Byte) (who : Option HbmReq) : State × Bool :=
  let g := unitRead s unit 2 who
  if g.bad.any id then (g.s, false)
  else (unitWrite g.s unit (g.bytes.take off ++ bytes ++ g.bytes.drop (off + bytes.length)) who, true)

/-- `n` bytes of HBM from physical address `pa`, unit by unit. -/
def hbmLoad (s : State) (pa n : Nat) (who : Option HbmReq) : Got :=
  let u0 := pa / 64
  let u1 := (pa + n + 63) / 64
  let g := (List.range (u1 - u0)).foldl (fun (g : Got) i =>
    let r := unitRead g.s (u0 + i) 0 who
    ⟨r.s, g.bytes ++ r.bytes, g.bad ++ r.bad⟩) ⟨s, [], []⟩
  ⟨g.s, slice g.bytes (pa % 64) n, (g.bad.drop (pa % 64)).take n⟩

/-- Bytes stored in HBM from `pa`: whole units at once, others merged (R236). With them, how many bytes were stored. -/
def hbmStore (s : State) (pa : Nat) (bytes : List Byte) (who : Option HbmReq) : State × Nat :=
  let n := bytes.length
  let u0 := pa / 64
  let u1 := (pa + n + 63) / 64
  (List.range (u1 - u0)).foldl (fun (r : State × Nat) i =>
    let u := u0 + i
    let lo := max pa (64 * u)
    let hi := min (pa + n) (64 * u + 64)
    let part := slice bytes (lo - pa) (hi - lo)
    if hi - lo = 64 then (unitWrite r.1 u part who, r.2 + 64)
    else
      let q := unitMerge r.1 u (lo - 64 * u) part who
      (q.1, r.2 + (if q.2 then hi - lo else 0))) (s, 0)

/-! ### Translation -/

/-- A translated address: in host memory or HBM. -/
structure Phys where
  host : Bool
  addr : Nat
  deriving DecidableEq, Repr

/-- What a walk answers: the address and whether its page may be written, or the CAUSE of R325. -/
inductive Walk where
  | at (p : Phys) (write : Bool)
  | fault (cause : Nat)
  deriving DecidableEq, Repr

/-- Who translates, for a fault's capture (R325, R330): 1 Flood, 2 Ebb, 3 Narrows; and the handle of the faulting command. -/
structure Req where
  job    : Nat
  unit   : Nat
  handle : Nat
  who    : HbmReq
  /-- Where the translating unit sits, to which the walk's reads come (R141, R322). -/
  walker : Place := .io
  /-- Where the unit that moves the data sits; none where the data does not come to it (R141, R197). -/
  data   : Option Place := some .io
  deriving DecidableEq, Repr

/-- PT_ROOT of a job (R323, R330). -/
def ptRoot (s : State) (job : Nat) : Nat := rd64 s (bk (pgJob + 0x88) job)

/-- One table entry read from HBM, charged to the job (R238, R322); or the CAUSE: 4 where its table lies outside fitted memory, 5 where its
unit is poisoned (R325). -/
def walkRead (s : State) (r : Req) (pa : Nat) : State × Except Nat Nat :=
  if !isHbm s.grade pa then (s, .error 4)
  else
    let g := hbmLoad (carryMem s (some r.walker) false (hbmPlace pa) 8) pa 8 (some (.job r.job))
    (g.s, if g.bad.any id then .error 5 else .ok (leNat g.bytes))

/-- Reserved bits of an entry (R324). -/
def entryReserved (e : Nat) : Bool := decide (bitsOf e 63 52 ≠ 0) || decide (bitsOf e 11 4 ≠ 0)

/-- A table pointer at L0 or L1: the next table's address, or the fault (R324, R325). -/
def pointer (s : State) (e : Nat) : Except Nat Nat :=
  if !bitOf e 0 then .error 1
  else if entryReserved e || bitOf e 1 || bitOf e 3 then .error 3
  else if !isHbm s.grade (bitsOf e 51 12 * 2 ^ 12) then .error 4
  else .ok (bitsOf e 51 12 * 2 ^ 12)

/-- A page entry of `size` bytes: the address of `va` in the page, or the fault (R324, R325). -/
def pageEntry (s : State) (e size va : Nat) (write : Bool) : Walk :=
  let base := bitsOf e 51 12 * 2 ^ 12
  let pa := base + va % size
  if !bitOf e 0 then .fault 1
  else if entryReserved e || !bitOf e 1 || decide (base % size ≠ 0) then .fault 3
  else if !bitOf e 3 && !isHbm s.grade pa then .fault 4
  else if write && !bitOf e 2 then .fault 2
  else .at ⟨bitOf e 3, pa⟩ (bitOf e 2)

/-- The three-level walk of R323. -/
def walk (s : State) (r : Req) (va : Nat) (write : Bool) : State × Walk :=
  match walkRead s r (ptRoot s r.job + 8 * bitsOf va 51 39) with
  | (s, .error c) => (s, .fault c)
  | (s, .ok e0) =>
    match pointer s e0 with
    | .error c => (s, .fault c)
    | .ok t1 =>
      match walkRead s r (t1 + 8 * bitsOf va 38 30) with
      | (s, .error c) => (s, .fault c)
      | (s, .ok e1) =>
        if bitOf e1 1 then (s, pageEntry s e1 (2 ^ 30) va write)
        else match pointer s e1 with
          | .error c => (s, .fault c)
          | .ok t2 =>
            match walkRead s r (t2 + 8 * bitsOf va 29 21) with
            | (s, .error c) => (s, .fault c)
            | (s, .ok e2) => (s, pageEntry s e2 (2 ^ 21) va write)

/-- The stack in whose base die a unit sits. -/
def placeStack : Place → Nat
  | .base h => h
  | _ => 0

/-- A unit's translation of a page. -/
def Xlat.for' (e : Xlat) (r : Req) (page : Nat) : Bool :=
  decide (e.unit = r.unit) && decide (e.stack = placeStack r.walker) && decide (e.job = r.job) && decide (e.page = page)

/-- A unit translates from what it holds, or walks and holds what it finds (R322, R326; log 136). -/
def xlate (s : State) (r : Req) (va : Nat) (write : Bool) : State × Walk :=
  match s.xlats.find? (fun e => e.for' r (va / 2 ^ 21)) with
  | some e => (s, if write && !e.write then .fault 2 else .at ⟨e.host, e.base + va % 2 ^ 21⟩ e.write)
  | none =>
    match walk s r va write with
    | (s, .at p w) =>
      ({ s with xlats := s.xlats ++ [⟨r.unit, placeStack r.walker, r.job, va / 2 ^ 21, p.host, p.addr - va % 2 ^ 21, w⟩] }, .at p w)
    | (s, .fault c) => (s, .fault c)

/-- A job's translations are gone from every unit (R326). -/
def xlatsDrop (s : State) (job : Nat) : State := { s with xlats := s.xlats.filter (fun e => decide (e.job ≠ job)) }

/-- A fault is captured in the job table page while VALID is 0, and XLATE_FAULT is set (R325, R330). -/
def captureXlate (s : State) (r : Req) (cause va : Nat) : State :=
  let s := errSet s pgJob 9
  let k := fun o => bk (pgJob + o) r.job
  if rb s (k 0xB0) 31 then s
  else wr64 (wr64 (wr s (k 0xB0) (2 ^ 31 + cause * 2 ^ 28 + r.unit * 2 ^ 24)) (k 0xB8) va) (k 0xC0) r.handle

/-- Translate, capturing a fault. -/
def translate (s : State) (r : Req) (va : Nat) (write : Bool) : State × Option Phys :=
  match xlate s r va write with
  | (s, .at p _) => (s, some p)
  | (s, .fault c) => (captureXlate s r c va, none)

/-- The parts of `n` bytes at `va` that lie in one 2 MiB page each: offset and length. -/
def pageParts (va n : Nat) : List (Nat × Nat) :=
  let p0 := va / 2 ^ 21
  (List.range ((va + n + (2 ^ 21 - 1)) / 2 ^ 21 - p0)).map (fun i =>
    let lo := max va ((p0 + i) * 2 ^ 21)
    let hi := min (va + n) ((p0 + i + 1) * 2 ^ 21)
    (lo - va, hi - lo))

/-- The function whose requester ID a job's host accesses carry (R321). -/
def hostFn (s : State) (who : HbmReq) : Nat :=
  let j := match who with | .narrows j => j | .job j => j
  if rb s (bk (pgJob + 0x84) j) 7 then j + 1 else 0

/-- A host-memory request of a function whose Bus Master Enable is 0 is held (R407). -/
def hostTouch (s : State) (who : HbmReq) : State :=
  if s.hl.busMaster.contains (hostFn s who) then s else { s with hostWait := true }

/-- The step `t` of a command that needs a held memory request waits: it has not happened yet, and the command is kept (R407; log 137). -/
def heldBack (c : Instr) (s t : State) : State := if t.hostWait then { s with heldCmds := s.heldCmds ++ [c] } else t

/-- Kept commands are tried again, in order; those that still cannot go are kept again (R407). -/
def retryHeld (run : Instr → State → Host.Outcome State Fault Refusal) (s : State) : State :=
  s.heldCmds.foldl (fun s c => match run c s with | .next t => t | _ => s) { s with heldCmds := [] }

/-- What an access through translation answers: the bytes read, poison by byte, and the faulting address. -/
structure VGot where
  s     : State
  bytes : List Byte
  bad   : List Bool
  fault : Option Nat

/-- The place of a physical address: its stack, or the I/O die, behind which the host's memory lies (R197). -/
def Phys.place (p : Phys) : Place := if p.host then .io else hbmPlace p.addr

/-- Bytes read at a physical address, for a unit that sits at `unit`. -/
def physLoad (s : State) (p : Phys) (n : Nat) (who : HbmReq) (unit : Option Place := some .io) : Got :=
  let s := carryMem s unit false p.place n
  if p.host then ⟨hostTouch s who, memGet s.host p.addr n, List.replicate n false⟩ else hbmLoad s p.addr n (some who)

def physStore (s : State) (p : Phys) (bytes : List Byte) (who : HbmReq) (unit : Option Place := some .io) : State × Nat :=
  let s := carryMem s unit true p.place bytes.length
  if p.host then (hostTouch { s with host := memSet s.host p.addr bytes } who, bytes.length) else hbmStore s p.addr bytes (some who)

/-- Read `n` bytes at a device virtual address. -/
def vread (s : State) (r : Req) (va n : Nat) : VGot :=
  (pageParts va n).foldl (fun (g : VGot) (part : Nat × Nat) =>
    if g.fault.isSome then g
    else match translate g.s r (va + part.1) false with
      | (s, none) => ⟨s, g.bytes, g.bad, some (va + part.1)⟩
      | (s, some p) =>
        let h := physLoad s p part.2 r.who r.data
        ⟨h.s, g.bytes ++ h.bytes, g.bad ++ h.bad, none⟩) ⟨s, [], [], none⟩

/-- What a write through translation answers: the faulting address, whether a poisoned unit dropped a part, whether a byte was stored. -/
structure VPut where
  s       : State
  fault   : Option Nat
  dropped : Bool
  stored  : Bool

/-- Write bytes at a device virtual address. -/
def vwrite (s : State) (r : Req) (va : Nat) (bytes : List Byte) : VPut :=
  (pageParts va bytes.length).foldl (fun (g : VPut) (part : Nat × Nat) =>
    if g.fault.isSome then g
    else match translate g.s r (va + part.1) true with
      | (s, none) => ⟨s, some (va + part.1), g.dropped, g.stored⟩
      | (s, some p) =>
        let q := physStore s p (slice bytes part.1 part.2) r.who r.data
        ⟨q.1, none, g.dropped || decide (q.2 < part.2), g.stored || decide (0 < q.2)⟩) ⟨s, none, false, false⟩

/-- 64-bit words of a string of bytes. -/
def words64 (l : List Byte) : List Word64 :=
  (List.range (l.length / 8)).map (fun i => BitVec.ofNat 64 (leNat (slice l (8 * i) 8)))

/-- Bytes of a string of 64-bit words. -/
def bytes64 (l : List Word64) : List Byte := l.flatMap (fun w => leBytes 8 w.toNat)

end Sys2Proof.Machine
end

