-- ==== Sys2Proof/Machine/Ops.lean ====
section
/-! DEFINITION. Operations every family shares: jobs and what they own (R314), handles (R166), tidemarks and signals (R221, R222),
strandline entries (R372, R373), completions and the pending store (R219, R220), and whether a block holds work (R383). -/

namespace Sys2Proof.Machine

/-! ### Jobs -/

def jobCtl (j : Nat) : Nat := bk (pgJob + 0x84) j

/-- STATE of a job (R330): 0 free, 1 active, 2 resetting, 3 destroying. -/
def jobState (s : State) (j : Nat) : Nat := rf s (jobCtl j) 2 0

/-- VF_EN of a job. -/
def vfEn (s : State) (j : Nat) : Bool := rb s (jobCtl j) 7

/-- A range register of a job: FIRST and COUNT (R330). `o` is 0x90 queues, 0x94 tidemarks, 0x98 rings, 0x9C streams. -/
def inRange (s : State) (j o n : Nat) : Bool :=
  let k := bk (pgJob + o) j
  decide (rf s k 13 0 ≤ n) && decide (n < rf s k 13 0 + rf s k 30 16) && decide (jobState s j ≠ 0)

def ownsQueue (s : State) (j n : Nat) : Bool := inRange s j 0x90 n
def ownsTm (s : State) (j n : Nat) : Bool := inRange s j 0x94 n
def ownsRing (s : State) (j n : Nat) : Bool := inRange s j 0x98 n
def ownsStream (s : State) (j n : Nat) : Bool := inRange s j 0x9C n

/-- The owner of a valley (R315, R330): job + 1, or 0. -/
def ownsValley (s : State) (j v : Nat) : Bool := tget 0 s.owners v = j + 1

/-- The job that owns an index of a range, if any. -/
def ownerOf (s : State) (o n : Nat) : Option Nat := (List.range 64).find? (fun j => inRange s j o n)

/-! ### Queues, rings, handles -/

def getQ (s : State) (q : Nat) : Queue := tget {} s.queues q
def setQ (s : State) (q : Nat) (x : Queue) : State := { s with queues := tput {} s.queues q x }
def getRing (s : State) (r : Nat) : Ring := tget {} s.rings r
def setRing (s : State) (r : Nat) (x : Ring) : State := { s with rings := tput {} s.rings r x }

/-- A SNAP pauses the queue's dispatch (R302). -/
def Queue.paused (x : Queue) : Bool := !x.pausedBy.isEmpty

/-- The SNAP `k` pauses the queue from the time `now` on. -/
def Queue.pause (x : Queue) (k : Nat × Nat) (now : Nat) : Queue :=
  if x.pausedBy.contains k then x
  else { x with pausedBy := x.pausedBy ++ [k], pausedAt := if x.paused then x.pausedAt else now }

/-- The head command of the queue waits (R214, R228, R407). -/
def Queue.waits (x : Queue) : Bool := decide (x.waitKind ≠ 0) || x.waitMem

/-- The head command waits no more. -/
def Queue.unwait (x : Queue) : Queue := { x with waitKind := 0, waitTm := 0, waitValue := 0, waitSince := 0, waitFloor := 0, waitMem := false }

/-- A dispatch that needs a held memory request waits, and its queue's watchdog counts the wait of the head command (R228, R407; log 137). -/
def headBack (c : Instr) (q : Nat) (s t : State) : State :=
  if t.hostWait then
    let x := getQ s q
    setQ { s with heldCmds := s.heldCmds ++ [c] } q
      { x with waitMem := true, waitKind := 0, waitTm := 0, waitValue := 0, waitSince := if x.waits then x.waitSince else islTime s islIo }
  else t

/-- The SNAP `k` pauses the queue no more. A wait goes on from where it stood when the first pause began (R302). -/
def Queue.unpause (x : Queue) (k : Nat × Nat) (now : Nat) : Queue :=
  let l := x.pausedBy.filter (· ≠ k)
  if x.paused && l.isEmpty then
    { x with pausedBy := [], waitSince := if x.waits then x.waitSince + (now - x.pausedAt) else x.waitSince }
  else { x with pausedBy := l }

/-- Handle of a command: queue index in [63:50], sequence number in [49:0] (R166). -/
def handleOf (q seq : Nat) : Nat := q * 2 ^ 50 + seq % 2 ^ 50

/-! ### Strandline entries -/

/-- Registers of a job's strandline record (R377). -/
def slReg (j o : Nat) : Nat := bk (pgJob + o) j
def slOn (s : State) (j : Nat) : Bool := rb s (slReg j 0x100) 31
def strand (s : State) (j : Nat) : Strand := tget {} s.strands j
def setStrand (s : State) (j : Nat) (x : Strand) : State := { s with strands := tput {} s.strands j x }

/-- Bytes of a ring for its entries: all but its header (R372). -/
def slCap (s : State) (j : Nat) : Nat := rf s (slReg j 0x110) 11 0 * 2 ^ 21 - 4096

/-- Length of an entry in 16-byte units. -/
def slUnits (body : List Byte) : Nat := cdiv (16 + body.length) 16

/-- A strandline entry: TYPE, length in 16-byte units, the CRC-32C of the entry with its CRC field 0, SEQ, then its contents padded
to 16 bytes (R372; log 24). -/
def slBytes (ty seq : Nat) (body : List Byte) : List Byte :=
  let units := slUnits body
  let body := body ++ List.replicate (16 * units - 16 - body.length) 0
  let head := fun (crc : Nat) => leBytes 8 (ty + units * 256 + crc * 2 ^ 32) ++ leBytes 8 seq
  head (crc32c (head 0 ++ body)) ++ body

/-- A PAD entry of `n` bytes. -/
def slPad (seq n : Nat) : List Byte := slBytes 0 seq (List.replicate (n - 16) 0)

/-- Append an entry to a job's staging buffer of 256 KiB, behind a PAD where the ring ends too soon for it, or drop and
count it when it does not fit (R372, R373). -/
def slAdd (s : State) (j ty : Nat) (body : List Byte) : State :=
  if !slOn s j then s
  else
    let x := strand s j
    let rest := slCap s j - (x.place + x.staged.length) % slCap s j
    let pad := if slUnits body * 16 > rest then slPad x.seq rest else []
    let n := if pad.isEmpty then x.seq else x.seq + 1
    let e := pad ++ slBytes ty n body
    if x.staged.length + e.length > 2 ^ 18 then
      let k := slReg j 0x128
      setStrand (wr64 s k (satAdd 64 (rd64 s k) 1)) j { x with dropped := x.dropped + 1, seq := x.seq + 1 }
    else setStrand s j { x with staged := x.staged ++ e, seq := n + 1 }

/-! ### Tidemarks -/

def tmGet (s : State) (n : Nat) : Nat := (tget 0 s.tms n).toNat

/-- A wake reaches the block: it is held, entering the hold, or sounding from it (R360, R393). -/
def wakeable (s : State) (pg : Nat) (b : Blk) : Bool := b.entering || held s pg || (b.scope.isSome && b.fromHold)

/-- A block that a tidemark wakes: HOLD_WAKE_TIDEMARK 1 and the tidemark has reached its value (R393). -/
def tmWakes (s : State) (n value : Nat) (pg : Nat) (b : Blk) : Bool :=
  wakeable s pg b && decide (b.wakeTm = n) && decide (b.wakeVal.toNat ≤ value) && rb s (pg + 0x10) 5

/-- A tidemark takes a value; wakes it causes are latched (R393). -/
def tmPut (s : State) (n value : Nat) : State :=
  let v := value % 2 ^ 64
  let s := { s with tms := tput 0 s.tms n (BitVec.ofNat 64 v) }
  { s with blks := s.blks.map (fun (e : Nat × Blk) => (e.1, if tmWakes s n v e.1 e.2 then { e.2 with wake := true } else e.2)) }

/-- One signal: set or add modulo 2^64, counted in TM_SIGNALS (R221). -/
def tmSignal (s : State) (n : Nat) (add : Bool) (value : Nat) : State :=
  inc64 (tmPut s n (if add then tmGet s n + value else value)) (pgTm + 0x90) 1

/-! ### Completions -/

/-- Records of a job in the pending store (R219). -/
def pendCount (s : State) (j : Nat) : Nat := (s.pends.filter (fun p => p.job = j)).length

/-- The record for a command of queue `q` under `handle`, stamped with the I/O die's LOCAL_TIME (R220). -/
def composeRec (s : State) (q handle : Nat) (r : CompRec) : List Word64 :=
  recWords handle (finishRec (getQ s q).tainted r) (islTime s islIo)

/-- Enter a record in the pending store; PENDING_FULL when the job's 64 places are then taken (R219). -/
def pendAdd (s : State) (p : Pend) : State :=
  let s := { s with pends := s.pends ++ [p] }
  if pendCount s p.job = 64 then errSet s pgQm 10 else s

/-- The record of a command that is not long (R166). -/
def report (s : State) (q seq ring : Nat) (r : CompRec) : State :=
  pendAdd s { job := (getQ s q).job.toNat, ring := ring, words := composeRec s q (handleOf q seq) r }

/-- Update the operation of a dispatched long command. -/
def opMod (s : State) (q seq : Nat) (f : Op → Op) : State :=
  { s with ops := s.ops.map (fun o => if o.queue = q && o.seq = seq then f o else o) }

def opFind (s : State) (q seq : Nat) : Option Op := s.ops.find? (fun o => o.queue = q && o.seq = seq)

/-- A long command whose engine has ended enters the pending store if its job has a free place; otherwise it keeps its completion at
its engine (R219). An ABSENT completion taints its queue (R182). -/
def opStore (s : State) (q seq : Nat) : State :=
  match opFind s q seq with
  | some o =>
    if o.phase = .ended && decide (pendCount s o.job < 64) then
      let s := opMod s q seq (fun o => { o with phase := .stored })
      pendAdd s { job := o.job, ring := o.ring, words := composeRec s q (handleOf q seq) o.comp, op := some (q, seq) }
    else s
  | none => s

/-- A long command of the queue is incomplete: at its engine still, or its completion kept there (R219). -/
def opOpen (o : Op) : Bool := o.phase = .running || o.phase = .ended

/-- A command was skipped or ended ABSENT: its queue is tainted (R182, R184), and so is the CALL_CHART it was replayed for (R177). -/
def taint (s : State) (q : Nat) (parent : Option Nat) : State :=
  let s := setQ s q { getQ s q with tainted := true }
  match parent with
  | some p => opMod s q p (fun o => { o with comp := { o.comp with flags := flOr o.comp.flags flTaint } })
  | none => s

/-! ### Work in a block (R383) -/

def getV (s : State) (v : Nat) : Valley := tget {} s.valleys v
def setV (s : State) (v : Nat) (x : Valley) : State := { s with valleys := tput {} s.valleys v x }
def getCore (s : State) (c : Nat) : Core := tget {} s.cores c
def setCore (s : State) (c : Nat) (x : Core) : State := { s with cores := tput {} s.cores c x }

def Valley.slot (x : Valley) (l : Nat) : Slot := if l = 0 then x.slot0 else x.slot1
def Valley.setSlot (x : Valley) (l : Nat) (y : Slot) : Valley := if l = 0 then { x with slot0 := y } else { x with slot1 := y }

/-- ARMED, RUNNING or TAIL (R167, R383). -/
def SlotSt.busy : SlotSt → Bool
  | .armed | .running | .tail => true
  | _ => false

def valleyBusy (x : Valley) : Bool := x.slot0.st.busy || x.slot1.st.busy

/-- Key of a stream's record: engine and stream (R188). -/
def streamKey (e : Eng) (n : Nat) : Nat := ((match e.kind with | .flood => 0 | .ebb => 1) * 8 + e.stack) * 4096 + n
def getStream (s : State) (e : Eng) (n : Nat) : Stream := tget {} s.streams (streamKey e n)
def setStream (s : State) (e : Eng) (n : Nat) (x : Stream) : State := { s with streams := tput {} s.streams (streamKey e n) x }

/-- Whether the block of a page holds work (R383): commands it has taken and not completed, transfers in flight. An access of a memory
controller and a word's way over a pass are each whole within one step, so their blocks hold none between steps (log 219). -/
def holdsWork (s : State) (p : Page) : Bool :=
  match p.kind with
  | .valley => valleyBusy (getV s p.inst)
  | .steward => s.valleys.any (fun e => decide (e.1 / 100 = p.inst) && valleyBusy e.2)
  | .flood => s.streams.any (fun e => decide (e.1 / 4096 = p.inst) && !e.2.copies.isEmpty)
  | .ebb => s.streams.any (fun e => decide (e.1 / 4096 = 8 + p.inst) && !e.2.copies.isEmpty)
  | .berm => !(tget [] s.berms p.inst).isEmpty
  | .estuary => !s.ctxs.isEmpty || !s.estWait.isEmpty
  | .narrows => !s.lines.isEmpty
  | .tideway => s.rounds.any (fun e => match e.2 with | some r => !r.failed | none => false) || !s.snaps.isEmpty ||
    decide (rf s (pgTwy + 0xB8) 30 28 = 1)
  | .twyLink => !(tget {} s.links p.inst).unacked.isEmpty
  | .port => s.txFlows.any (fun f => f.port = p.inst && f.unacked.any (fun x => !x.sent))
  | .qm => s.queues.any (fun e => e.2.resetting) || s.ops.any (fun o => decide (o.opcode = 0x50) && decide (o.phase = .running))
  | .jobTable => !s.jobCmds.isEmpty || !s.releasing.isEmpty
  | _ => false

/-- STATE of a page follows the work it holds (R383). -/
def settle (s : State) (pg : Nat) : State :=
  match pageOf pg with
  | some p => workState s pg (holdsWork s p)
  | none => s

/-! ### The end of a long command -/

/-- A CALL_CHART has nothing left to wait for: its replay dispatches nothing more, every long command of the replay is complete and
every signal of the replay performed (R177). -/
def chartOver (s : State) (o : Op) : Bool :=
  let x := getQ s o.queue
  (match x.replay with | some r => decide (r.seq ≠ o.seq) | none => true) &&
  !(s.ops.any (fun p => p.queue = o.queue && p.parent = some o.seq && opOpen p)) &&
  !(x.sigs.any (fun g => g.parent = some o.seq))

/-- Complete the CALL_CHARTs of a queue that are over. -/
def chartSettle (s : State) (q : Nat) : State :=
  (s.ops.filter (fun o => o.queue = q && decide (o.opcode = 0x50) && decide (o.phase = .running))).foldl (fun s o =>
    if chartOver s o then
      settle (opStore (opMod s q o.seq (fun o => { o with phase := .ended, endNo := 1 + (s.ops.map (·.endNo)).foldl max 0 })) q o.seq) pgQm
    else s) s

/-- A long command ends with a record (R165, R219). -/
def opEnd (s : State) (q seq : Nat) (r : CompRec) : State :=
  match opFind s q seq with
  | some o =>
    if o.phase = .running then
      let s := opMod s q seq (fun o => { o with phase := .ended, comp := r, endNo := 1 + (s.ops.map (·.endNo)).foldl max 0 })
      let s := if r.status = stAbsent || r.status = stSkipped then taint s q o.parent else s
      chartSettle (opStore s q seq) q
    else s
  | none => s

/-- The command has ended and its completion is kept at its engine, which it goes on holding (R219). -/
def opKept (s : State) (q seq : Nat) : Bool := (opFind s q seq).any (fun o => decide (o.phase = .ended))

/-- Whether the named long command is running at its engine. -/
def opRunning (s : State) (q seq : Nat) : Bool :=
  match opFind s q seq with
  | some o => o.phase = .running
  | none => false

/-! ### What ended work frees -/

/-- A COPY of the stream has ended and waits for a place for its record: it holds the stream (R219). -/
def streamKept (s : State) (x : Stream) : Bool := x.copies.any (fun c => opKept s c.queue c.seq)

/-- A bucket context in DONE is free once its record is written and its signal performed (R287). -/
def ctxOver (s : State) (x : Ctx) : Bool :=
  decide (x.st = .done) && !(s.ops.any (fun o => o.queue = x.queue && o.seq = x.seq)) &&
  !((getQ s x.queue).sigs.any (fun g => g.seq = x.seq))

/-- Free the bucket contexts that are over (R287). -/
def ctxFree (s : State) : State :=
  if s.ctxs.any (fun e => ctxOver s e.2) then settle { s with ctxs := s.ctxs.filter (fun e => !ctxOver s e.2) } pgEst else s

/-- Every port follows the work it holds. -/
def portsSettle (s : State) : State := (List.range 16).foldl (fun s p => settle s (pgPort p)) s

/-- The valleys of a list, and their dies' stewards, follow the work they hold. -/
def settleValleys (s : State) (vs : List Nat) : State :=
  let s := vs.foldl (fun s v => settle s (pgValley v)) s
  (List.range 12).foldl (fun s d => if vs.any (fun v => v / 100 = d) then settle s (pgSteward d) else s) s

end Sys2Proof.Machine
end

