-- ==== Sys2Proof/Machine/Escalation.lean ====
section
/-! DEFINITION. The escalation table (R69, R72 to R78): reports, changes of state, the state a step reads, READ and COMMIT. -/

namespace Sys2Proof.Machine

def escKey (job layer : Nat) : Nat := job * 4096 + layer
def getEsc (s : State) (job layer : Nat) : Esc := tget {} s.escs (escKey job layer)
def setEsc (s : State) (job layer : Nat) (e : Esc) : State := { s with escs := tput {} s.escs (escKey job layer) e }

/-- TRIPS: bits set among HISTORY bits 0 to WINDOW − 1 (R73). -/
def Esc.trips (e : Esc) : Nat := ((List.range e.window.toNat).filter (fun i => bit e.history i)).length

/-- The state that holds for a step, true for E4M3 (R73, R74). -/
def Esc.stateFor (e : Esc) (step : Nat) : Bool :=
  match (e.past.filter (fun p => decide (p.1 ≤ step))).getLast?, e.past with
  | some p, _ => p.2
  | none, _ :: _ => e.base
  | none, [] => e.toE4m3

/-- A change of state (R73, R75), in effect from the first step above both `step` and DISPATCH_STEP. -/
def Esc.change (e : Esc) (high : Bool) (step : Nat) : Esc :=
  let t := max step e.dispatchStep.toNat + 1
  { e with toE4m3 := high, history := 0, cleanCount := 0, shut := true, switches := BitVec.ofNat 16 (satAdd 16 e.switches.toNat 1),
           switchStep := BitVec.ofNat 32 t, past := e.past.filter (fun p => decide (p.1 < t)) ++ [(t, high)],
           base := if e.past.isEmpty then e.toE4m3 else e.base }

/-- QM_ESC_LAST, and ESCALATED or DEESCALATED, where the state has changed (R73, R78). -/
def escNote (s : State) (job layer : Nat) (old new : Esc) : State :=
  if old.switches = new.switches && old.toE4m3 = new.toE4m3 then s
  else evtSet (wr s (pgEsc + 0x8C) (job * 2 ^ 26 + b2n new.toE4m3 * 2 ^ 25 + 2 ^ 24 + layer)) pgEsc (if new.toE4m3 then 8 else 9)

/-- LAST_STEP moves on to `step`: the step it leaves is judged clean where it was reported, not tripped and not closed (R72, R73). -/
def Esc.advance (e : Esc) (step : Nat) : Esc :=
  let clean := e.rep && !e.shut && !bit e.history 0 && e.toE4m3
  { e with history := e.history <<< (step - e.lastStep.toNat), lastStep := BitVec.ofNat 32 step, rep := true, shut := false,
           cleanCount := if clean then BitVec.ofNat 16 (satAdd 16 e.cleanCount.toNat 1) else e.cleanCount }

/-- A report applied to bit `i` of HISTORY (R72, R73). -/
def Esc.mark (e : Esc) (i : Nat) (guard : Bool) (step : Nat) : Esc :=
  let e := if i = 0 then { e with rep := true } else e
  if guard then
    let rose := !bit e.history i
    let e := { e with history := setBit e.history i true, cleanCount := 0 }
    if rose && !e.toE4m3 && decide (e.pin = 0) && decide (e.tripLimit.toNat ≤ e.trips) then e.change true step else e
  else e

/-- The change back to PJ4, decided at the end of a report. DESIGN CHOICE (log 172): an entry whose CLEAN_COUNT already stands at or
above CLEAN_RUN when PIN returns to 0 or CLEAN_RUN is lowered changes at the end of the next report that is not ignored. -/
def Esc.settle (e : Esc) (step : Nat) : Esc :=
  if e.toE4m3 && decide (e.pin = 0) && decide (e.cleanRun.toNat ≤ e.cleanCount.toNat) && decide (e.cleanCount ≠ 0) then
    e.change false step else e

/-- One report (R72, R73); one older than the window is ignored. -/
def Esc.report (e : Esc) (step : Nat) (guard : Bool) : Esc :=
  let last := e.lastStep.toNat
  if last < step then ((e.advance step).mark 0 guard step).settle step
  else if last < step + e.window.toNat then (e.mark (last - step) guard step).settle step
  else e

/-- ESCALATION_REPORT: the queue manager takes the oldest waiting report (R72). -/
def doEscalationReport (s : State) : State :=
  match s.reports with
  | r :: rest =>
    if up s then
      let s := { s with reports := rest }
      let e := getEsc s r.job r.layer
      if e.enable then
        let n := e.report r.step r.guard
        escNote (setEsc s r.job r.layer n) r.job r.layer e n
      else s
    else s
  | [] => s

def execEscalationReport (s : State) : Host.Outcome State Fault Refusal := .next (doEscalationReport s)

/-- The judgement of R69 on a completion's sums: whether it makes a report, and whether GUARD is raised. DESIGN CHOICE (log 174): the
entry's ENABLE is taken at the completion, so a task whose entry is enabled while it runs is judged on the sums of its whole run. -/
def guardJudge (s : State) (job layer clip elems : Nat) : Option Bool :=
  let e := getEsc s job layer
  if e.enable && decide (elems ≠ 0) then some (decide (clip * 65536 > e.thresh.toNat * elems)) else none

/-- Queue the report of a completion (R69, R71, R72). -/
def addReport (s : State) (job layer step : Nat) (guard : Bool) : State :=
  { s with reports := s.reports ++ [⟨job, layer, step, guard⟩] }

/-- The dispatch of a task of a layer for a step (R74, R174): DISPATCH_STEP is the highest. -/
def escDispatch (s : State) (job layer step : Nat) : State :=
  let e := getEsc s job layer
  setEsc s job layer { e with dispatchStep := BitVec.ofNat 32 (max e.dispatchStep.toNat step) }

/-- The eight staging words of an entry (R77). -/
def Esc.words (e : Esc) : List Nat :=
  [b2n e.enable * 2 ^ 31 + e.pin.toNat * 2 ^ 29 + b2n e.toE4m3 * 2 ^ 28 + e.window.toNat * 2 ^ 16 + e.tripLimit.toNat * 2 ^ 8 + e.trips,
   e.cleanRun.toNat * 2 ^ 16 + e.thresh.toNat, e.lastStep.toNat, e.dispatchStep.toNat, e.switchStep.toNat,
   e.cleanCount.toNat * 2 ^ 16 + e.switches.toNat, e.history.toNat % 2 ^ 32, e.history.toNat / 2 ^ 32]

/-- The job and layer QM_ESC_INDEX names, and whether the job exists. -/
def escIndex (s : State) : Nat × Nat × Bool :=
  let j := rf s (pgEsc + 0x80) 21 16
  (j, rf s (pgEsc + 0x80) 11 0, decide (jobState s j ≠ 0))

/-- The eight staging words stored. -/
def escStage (s : State) (ws : List Nat) : State := (List.range 8).foldl (fun s k => wr s (pgEsc + 0xA0 + 4 * k) (ws.getD k 0)) s

/-- A READ or COMMIT for a job that does not exist: zeros in the staging words, and NO_JOB (R77). -/
def escNoJob (s : State) : State := errSet (escStage s (List.replicate 8 0)) pgEsc 9

/-- READ (R77). -/
def escRead (s : State) : State :=
  let (j, l, exists') := escIndex s
  let s := wf s (pgEsc + 0x88) 0 0 (b2n (!exists'))
  if exists' then escStage s (getEsc s j l).words else escNoJob s

def doRead (s : State) : State := ownReach s pgEsc escRead
def execRead (s : State) : Host.Outcome State Fault Refusal := .next (doRead s)

/-- The entry with the RW fields of the staging words. -/
def Esc.staged (e : Esc) (w0 w1 : Nat) : Esc :=
  { e with enable := bitOf w0 31, pin := BitVec.ofNat 2 (bitsOf w0 30 29), window := BitVec.ofNat 7 (bitsOf w0 22 16),
           tripLimit := BitVec.ofNat 7 (bitsOf w0 14 8), cleanRun := BitVec.ofNat 16 (bitsOf w1 31 16),
           thresh := BitVec.ofNat 16 (bitsOf w1 15 0) }

/-- A COMMIT that R77 refuses. -/
def Esc.refused (n : Esc) : Bool :=
  decide (n.pin = 3) ||
  (n.enable && (n.window = 0 || decide (64 < n.window.toNat) || n.tripLimit = 0 || decide (n.window.toNat < n.tripLimit.toNat) ||
                n.cleanRun = 0))

/-- COMMIT (R75, R77). DESIGN CHOICE (log 173): CLEAR_HISTORY also forgets that the step of LAST_STEP received a report or was closed. -/
def escCommit (s : State) (clearHistory : Bool) : State :=
  let (j, l, exists') := escIndex s
  let s := wf s (pgEsc + 0x88) 0 0 (b2n (!exists'))
  if !exists' then escNoJob (wf s (pgEsc + 0x88) 1 1 0)
  else
    let e := getEsc s j l
    let n := e.staged (rd s (pgEsc + 0xA0)) (rd s (pgEsc + 0xA4))
    if n.refused then errSet (wf s (pgEsc + 0x88) 1 1 1) pgEsc 8
    else
      let s := wf s (pgEsc + 0x88) 1 1 0
      let n := if (n.pin = 1 && n.toE4m3) || (n.pin = 2 && !n.toE4m3) then n.change (!n.toE4m3) n.lastStep.toNat else n
      let s := escNote s j l e n
      setEsc s j l (if clearHistory then { n with history := 0, cleanCount := 0, lastStep := 0, rep := false, shut := false } else n)

/-- COMMIT, with a READ after it where the same write asks for one (R77). -/
def doCommit (s : State) (clearHistory thenRead : Bool) : State :=
  ownReach s pgEsc (fun s => let s := escCommit s clearHistory; if thenRead then escRead s else s)
def execCommit (clearHistory thenRead : Bool) (s : State) : Host.Outcome State Fault Refusal := .next (doCommit s clearHistory thenRead)

end Sys2Proof.Machine
end

