-- ==== Sys2Proof/Machine/Operands.lean ====
section
/-! DEFINITION. The fields of a command record (R160, R163), parameter references (R161), targets (R164) and the grounds on which a
command is bad that can be read off its words (R179). -/

namespace Sys2Proof.Machine

/-- Word `i` of a record. -/
def wd (c : Rec) (i : Nat) : Nat := (c.getD i 0).toNat

/-- Bits [hi:lo] of word `i` of a record. -/
def wf' (c : Rec) (i hi lo : Nat) : Nat := bitsOf (wd c i) hi lo

/-! ### Word 0 (R160) -/

def cOp (c : Rec) : Nat := wf' c 0 7 0
def cReport (c : Rec) : Bool := bitOf (wd c 0) 8
def cSigEn (c : Rec) : Bool := bitOf (wd c 0) 9
def cSigAdd (c : Rec) : Bool := bitOf (wd c 0) 10
def cSigTm (c : Rec) : Nat := wf' c 0 28 16
def cRing (c : Rec) : Nat := wf' c 0 42 32
def cPsel (c : Rec) : Nat := wf' c 0 54 48

/-- Opcodes of R162. -/
def opNop : Nat := 0x00
def opCfgWrite : Nat := 0x01
def opPatch : Nat := 0x02
def opStart : Nat := 0x03
def opCopy : Nat := 0x10
def opSmall : Nat := 0x11
def opSignal : Nat := 0x20
def opWait : Nat := 0x21
def opFence : Nat := 0x22
def opReduce : Nat := 0x30
def opUpdate : Nat := 0x31
def opSnap : Nat := 0x32
def opHold : Nat := 0x40
def opRelease : Nat := 0x41
def opCallChart : Nat := 0x50
def opCancel : Nat := 0x51

def knownOp (o : Nat) : Bool :=
  [opNop, opCfgWrite, opPatch, opStart, opCopy, opSmall, opSignal, opWait, opFence, opReduce, opUpdate, opSnap, opHold, opRelease,
   opCallChart, opCancel].contains o

/-- Opcodes with long work (R162). -/
def isLong (o : Nat) : Bool :=
  [opStart, opCopy, opSmall, opReduce, opUpdate, opSnap, opHold, opCallChart].contains o

/-- Bits of word `i` (2 to 7) that the opcode's fields cover (R163). -/
def opMask (o i : Nat) : Nat :=
  let full := 2 ^ 64 - 1
  let addr := full
  let sel := 2 ^ 44 - 1
  let tbl : List Nat :=
    if o = opCfgWrite then [full, addr, 0xFFFFF, addr, sel, 0]
    else if o = opPatch then [full, 0xFFF, full, full, full, full]
    else if o = opStart then [full, 0, 0, 0, 0, 0]
    else if o = opCopy then [full, addr, 0x1FFFFFFF, addr, sel, 0]
    else if o = opSmall then [full, addr, 0x1F, full, full, full]
    else if o = opWait then [0x1FFF, full, 0, 0, 0, 0]
    else if o = opReduce then [full, addr, 2 ^ 61 - 1, full, addr, 0]
    else if o = opUpdate then [full, addr, 2 ^ 45 - 1, 2 ^ 32 - 1, addr, 0x3FFF]
    else if o = opSnap then [0xF3, addr, addr, 0, 0, 0]
    else if o = opHold then [full, 0x1FFF, full, 0, 0, 0]
    else if o = opRelease then [full, 0, 0, 0, 0, 0]
    else if o = opCallChart then [addr, addr, 0x1FFFF, 0, 0, 0]
    else if o = opCancel then [full, 0, 0, 0, 0, 0]
    else [0, 0, 0, 0, 0, 0]
  tbl.getD (i - 2) 0

/-! ### Targets (R164) -/

/-- An engine group. -/
inductive Target where
  | valleys (die x0 x1 y0 y1 lslot : Nat)
  | engine (e : Eng)
  | berm (stack : Nat)
  | narrows
  | estuary
  | steward (die : Nat)
  | tideway
  deriving DecidableEq, Repr

/-- Bits of a TARGET word that its KIND uses; every bit where the KIND is reserved. -/
def targetMask (t : Nat) : Nat :=
  match t % 16 with
  | 1 => 0x1FFFFFF
  | 2 | 3 | 4 | 7 => 0xFF
  | 5 | 6 | 8 => 0xF
  | _ => 2 ^ 64 - 1

/-- The engine group a TARGET word names; none where KIND is reserved or a field is out of range. -/
def targetOf (t : Nat) : Option Target :=
  let die := bitsOf t 7 4
  match t % 16 with
  | 1 =>
    let x0 := bitsOf t 11 8
    let x1 := bitsOf t 15 12
    let y0 := bitsOf t 19 16
    let y1 := bitsOf t 23 20
    if die ≤ 11 && x0 ≤ x1 && x1 ≤ 9 && y0 ≤ y1 && y1 ≤ 9 then some (.valleys die x0 x1 y0 y1 (bitsOf t 24 24)) else none
  | 2 => if die ≤ 7 then some (.engine ⟨.flood, die⟩) else none
  | 3 => if die ≤ 7 then some (.engine ⟨.ebb, die⟩) else none
  | 4 => if die ≤ 7 then some (.berm die) else none
  | 5 => some .narrows
  | 6 => some .estuary
  | 7 => if die ≤ 11 then some (.steward die) else none
  | 8 => some .tideway
  | _ => none

/-- Whether the opcode carries a TARGET in word 2. -/
def hasTarget (o : Nat) : Bool :=
  [opCfgWrite, opPatch, opStart, opCopy, opSmall, opReduce, opUpdate, opHold, opRelease].contains o

/-- Whether R164 allows the target for the opcode. -/
def targetOk (o : Nat) (t : Target) : Bool :=
  match t with
  | .valleys _ _ _ _ _ l => o = opCfgWrite || o = opPatch || o = opStart || ((o = opHold || o = opRelease) && l = 0)
  | .engine _ => o = opCopy || o = opHold || o = opRelease
  | .berm _ => o = opUpdate || o = opHold || o = opRelease
  | .narrows => o = opSmall
  | .estuary => o = opReduce
  | .steward _ | .tideway => o = opHold || o = opRelease

/-- The pages of the blocks of an engine group. -/
def targetPages : Target → List Nat
  | .valleys d x0 x1 y0 y1 _ => (groupValleys d x0 x1 y0 y1).map pgValley
  | .engine e => [pgEng e]
  | .berm h => [pgBerm h]
  | .narrows => [pgNar]
  | .estuary => [pgEst]
  | .steward d => [pgSteward d]
  | .tideway => [pgTwy]

/-- The valleys of a group, empty for another target. -/
def targetValleys : Target → List Nat
  | .valleys d x0 x1 y0 y1 _ => groupValleys d x0 x1 y0 y1
  | _ => []

def targetLslot : Target → Nat
  | .valleys _ _ _ _ _ l => l
  | _ => 0

/-- The target of a command, where R164 allows it. -/
def cTarget (c : Rec) : Option Target :=
  match targetOf (wd c 2) with
  | some t => if hasTarget (cOp c) && targetOk (cOp c) t then some t else none
  | none => none

/-- The valleys of a command's group, and its layer slot. -/
def cValleys (c : Rec) : List Nat := match cTarget c with | some t => targetValleys t | none => []
def cLslot (c : Rec) : Nat := match cTarget c with | some t => targetLslot t | none => 0

/-! ### Parameter references (R161) -/

/-- Word `i` with a parameter reference replaced: PARAM[p] plus the sign-extended addend, modulo 2^64. -/
def substWord (params : List Word64) (w : Word64) : Word64 :=
  let n := w.toNat
  let add := n / 256 + (if bitOf n 63 then 2 ^ 64 - 2 ^ 56 else 0)
  BitVec.ofNat 64 ((params.getD (n % 256) 0).toNat + add)

/-- A command of a chart with every referenced word substituted; its PSEL reads 0 afterwards. -/
def substRec (params : List Word64) (c : Rec) : Rec :=
  let p := cPsel c
  let go := fun (i : Nat) => if 1 ≤ i && bitOf p (i - 1) then substWord params (c.getD i 0) else c.getD i 0
  listSet ((List.range 8).map go) 0 (setFld (c.getD 0 0) 54 48 0)

/-! ### Grounds that the words alone show (R179) -/

/-- Address fields of an opcode: word, alignment (R163, R175, R176, R189, R249, R274, R276, R305). Second sources are judged whatever ESC
holds. -/
def addrFields (c : Rec) : List (Nat × Nat) :=
  let o := cOp c
  if o = opCfgWrite then [(3, 8), (5, 8)]
  else if o = opCopy then [(3, 64), (5, 64)]
  else if o = opSmall then [(3, 1)]
  else if o = opReduce then [(3, 4096), (6, 64)]
  else if o = opUpdate then [(3, 65536), (6, 64)]
  else if o = opSnap then [(3, 4096), (4, 64)]
  else if o = opCallChart then [(2, 64), (3, 64)]
  else []

/-- The data bytes of a SMALL: words 5 to 7 (R163). -/
def smallBytes (c : Rec) : List Byte := leBytes 8 (wd c 5) ++ leBytes 8 (wd c 6) ++ leBytes 8 (wd c 7)

/-- RESERVED_FIELD: a reserved bit of word 0, of an operand word or of TARGET is set (R160, R163). -/
def reservedField (c : Rec) : Bool :=
  let o := cOp c
  let w0 := wf' c 0 15 11 ≠ 0 || wf' c 0 31 29 ≠ 0 || wf' c 0 47 43 ≠ 0 || wf' c 0 63 55 ≠ 0
  let ops := (List.range 6).any (fun i => decide (wd c (i + 2) ≠ wd c (i + 2) &&& opMask o (i + 2)))
  let tgt := hasTarget o && decide (wd c 2 ≠ wd c 2 &&& targetMask (wd c 2))
  let pat := o = opPatch && (List.range 4).any (fun k => decide (wf' c 3 11 9 ≤ k) && decide (wd c (4 + k) ≠ 0))
  let sml := o = opSmall && ((smallBytes c).drop (wf' c 4 4 0)).any (fun b => decide (b ≠ 0))
  w0 || ops || tgt || pat || sml

/-- BAD_VALUE grounds that need no memory: ranges of R163, alignment, bits [63:52], a SMALL across a
64-byte boundary (R208), a SIGNAL with SIG_EN 0. -/
def badOperand (c : Rec) : Bool :=
  let o := cOp c
  let adr := (addrFields c).any (fun (f : Nat × Nat) => decide (2 ^ 52 ≤ wd c f.1) || decide (wd c f.1 % f.2 ≠ 0))
  let rng :=
    if o = opCfgWrite then
      let n := wf' c 4 18 9
      n = 0 || n > 512 || wf' c 4 8 0 + n > 512
    else if o = opPatch then
      let n := wf' c 3 11 9
      n = 0 || n > 4 || wf' c 3 8 0 + n > 512
    else if o = opCopy then wf' c 4 15 0 = 0
    else if o = opSmall then wf' c 4 4 0 = 0 || wf' c 4 4 0 > 24 || wd c 3 % 64 + wf' c 4 4 0 > 64
    else if o = opSignal then !cSigEn c
    else false
  adr || rng

/-- Tidemarks a command names (R221). -/
def namedTms (c : Rec) : List Nat :=
  let o := cOp c
  (if cSigEn c then [cSigTm c] else []) ++
  (if o = opWait then [wf' c 2 12 0]
   else if o = opReduce then [wf' c 4 60 48]
   else if o = opUpdate && bitOf (wd c 7) 13 then [wf' c 7 12 0]
   else if o = opHold then [wf' c 3 12 0]
   else [])

end Sys2Proof.Machine
end

