-- ==== Sys2Proof/Machine/Narrows.lean ====
section
/-! DEFINITION. The Narrows (R208 to R212): line buffers, the small reads of the control side, SMALL, and the strandline entries for data
from outside the module (R372). -/

namespace Sys2Proof.Machine

/-- A Narrows access for a job, under the handle of the command it serves (R210, R325). -/
def narReq (job handle : Nat) : Req := { job := job, unit := 3, handle := handle, who := .narrows job }

/-! ### Strandline entries for input data -/

/-- The commit value of a job: its commit tidemark, low 32 bits (R372, R377; EST_JOB_TM). -/
def commitVal (s : State) (j : Nat) : Nat := tmGet s (rf s (bk (pgEst + 0x8C) j) 12 0) % 2 ^ 32

/-- INPUT_SUM, and with DATA_EN 1 and the commit value within SL_WINDOW the bytes in INPUT_DATA entries of up to 64 KiB (R372). -/
def slInput (s : State) (j handle desc : Nat) (bytes : List Byte) : State :=
  let head := leBytes 8 handle ++ leBytes 4 desc ++ leBytes 8 bytes.length ++ leBytes 4 (crc32c bytes) ++ leBytes 8 0
  let s := slAdd s j 4 head
  let v := commitVal s j
  let win := rd64 s (slReg j 0x118)
  if rb s (slReg j 0x100) 30 && decide (win % 2 ^ 32 ≤ v) && decide (v ≤ win / 2 ^ 32) then
    (List.range (cdiv bytes.length 65536)).foldl (fun s k =>
      slAdd s j 5 (head ++ (bytes.drop (65536 * k)).take 65536)) s
  else s

/-! ### Line buffers (R209) -/

/-- Bytes of a line merged into memory as one access (R209, R236). The Bool: they were stored. -/
def lineStore (s : State) (b : LineBuf) (job : Nat) : State × Bool :=
  if b.host then (hostTouch { s with host := b.bytes.foldl (fun m (e : Nat × Byte) => tput 0 m (64 * b.line + e.1) e.2) s.host } (.narrows job), true)
  else
    let s := carryMem s (some .io) true (hbmPlace (64 * b.line)) b.bytes.length
    let old := if b.bytes.length = 64 then ⟨s, List.replicate 64 0, []⟩ else unitRead s b.line 2 (some (.narrows job))
    if old.bad.any id then (old.s, false)
    else (unitWrite old.s b.line (b.bytes.foldl (fun l (e : Nat × Byte) => listSet l e.1 e.2) old.bytes) (some (.narrows job)), true)

/-- A line buffer is written to memory, and the SMALLs whose bytes it held complete (R208, R209). -/
def lineWrite (s : State) (b : LineBuf) : State :=
  let job := match b.smalls with
    | (q, n) :: _ => (match opFind s q n with | some o => o.job | none => 0)
    | [] => 0
  let r := lineStore { s with lines := s.lines.filter (fun x => decide (x ≠ b)) } b job
  let s := inc64 r.1 (pgNar + 0x90) 1
  settle (b.smalls.foldl (fun s (o : Nat × Nat) =>
    opEnd s o.1 o.2 { status := if r.2 then stOk else stEcc }) s) pgNar

/-- Buffers holding a byte of a physical range are written before a Narrows read of it is served (R209). -/
def lineFlush (s : State) (p : Phys) (n : Nat) : State :=
  (s.lines.filter (fun b => (b.host == p.host) && b.bytes.any (fun e =>
    decide (p.addr ≤ 64 * b.line + e.1) && decide (64 * b.line + e.1 < p.addr + n)))).foldl lineWrite s

/-- A read by the Narrows at a device virtual address of a job. -/
def nread (s : State) (job handle va n : Nat) : VGot :=
  let r := narReq job handle
  (pageParts va n).foldl (fun (g : VGot) (part : Nat × Nat) =>
    if g.fault.isSome then g
    else match translate g.s r (va + part.1) false with
      | (s, none) => ⟨s, g.bytes, g.bad, some (va + part.1)⟩
      | (s, some p) =>
        let h := physLoad (lineFlush s p part.2) p part.2 r.who
        ⟨h.s, g.bytes ++ h.bytes, g.bad ++ h.bad, none⟩) ⟨s, [], [], none⟩

/-- The record of a read that could not be made: ABORTED_FAULT with FAULT_KIND 1 and FAULT_VA, or ABORTED_ECC; none where it was made
whole. -/
def VGot.failed (g : VGot) : Option CompRec :=
  match g.fault with
  | some va => some { status := stFault, faultKind := 1, detail := va }
  | none => if g.bad.any id then some { status := stEcc } else none

/-- A SMALL accepted by the Narrows: its bytes join the buffer of its line or open one (R208, R209). DESIGN CHOICE (log 193): where all 64
are in use, the one opened first is written. -/
def smallAccept (s : State) (q seq : Nat) (p : Phys) (bytes : List Byte) : State :=
  let s := inc64 s (pgNar + 0x88) 1
  let line := p.addr / 64
  let lay := fun (t : Tbl Byte) =>
    ((List.range bytes.length).foldl (fun t i => tins (p.addr % 64 + i) (bytes.getD i 0) t) t)
  let mine := fun (b : LineBuf) => (b.host == p.host) && decide (b.line = line)
  let s :=
    if s.lines.any mine then
      { s with lines := s.lines.map (fun b => if mine b then { b with bytes := lay b.bytes, smalls := b.smalls ++ [(q, seq)] } else b) }
    else
      let s := if s.lines.length < 64 then s else match s.lines with | b :: _ => lineWrite s b | [] => s
      { s with lines := s.lines ++ [⟨p.host, line, lay [], [(q, seq)]⟩] }
  let s := settle s pgNar
  if rf s (pgNar + 0x80) 7 0 = 0 then (match s.lines.find? mine with | some b => lineWrite s b | none => s) else s

/-- SMALL at the Narrows (R208): one whose DEST fails translation writes nothing. -/
def smallRun (s : State) (q seq job : Nat) (c : Rec) : State :=
  let n := wf' c 4 4 0
  let bytes := (smallBytes c).take n
  match translate s (narReq job (handleOf q seq)) (wd c 3) true with
  | (s, none) =>
    let s := errSet s pgNar 8
    let s := if rb s (pgNar + 0x9C) 31 then s else wr64 s (pgNar + 0x98) (2 ^ 63 + wd c 3)
    opEnd s q seq { status := stFault, faultKind := 1, detail := wd c 3 }
  | (s, some p) => smallAccept (slInput s job (handleOf q seq) 0 bytes) q seq p bytes

/-- LINE_BUFFER_WRITE: a line buffer is written to memory NAR_WINDOW after it opened, or when every buffer is in use (R209). -/
def doLineBufferWrite (s : State) (line : Nat) : State :=
  match s.lines[line]? with
  | some b => if up s then lineWrite s b else s
  | none => s

def execLineBufferWrite (line : Nat) (s : State) : Host.Outcome State Fault Refusal := .next (heldBack (.lineBufferWrite line) s (doLineBufferWrite s line))

end Sys2Proof.Machine
end

