-- ==== Sys2Proof/Machine/Header.lean ====
section
/-! DEFINITION. The header unit (R243 to R248): parameter block headers, the presence rule, and the operations of a version check, a
release, a claim and a commit. -/

namespace Sys2Proof.Machine

/-! ### Header word 0 (R244) -/

def hStamp (w : Nat) : Nat := bitsOf w 31 0
def hInUse (w : Nat) : Nat := bitsOf w 47 32
def hVer (w : Nat) : Nat := bitsOf w 48 48
def hOld (w : Nat) : Bool := bitOf w 49
def hSel (w : Nat) : Nat := bitsOf w 50 50
def hStash (w : Nat) : Bool := bitOf w 51

/-- HBM_EPOCH of a stack's controller. -/
def hbmEpoch (s : State) (stack : Nat) : Nat := rf s (pgHbm stack + 0xA0) 7 0

/-- BUSY as the header unit treats it: one set under another epoch is 0 (R245). -/
def hBusy (s : State) (stack w : Nat) : Bool := bitOf w 52 && decide (bitsOf w 63 56 = hbmEpoch s stack)

/-- Header word 0 with fields replaced. -/
def hSet (w hi lo v : Nat) : Nat := (setFld (BitVec.ofNat 64 w) hi lo v).toNat

/-- Version `step` − 1 is present (R247); stamps are compared modulo 2^32. -/
def hPresent (busy : Bool) (step w : Nat) : Bool :=
  let before := (step + 2 ^ 32 - 1) % 2 ^ 32
  if hStash w then decide (hStamp w = before) || (decide (hStamp w = step % 2 ^ 32) && hOld w && !busy)
  else decide (hStamp w = before) && !busy

/-- What a claim finds (R250). -/
inductive Claim where
  | claimed | busy | skip | mismatch | defer
  deriving DecidableEq, Repr

/-- The verdict of a claim of a block for `step`. -/
def hClaim (busy : Bool) (step w : Nat) : Claim :=
  if busy then .busy
  else if hStamp w = step % 2 ^ 32 then .skip
  else if hStamp w ≠ (step + 2 ^ 32 - 1) % 2 ^ 32 then .mismatch
  else if !hStash w && decide (hInUse w ≠ 0) then .defer
  else .claimed

/-- What a header operation answers: header word 0 as read, whether the version is present (or the block claimed), the verdict of a claim,
why it was not performed (FAULT_KIND 1 or 4; 0 where it was), and whether its unit is poisoned. -/
structure HdrRes where
  word0  : Nat := 0
  ok     : Bool := false
  claim  : Claim := .mismatch
  kind   : Nat := 0
  poison : Bool := false

/-- IN_USE of a header lowered by one; the Bool: it already stood at 0 (R248). -/
def hLower (w : Nat) : Nat × Bool := if hInUse w = 0 then (w, true) else (hSet w 47 32 (hInUse w - 1), false)

/-- Header words 0 and 1 after an operation, and whether IN_USE left its range. -/
def hApply (s : State) (stack w h1 : Nat) (op : HdrOp) : Nat × Nat × Bool :=
  let busy := hBusy s stack w
  match op with
  | .check step retain =>
    if retain && hPresent busy step w then
      (if hInUse w = 0xFFFF then (w, h1, true) else (hSet w 47 32 (hInUse w + 1), h1, false))
    else (w, h1, false)
  | .release _ dec => if dec then let r := hLower w; (r.1, h1, r.2) else (w, h1, false)
  | .claim step =>
    if hClaim busy step w = .claimed then (hSet (hSet w 52 52 1) 63 56 (hbmEpoch s stack), h1, false) else (w, h1, false)
  | .commit step handle =>
    let slot := if hStash w then 1 - hVer w else hVer w
    let w := hSet (hSet w 31 0 step) 48 48 slot
    (hSet (hSet (hSet w 49 49 (b2n (hStash w))) 50 50 (1 - hSel w)) 52 52 0, handle.toNat, false)

/-- One operation on the header at physical address `pa` of its stack: one read and one whole-unit write (R245). A poisoned header is
left as it is, and answers as a version that is not present. -/
def hdrDo (s : State) (pa : Nat) (who : Option HbmReq) (op : HdrOp) : State × HdrRes :=
  let stack := pa / 2 ^ 36
  let s := inc64 s (pgHbm stack + 0xA8) 1
  let g := unitRead s (pa / 64) 2 who
  if g.bad.any id then (g.s, { poison := true })
  else
    let w := leNat (g.bytes.take 8)
    let busy := hBusy g.s stack w
    let r := hApply g.s stack w (leNat ((g.bytes.drop 8).take 8)) op
    let s := unitWrite g.s (pa / 64) (leBytes 8 r.1 ++ leBytes 8 r.2.1 ++ List.replicate 48 0) who
    let s := if r.2.2 then errSet s (pgHbm stack) 9 else s
    let ok := match op with
      | .check step _ | .release step _ => hPresent busy step w
      | .claim step => decide (hClaim busy step w = .claimed)
      | .commit _ _ => true
    (s, { word0 := w, ok := ok, claim := match op with | .claim step => hClaim busy step w | _ => .mismatch })

/-- BUSY of a claimed block cleared without commit (R250). -/
def hdrStop (s : State) (pa : Nat) (who : Option HbmReq) : State :=
  let g := unitRead s (pa / 64) 2 who
  if g.bad.any id then g.s
  else unitWrite (inc64 g.s (pgHbm (pa / 2 ^ 36) + 0xA8) 1) (pa / 64)
    (leBytes 8 (hSet (leNat (g.bytes.take 8)) 52 52 0) ++ (g.bytes.drop 8).take 8 ++ List.replicate 48 0) who

/-- An operation on the block at a job's address. `stack`: the block must lie there (R245, R249); a block in host memory lies in no
stack. -/
def hdrAt (s : State) (job handle va : Nat) (stack : Option Nat) (op : HdrOp) : State × HdrRes :=
  match translate s (narReq job handle) va true with
  | (s, none) => (s, { kind := 1 })
  | (s, some p) =>
    let off := match stack with | some h => decide (p.addr / 2 ^ 36 ≠ h) | none => false
    if p.host || off then (s, { kind := 4 })
    else hdrDo s p.addr (some (.job job)) op

/-- HEADER_OP (R245): one operation of a stack's header unit, charged to the owner of the task or UPDATE that asks (R238); a header
outside the stack is not touched. -/
def doHeaderOp (s : State) (stack addr : Nat) (op : HdrReq) : State :=
  if !up s || !present s (pgHbm stack) then s
  else if decide (addr / 2 ^ 36 ≠ stack) || !isHbm s.grade addr || decide (addr % 64 ≠ 0) then
    { s with out := s.out ++ [.hdr 0 false] }
  else
    let r := hdrDo s addr (some (.job op.job)) op.op
    { r.1 with out := r.1.out ++ [.hdr r.2.word0 r.2.ok] }

def execHeaderOp (stack addr : Nat) (op : HdrReq) (s : State) : Host.Outcome State Fault Refusal :=
  .next (heldBack (.headerOp stack addr op) s (doHeaderOp s stack addr op))

/-! ### The blocks of a task (R247, R248) -/

/-- One operation for each of `n` blocks from `va` on: the state, and the blocks that failed, lowest first. -/
def verAll (job handle : Nat) (op : HdrOp) : Nat → Nat → Nat → State → State × List (Nat × Nat × HdrRes)
  | 0, _, _, s => (s, [])
  | n + 1, i, va, s =>
    let r := hdrAt s job handle va none op
    let t := verAll job handle op n (i + 1) (va + 0x10000) r.1
    (t.1, if r.2.ok then t.2 else (i, va, r.2) :: t.2)

/-- The record of a task whose block `i` at `va` failed: VERSION_GONE, or ABORTED_FAULT (R247). -/
def verRec (i va : Nat) (r : HdrRes) (atEnd : Bool) : CompRec :=
  if r.kind ≠ 0 then { status := stFault, faultKind := r.kind, detail := if r.kind = 1 then va else 0, partialOut := atEnd }
  else { status := stGone, faultRun := i, detail := r.word0, partialOut := atEnd }

/-- The version check of a START: the record of the lowest failing block, after the blocks it retained are released again. MODEL's choice
(log 215): where blocks fail in different ways, a version gone beside an address that cannot be translated, the lowest index decides. -/
def verCheck (s : State) (job handle first n step : Nat) (retain : Bool) : State × Option CompRec :=
  let r := verAll job handle (.check step retain) n 0 first s
  match r.2 with
  | [] => (r.1, none)
  | (i, va, h) :: _ =>
    let s := if !retain then r.1
      else (List.range n).foldl (fun s k =>
        if r.2.any (fun e => e.1 = k) then s
        else (hdrAt s job handle (first + 0x10000 * k) none (.release step true)).1) r.1
    (s, some (verRec i va h false))

/-- The check at a task's end; a task that does not retain releases its blocks (R248). -/
def verEnd (s : State) (job handle first n step : Nat) (retain : Bool) : State × Option CompRec :=
  let r := verAll job handle (.release step (!retain)) n 0 first s
  match r.2 with
  | [] => (r.1, none)
  | (i, va, h) :: _ => (r.1, some (verRec i va h true))

end Sys2Proof.Machine
end

