-- ==== Sys2Proof/Machine/Bar.lean ====
section
/-! DEFINITION. Which function may reach which record of BAR0 (R43, R321). -/

namespace Sys2Proof.Machine

/-- The virtual function of job `j` is exposed (R321). -/
def vfUp (s : State) (j : Nat) : Bool := vfEn s j && decide (jobState s j = 1) && decide (j + 1 ≤ s.hl.numVFs)

/-- A function reaches a record: the physical function always, a virtual function where its job owns it (R43). -/
def fnOk (s : State) (fn : Nat) (own : Nat → Bool) : Bool := up s && !s.hl.d3hot.contains fn && (fn = 0 || (vfUp s (fn - 1) && own (fn - 1)))

/-- A write from a virtual function to a location its job does not own is dropped and logged (R43). -/
def strayWrite (s : State) (fn addr : Nat) : State :=
  if up s && !s.hl.d3hot.contains fn && decide (fn ≠ 0) && vfUp s (fn - 1) then logAdd s 0x0011 0xFFFF (pageId pgHeadland) fn addr else s

/-- Do `act` where the function reaches the record; otherwise the write is stray. -/
def guarded (s : State) (fn addr : Nat) (own : Nat → Bool) (act : State → State) : State :=
  if fnOk s fn own then act s else strayWrite s fn addr

/-- Addresses of the record arrays (R41). -/
def tmAddr (n : Nat) : Nat := 0x10000 + 8 * n
def bellAddr (n : Nat) : Nat := 0x100000 + 0x40 * n
def qctxAddr (n : Nat) : Nat := 0x200000 + 0x40 * n
def rctxAddr (n : Nat) : Nat := 0x300000 + 0x20 * n

/-- Data a read delivers. -/
def say (s : State) (o : Out) : State := { s with out := s.out ++ [o] }

/-- A read answered: nothing answers while PCIe is down (R339); in D3hot it completes as Unsupported Request (R406). -/
def answer (s : State) (fn : Nat) (r : State × Nat) : State :=
  if s.hl.boot ≠ .up then s
  else if s.hl.d3hot.contains fn then say s .unsupported
  else say r.1 (.data r.2)

/-- An MSI-X message of a function; it waits for the function's Bus Master Enable (R218, R407). -/
def msg (s : State) (fn vector : Nat) : State :=
  if s.hl.busMaster.contains fn then say s (.msix fn vector) else { s with heldMsgs := s.heldMsgs ++ [(fn, vector)] }

end Sys2Proof.Machine
end

