-- ==== Sys2Proof/Machine/Image.lean ====
section
/-! DEFINITION. The configuration image of a layer slot (R170 to R173, R417): its fields, the range check of R178 and R181 with the word
it reports (R187), the absent indices it names, and the passes it lists. -/

namespace Sys2Proof.Machine

/-- An image: 512 words of 64 bits, an unwritten word reading 0. -/
abbrev Image := Tbl Word64

/-- Word `n` of an image. -/
def cw (m : Image) (n : Nat) : Nat := (tget 0 m n).toNat

/-- Bits [hi:lo] of word `n`. -/
def cf (m : Image) (n hi lo : Nat) : Nat := bitsOf (cw m n) hi lo

/-! ### Fields of the header (R170) -/

def iKind (m : Image) : Nat := cf m 0 3 0
def iSeedLoad (m : Image) : Bool := bitOf (cw m 0) 4
def iGuardEn (m : Image) : Bool := bitOf (cw m 0) 5
def iRetain (m : Image) : Bool := bitOf (cw m 0) 6
def iFmtA (m : Image) : Nat := cf m 0 11 8
def iFmtB (m : Image) : Nat := cf m 0 15 12
def iLayer (m : Image) : Nat := cf m 0 27 16
def iBiasSrc (m : Image) : Nat := cf m 4 2 0
def iSideFmt (m : Image) : Nat := cf m 4 5 3
def iAct (m : Image) : Nat := cf m 4 9 6
def iDeriv (m : Image) : Nat := cf m 4 13 10
def iMaskEmit (m : Image) : Nat := cf m 4 16 14
def iOutFmt (m : Image) : Nat := cf m 4 20 17
def iRound (m : Image) : Bool := bitOf (cw m 4) 21
def iDropEn (m : Image) : Bool := bitOf (cw m 4) 22
def iHandOff (m : Image) : Bool := bitOf (cw m 4) 23
def iPj4Valid (m : Image) : Nat := cf m 4 30 24
def iDropP (m : Image) : Nat := cf m 4 47 32
def iChains (m : Image) : Nat := cf m 4 53 48
def iEbbStack (m : Image) : Nat := cf m 7 2 0
def iEbbStream (m : Image) : Nat := cf m 7 15 4
def iStep (m : Image) : Nat := cf m 15 31 0
def iPbCount (m : Image) : Nat := cf m 15 63 32
def iPbFirst (m : Image) : Nat := cf m 14 51 0

/-- FP32 fields. -/
def iF32 (m : Image) (n hi : Nat) : Word32 := BitVec.ofNat 32 (cf m n (hi + 31) hi)

/-- A tensor's TBASE, NSEG, HBASE: words 8 A, 9 B, 10 OUT, and 21 for a row task's OUT. -/
structure Tensor where
  base : Nat
  nseg : Nat
  hdr  : Nat
  deriving DecidableEq, Repr

def iTensor (m : Image) (n : Nat) : Tensor := ⟨cf m n 17 0, cf m n 30 18, cf m n 48 31⟩

/-! ### Formats -/

/-- Format codes of R171. -/
def fBf16 : Nat := 0
def fF16 : Nat := 1
def fE4m3 : Nat := 2
def fE5m2 : Nat := 3
def fPj4 : Nat := 4
def fPj4i : Nat := 5
def fPj2 : Nat := 6
def fF32 : Nat := 7

def is16 (f : Nat) : Bool := f = fBf16 || f = fF16
def is8 (f : Nat) : Bool := f = fE4m3 || f = fE5m2
def isPajor (f : Nat) : Bool := f = fPj4 || f = fPj4i || f = fPj2

/-- The format an OUT_FMT code selects, as a code of R171 (R117). -/
def outFmt (o : Nat) : Nat := [fF32, fBf16, fF16, fE4m3, fE5m2, fPj4].getD o fF32

/-- The format a SIDE_FMT code selects (R110). -/
def sideFmt (o : Nat) : Nat := [fF32, fBf16, fF16].getD o fF32

/-- Elements per 32-byte segment (R89). -/
def segElems (f : Nat) : Nat :=
  if f = fF32 then 8 else if is16 f then 16 else if is8 f then 32 else if f = fPj2 then 128 else 64

/-- Bytes of an element that is not Pajor. -/
def elemBytes (f : Nat) : Nat := if f = fF32 then 4 else if is16 f then 2 else 1

/-- An operand pair as R81 lists it: rank, most steps, step multiple, exact block length. -/
structure Pair where
  rank  : Nat
  steps : Nat
  mult  : Nat
  blk   : Nat
  deriving DecidableEq, Repr

/-- The row of R81 for the wider operand first. -/
def pairRow (a b : Nat) : Option Pair :=
  if is16 a && is16 b then some ⟨1, 256, 1, 1⟩
  else if is16 a && (is8 b || b = fPj4 || b = fPj4i) then some ⟨2, 128, 1, 1⟩
  else if is8 a && is8 b then some ⟨2, 256, 16, 32⟩
  else if is8 a && (b = fPj4 || b = fPj4i) then some ⟨4, 128, 16, 64⟩
  else if (a = fPj4 && b = fPj4) || (a = fPj4i && b = fPj4i) then some ⟨4, 256, 16, 64⟩
  else if is8 a && b = fPj2 then some ⟨8, 64, 8, 64⟩
  else if a = fPj4 && b = fPj2 then some ⟨8, 128, 8, 64⟩
  else none

/-- The pair of formats on either side (R81). -/
def pairOf (a b : Nat) : Option Pair :=
  match pairRow a b with
  | some p => some p
  | none => pairRow b a

/-! ### Chain records (R172) -/

/-- One side of a chain record: origin, mode, source, step between chains. -/
structure Side where
  row    : Nat
  elem   : Nat
  across : Bool
  core   : Nat
  vx     : Nat
  vy     : Nat
  rrow   : Nat
  relem  : Nat
  deriving DecidableEq, Repr

structure Chain where
  word   : Nat
  len    : Nat
  tile   : Nat
  alt    : Bool
  opening : Nat
  drain  : Bool
  rmask  : Nat
  cmask  : Nat
  passes : Nat
  repeats : Nat
  a      : Side
  b      : Side
  outRow : Nat
  outElem : Nat
  outRRow : Nat
  outRElem : Nat
  first  : Nat
  last   : Nat
  deriving DecidableEq, Repr

def iSide (m : Image) (n : Nat) : Side :=
  ⟨cf m n 12 0, cf m n 32 13, bitOf (cw m n) 33, cf m n 47 40, cf m n 51 48, cf m n 55 52,
   cf m (n + 1) 12 0, cf m (n + 1) 32 13⟩

/-- Chain record `c`. -/
def iChain (m : Image) (c : Nat) : Chain :=
  let n := 16 + 8 * c
  { word := n, len := cf m n 8 0, tile := cf m n 9 9, alt := bitOf (cw m n) 10, opening := cf m n 12 11, drain := bitOf (cw m n) 13,
    rmask := cf m n 21 14, cmask := cf m n 29 22, passes := cf m n 41 30, repeats := cf m n 53 42,
    a := iSide m (n + 1), b := iSide m (n + 3), outRow := cf m (n + 5) 12 0, outElem := cf m (n + 5) 32 13,
    outRRow := cf m (n + 6) 12 0, outRElem := cf m (n + 6) 32 13, first := cf m (n + 7) 7 0, last := cf m (n + 7) 15 8 }

def chainList (m : Image) : List Chain := (List.range (min (iChains m) 60)).map (iChain m)

/-- The tile of chain `r` of a record. -/
def Chain.tileOf (c : Chain) (r : Nat) : Nat := if c.alt && r % 2 = 1 then 1 - c.tile else c.tile

/-- One pass of a task on a core (R172, R83). -/
structure Pass where
  chain : Chain
  /-- Which chain of the record, and which pass of the chain. -/
  r     : Nat
  p     : Nat
  deriving DecidableEq, Repr

/-- Opening flag: 0 FIRST, 1 CLEAR, 2 neither. -/
def Pass.opening (p : Pass) : Nat := if p.p = 0 then p.chain.opening else 2
def Pass.drains (p : Pass) : Bool := p.chain.drain && p.p + 1 = p.chain.passes
def Pass.tile (p : Pass) : Nat := p.chain.tileOf p.r

/-- Origin of a side's panel in pass `p`: stored row and element, moved L × k along the reduction for each earlier pass. -/
def Pass.origin (p : Pass) (s : Side) (rank : Nat) : Nat × Nat :=
  let adv := p.p * p.chain.len * rank
  (s.row + p.r * s.rrow + (if s.across then adv else 0), s.elem + p.r * s.relem + (if s.across then 0 else adv))

/-- Result position of a draining pass. -/
def Pass.result (p : Pass) : Nat × Nat :=
  (p.chain.outRow + p.r * p.chain.outRRow, p.chain.outElem + p.r * p.chain.outRElem)

/-- The records a core runs. -/
def coreChains (m : Image) (n : Nat) : List Chain := (chainList m).filter (fun c => c.first ≤ n && n ≤ c.last)

/-- Passes of a list of records. -/
def passTotal (l : List Chain) : Nat := (l.map (fun c => c.passes * c.repeats)).sum

/-- Pass number `n` of a list of records, in order. -/
def passIn : List Chain → Nat → Option Pass
  | [], _ => none
  | c :: r, n => if n < c.passes * c.repeats then some ⟨c, n / c.passes, n % c.passes⟩ else passIn r (n - c.passes * c.repeats)

/-- Pass `n` of logical core `k` under an image. -/
def passAt (m : Image) (k n : Nat) : Option Pass := passIn (coreChains m k) n

/-- Draining passes among the first `n` of a core. -/
def drainsBefore (m : Image) (k n : Nat) : Nat :=
  ((List.range n).filter (fun i => match passAt m k i with | some p => p.drains | none => false)).length

/-! ### Row tasks (R173) -/

def rOp (m : Image) : Nat := cf m 16 3 0
def rFirst (m : Image) : Nat := cf m 16 11 4
def rLast (m : Image) : Nat := cf m 16 19 12
def rRows (m : Image) : Nat := cf m 16 32 20
def rLen (m : Image) : Nat := cf m 16 57 33
def rSeg (m : Image) : Nat := cf m 17 15 0
def rCausal (m : Image) : Bool := bitOf (cw m 17) 16
def rColsum (m : Image) : Bool := bitOf (cw m 17) 17
def rColInit (m : Image) : Bool := bitOf (cw m 17) 18
def rCrestEn (m : Image) : Bool := bitOf (cw m 17) 19
def rCrestDir (m : Image) : Bool := bitOf (cw m 17) 20
def rCrestK (m : Image) : Nat := cf m 17 27 21
def rCrestCore (m : Image) : Nat := cf m 17 35 28
def rOffset (m : Image) : Int := signedOf 32 (cf m 18 31 0)
def rEps (m : Image) : Word32 := BitVec.ofNat 32 (cf m 18 63 32)
def rInScale (m : Image) : Word32 := BitVec.ofNat 32 (cf m 19 31 0)
def rX (m : Image) : Tensor := ⟨cf m 20 17 0, cf m 20 30 18, 0⟩
def rDy (m : Image) : Tensor := ⟨cf m 20 48 31, cf m 20 61 49, 0⟩
def rGamma (m : Image) : Nat := cf m 22 17 0
def rBeta (m : Image) : Nat := cf m 22 35 18
def rColsumBase (m : Image) : Nat := cf m 22 53 36
def rCrestBase (m : Image) : Nat := cf m 23 17 0

/-- The task uses the Crest unit (R128). -/
def usesCrest (m : Image) : Bool := iKind m = 2 && (rOp m = 7 || rCrestEn m)

/-! ### Range check -/

/-- Bits of header words 0 to 15 that the fields of R170 cover. -/
def hdrMask (n : Nat) : Nat :=
  let full := 2 ^ 64 - 1
  [0x0FFFFF7F, full, full, full, 0x3FFFFF7FFFFFFF, 0xFFFFFFFF, full, 0xFFF7, 2 ^ 49 - 1, 2 ^ 49 - 1, 2 ^ 49 - 1, 2 ^ 36 - 1,
   2 ^ 52 - 1, 2 ^ 52 - 1, 2 ^ 52 - 1, full].getD n 0

/-- Bits of the words of a chain record (R172). -/
def chainMask (k : Nat) : Nat :=
  [2 ^ 54 - 1, 0xFFFF03FFFFFFFF, 2 ^ 33 - 1, 0xFFFF03FFFFFFFF, 2 ^ 33 - 1, 2 ^ 33 - 1, 2 ^ 33 - 1, 0xFFFF].getD k 0

/-- Bits of the words CW16 to CW23 of a row task (R173). -/
def rowMask (k : Nat) : Nat :=
  [2 ^ 58 - 1, 2 ^ 36 - 1, 2 ^ 64 - 1, 2 ^ 32 - 1, 2 ^ 62 - 1, 2 ^ 49 - 1, 2 ^ 54 - 1, 2 ^ 18 - 1].getD k 0

/-- Bytes of a core's SRAM. -/
def sramSize : Nat := 0x28000

/-- Least multiple of 8 at or above `n`. -/
def up8 (n : Nat) : Nat := 8 * cdiv n 8

/-- Word of segment `s` of row `r` in the skewed layout (R89). -/
def skew (nseg r s : Nat) : Nat := 8 * (r * nseg / 8 + s / 8) + (r + s) % 8

/-- Address of a segment (R89). -/
def skewAddr (base nseg r s : Nat) : Nat := base + 32 * skew nseg r s

/-- Base and geometry a tensor in the skewed layout must meet, whatever uses it (R89, R133, R170); header-plane base aligned to 32 (R58). -/
def tensorBad (t : Tensor) (f : Nat) : Bool :=
  t.base % 256 ≠ 0 || t.base ≥ sramSize || t.nseg % 8 ≠ 0 || (isPajor f && (t.hdr % 32 ≠ 0 || t.hdr ≥ sramSize))

/-- Header bytes of one segment word of a Pajor tensor (R58). -/
def hdrBytes (f : Nat) : Nat := if f = fPj2 then 4 else 2

/-- Rows 0 to `row` and elements 0 to `elem` do not fit the tensor: a segment beyond NSEG, which may be 0, or a last byte beyond 0x2_7FFF, of the
elements or of the headers (R58, R89). -/
def extentBad (t : Tensor) (f row elem : Nat) : Bool :=
  elem / segElems f ≥ t.nseg || t.base + 32 * up8 (row + 1) * t.nseg > sramSize ||
  (isPajor f && t.hdr + hdrBytes f * up8 (row + 1) * t.nseg > sramSize)

/-- Highest row or column of a mask. -/
def topBit (mask : Nat) : Nat := Nat.log2 mask

/-- A positive, finite, normal FP32 value (R52). -/
def okScale (w : Word32) : Bool := isPosNormal w

/-- Finite and not zero (R109). -/
def finNonzero (w : Word32) : Bool := isFinite32 w && decide (w.toNat % 2 ^ 31 ≠ 0)

/-- Elements of the result per stored row (R417). -/
def resultElems (m : Image) : Nat := (iTensor m 10).nseg * segElems (outFmt (iOutFmt m))

/-- Segments per row of a side tensor or mask plane with `e` elements per segment (R417). -/
def besideSegs (m : Image) (e : Nat) : Nat := up8 (cdiv (resultElems m) e)

/-- The drain reads a side tensor (R110, R112). -/
def usesSide (m : Image) : Bool := iBiasSrc m = 3 || (3 ≤ iDeriv m && iDeriv m ≤ 7)

/-- The drain reads or writes a mask plane (R112, R115). -/
def usesMask (m : Image) : Bool := iMaskEmit m ≠ 0 || iDeriv m = 1 || iDeriv m = 2

/-- Failing words of CW4: activation, derivative, mask, output format (R110 to R118). -/
def cw4Bad (m : Image) : Bool :=
  let me := iMaskEmit m
  iBiasSrc m > 3 || iSideFmt m > 2 || iAct m > 7 || iDeriv m > 7 || (iAct m ≠ 0 && iDeriv m ≠ 0) ||
  (iBiasSrc m = 3 && 3 ≤ iDeriv m && iDeriv m ≤ 7) ||
  me > 3 || (me = 1 && iAct m ≠ 1 && iAct m ≠ 2) || (me = 2 && !iDropEn m) || (me = 3 && !(iAct m = 1 && iDropEn m)) ||
  iOutFmt m > 5 || (iRound m && iOutFmt m = 0) || iPj4Valid m = 0 || iPj4Valid m > 64

/-- Failing words of CW0 to CW15 (R52, R109, R170). SCALE_A and SCALE_B are judged whatever the formats (log 41). DEDUCED (log 210): the
alignment of BIAS_BASE and MASK_BASE is judged where the task uses them. -/
def headerBad (m : Image) : List Nat :=
  let product := iKind m = 1
  (List.range 16).filter (fun n =>
    cw m n ≠ cw m n &&& hdrMask n ||
    (match n with
     | 0 => !(iKind m = 1 || iKind m = 2) || (product && (pairOf (iFmtA m) (iFmtB m)).isNone) ||
            (iKind m = 2 && (!([fF32, fBf16, fF16, fE4m3, fE5m2].contains (iFmtA m)) || !([fF32, fBf16].contains (iFmtB m))))
     | 2 => !okScale (iF32 m 2 0) || !okScale (iF32 m 2 32)
     | 3 => !finNonzero (iF32 m 3 0)
     | 4 => cw4Bad m || (if product then iChains m = 0 || iChains m > 60 else iChains m ≠ 0)
     | 8 => if product then tensorBad (iTensor m 8) (iFmtA m) else cw m 8 ≠ 0
     | 9 => if product then tensorBad (iTensor m 9) (iFmtB m) else cw m 9 ≠ 0
     | 10 => if product then tensorBad (iTensor m 10) (outFmt (iOutFmt m)) else cw m 10 ≠ 0
     | 11 =>
       let bias := cf m 11 17 0
       let mask := cf m 11 35 18
       if product then
         let sz := elemBytes (sideFmt (iSideFmt m))
         bias ≥ sramSize || mask ≥ sramSize || (usesSide m && bias % 256 ≠ 0) || (usesMask m && mask % 256 ≠ 0) ||
         ((iBiasSrc m = 1 || iBiasSrc m = 2) && bias % sz ≠ 0) ||
         (iBiasSrc m = 1 && bias + resultElems m * sz > sramSize)
       else cw m 11 ≠ 0
     | 12 | 13 => !product && cw m n ≠ 0
     | 14 => !product && cw m 14 ≠ 0
     | 15 => product && iPbCount m ≠ 0 && iPbFirst m % 65536 ≠ 0
     | _ => false))

/-- The last byte that the drains of a record touch in a tensor beside the result, with `eps` elements per segment (R417): the words of
the highest stored row, which lie above those of every other. -/
def besideEnd (m : Image) (c : Chain) (base eps : Nat) : Nat :=
  let n := besideSegs m eps
  let last := c.repeats - 1
  let row := c.outRow + last * c.outRRow + topBit c.rmask
  let rs := if c.outRRow = 0 then List.range c.repeats else [last]
  rs.foldl (fun a r => (List.range 8).foldl (fun a j =>
    if bitOf c.cmask j then max a (skewAddr base n row ((c.outElem + r * c.outRElem + j) / eps) + 32) else a) a) 0

/-- Words of a chain record that fail (R81 to R83, R89, R93, R118, R172, R417), each with the word R187 gives. DESIGN CHOICE (log 184): a
result that is handed off must fit OUT_TBASE and OUT_NSEG as one that is written does. -/
def chainBad (g : Grade) (m : Image) (pr : Pair) (c : Chain) : List Nat :=
  let w := c.word
  let uncovered := (List.range 8).filterMap (fun k => if cw m (w + k) ≠ cw m (w + k) &&& chainMask k then some (w + k) else none)
  let word0 := c.len = 0 || c.len > pr.steps || c.len % pr.mult ≠ 0 || c.opening = 3 || c.rmask = 0 || c.cmask = 0 ||
               c.passes = 0 || c.repeats = 0
  let span := c.passes * c.len * pr.rank
  let side := fun (s : Side) (n fmt other mask : Nat) (t : Tensor) =>
    let place := ((s.vx = 15) != (s.vy = 15)) || (s.vx ≠ 15 && (s.vx > 9 || s.vy > 9)) || (s.core ≠ 255 && s.core ≥ g.enabled) ||
                 (s.across && isPajor fmt && !is16 other)
    let red := if s.across then s.row else s.elem
    let step := if s.across then s.rrow else s.relem
    let row := s.row + (c.repeats - 1) * s.rrow + (if s.across then span - 1 else topBit mask)
    let elem := s.elem + (c.repeats - 1) * s.relem + (if s.across then topBit mask else span - 1)
    (if place then [n] else []) ++ (if red % pr.blk ≠ 0 then [n] else []) ++
    (if (c.repeats > 1 && step % pr.blk ≠ 0) || extentBad t fmt row elem then [n + 1] else [])
  let row := c.outRow + (c.repeats - 1) * c.outRRow + topBit c.rmask
  let elem := c.outElem + (c.repeats - 1) * c.outRElem + topBit c.cmask
  let ofmt := outFmt (iOutFmt m)
  let far := if ofmt = fPj4 then elem / 64 * 64 + 63 else elem
  let beside := fun (base eps : Nat) => besideEnd m c base eps > sramSize
  let out :=
    (if c.outElem % 8 ≠ 0 then [w + 5] else []) ++
    if !c.drain then []
    else
      (if (c.repeats > 1 && c.outRElem % 8 ≠ 0) || extentBad (iTensor m 10) ofmt row far ||
          (iBiasSrc m = 2 && cf m 11 17 0 + (row + 1) * elemBytes (sideFmt (iSideFmt m)) > sramSize) ||
          (usesSide m && beside (cf m 11 17 0) (segElems (sideFmt (iSideFmt m)))) ||
          (usesMask m && beside (cf m 11 35 18) 256)
       then [w + 6] else [])
  uncovered ++ (if word0 then [w] else []) ++ side c.a (w + 1) (iFmtA m) (iFmtB m) c.rmask (iTensor m 8) ++
  side c.b (w + 3) (iFmtB m) (iFmtA m) c.cmask (iTensor m 9) ++ out ++
  (if c.first > c.last || c.last ≥ g.enabled then [w + 7] else [])

/-- A position in the formation of PJ4 block groups: drains of the open group so far, its row, first element and row mask, the word of
its latest origin; the failing word found. -/
structure GroupScan where
  k     : Nat := 0
  row   : Nat := 0
  elem  : Nat := 0
  rmask : Nat := 0
  word  : Nat := 0
  bad   : Option Nat := none

/-- One drain into a PJ4 output (R118): column mask 0xFF, the same rows and row mask, element groups in order. From the second chain of a
record on, its position ties the step word too (R187). -/
def groupStep (g : GroupScan) (c : Chain) (r : Nat) : GroupScan :=
  let row := c.outRow + r * c.outRRow
  let elem := c.outElem + r * c.outRElem
  let pos := c.word + (if r = 0 then 5 else 6)
  if g.bad.isSome then g
  else if c.cmask ≠ 255 then { g with bad := some c.word }
  else if g.k = 0 then
    if elem % 64 ≠ 0 then { g with bad := some pos }
    else { g with k := 1, row := row, elem := elem, rmask := c.rmask, word := pos }
  else if row ≠ g.row || elem ≠ g.elem + 8 * g.k then { g with bad := some pos }
  else if c.rmask ≠ g.rmask then { g with bad := some c.word }
  else { g with k := (g.k + 1) % 8, word := pos }

/-- The failing word of a core's drains into a PJ4 output, if they do not fall into whole groups (R118; an unfinished group fails at
its latest result origin). -/
def groupBad (l : List Chain) : Option Nat :=
  let g := l.foldl (fun g c => if c.drain then (List.range c.repeats).foldl (fun g r => groupStep g c r) g else g) ({} : GroupScan)
  match g.bad with
  | some w => some w
  | none => if g.k ≠ 0 then some g.word else none

/-- Logical cores at which the set of records in force changes. -/
def breakCores (g : Grade) (l : List Chain) : List Nat :=
  (0 :: l.flatMap (fun c => [c.first, c.last + 1])).filter (fun n => decide (n < g.enabled))

/-- Failing words of CW16 to CW23 of a row task (R121, R125, R128 to R130, R173; log 25). -/
def rowBad (g : Grade) (m : Image) : List Nat :=
  let uncovered := (List.range 8).filterMap (fun k => if cw m (16 + k) ≠ cw m (16 + k) &&& rowMask k then some (16 + k) else none)
  let p := rLast m + 1 - rFirst m
  let inf := iFmtA m
  let ofmt := outFmt (iOutFmt m)
  let rows := rRows m - 1
  let seg := rSeg m - 1
  let back := rOp m = 4 || rOp m = 5 || rOp m = 6
  let gsz := elemBytes (iFmtB m)
  let w16 := rOp m = 0 || rOp m > 7 || rFirst m > rLast m || rLast m ≥ g.enabled || rRows m = 0 || rRows m > 4096 || rLen m > 2 ^ 24
  let w17 := rSeg m % 8 ≠ 0 || rLen m > p * rSeg m || (ofmt = fPj4 && rSeg m % 64 ≠ 0) || (rCrestEn m && rOp m ≠ 3) ||
             rCrestK m = 0 || rCrestK m > 64 || (usesCrest m && (rCrestCore m < rFirst m || rCrestCore m > rLast m))
  let w18 := !isFinite32 (rEps m) || (decide ((rEps m).toNat ≥ 2 ^ 31) && decide ((rEps m).toNat ≠ 2 ^ 31))
  let w20 := tensorBad (rX m) inf || extentBad (rX m) inf rows seg || tensorBad (rDy m) inf || (back && extentBad (rDy m) inf rows seg)
  let w21 := tensorBad (iTensor m 21) ofmt || (rOp m ≠ 7 && extentBad (iTensor m 21) ofmt rows seg)
  let vec := fun (used : Bool) (base sz : Nat) => used && base + rSeg m * sz > sramSize
  let w22 := vec (rOp m = 1 || rOp m = 2 || rOp m = 4 || rOp m = 5) (rGamma m) gsz || vec (rOp m = 1) (rBeta m) gsz ||
             vec (rColsum m && (rOp m = 4 || rOp m = 5)) (rColsumBase m) (if rOp m = 4 then 8 else 4) ||
             rGamma m ≥ sramSize || rBeta m ≥ sramSize || rColsumBase m ≥ sramSize
  let w23 := rCrestBase m ≥ sramSize || (usesCrest m && rCrestBase m + rRows m * rCrestK m * 8 > sramSize)
  uncovered ++ (if w16 then [16] else []) ++ (if w17 then [17] else []) ++ (if w18 then [18] else []) ++
  (if w20 then [20] else []) ++ (if w21 then [21] else []) ++ (if w22 then [22] else []) ++ (if w23 then [23] else [])

/-- The lowest of a list of words. -/
def lowest : List Nat → Option Nat
  | [] => none
  | a :: r => match lowest r with | some b => some (min a b) | none => some a

/-- The word at which an image is out of range; none where it is in range (R170, R187). -/
def imageBad (g : Grade) (m : Image) : Option Nat :=
  let hdr := headerBad m
  let body :=
    if iKind m = 2 then rowBad g m
    else match pairOf (iFmtA m) (iFmtB m) with
      | some pr =>
        if iKind m = 1 then
          let cs := chainList m
          cs.flatMap (chainBad g m pr) ++
          (if iOutFmt m = 5 then (breakCores g cs).filterMap (fun n => groupBad (coreChains m n)) else [])
        else []
      | none => []
  lowest (hdr ++ body)

/-- Whether logical index `n` of a valley is absent: within the grade's count and reading VALID 0 (R46, R172). -/
def absentIndex (s : State) (v n : Nat) : Bool := n < s.grade.enabled && !bitOf (mapEntry s v n) 15

/-- The valley a chain record's side reads: its own, or another of the die (R172). -/
def sideValley (v : Nat) (x : Side) : Nat := if x.vx = 15 then v else v / 100 * 100 + x.vy * 10 + x.vx

/-- The word of the lowest field that names an absent index or an absent Crest unit in valley `v` (R181, R187, R329; log 26). -/
def imageAbsent (s : State) (v : Nat) (m : Image) : Option Nat :=
  let span := fun (u a b : Nat) => (List.range (b + 1 - a)).any (fun i => absentIndex s u (a + i))
  let noCrest := !(bitOf (rd s (pgValley v + 8)) 8)
  if iKind m = 2 then
    lowest ((if span v (rFirst m) (rLast m) || (rOp m = 7 && noCrest) then [16] else []) ++
            (if usesCrest m && (noCrest || absentIndex s v (rCrestCore m)) then [17] else []))
  else
    lowest ((chainList m).flatMap (fun c =>
      let side := fun (x : Side) (n : Nat) =>
        let u := sideValley v x
        if (if x.core = 255 then u ≠ v && span u c.first c.last else absentIndex s u x.core) then [n] else []
      side c.a (c.word + 1) ++ side c.b (c.word + 3) ++ (if span v c.first c.last then [c.word + 7] else [])))

/-- The word of the lowest field that names what a job does not own: a source valley, or the Ebb stream of a result handed over (R172, R314;
log 201). -/
def imageForeign (s : State) (j v : Nat) (m : Image) : Option Nat :=
  lowest ((if iHandOff m && !ownsStream s j (iEbbStream m) then [7] else []) ++
    (if iKind m = 2 then [] else (chainList m).flatMap (fun c =>
      (if ownsValley s j (sideValley v c.a) then [] else [c.word + 1]) ++ (if ownsValley s j (sideValley v c.b) then [] else [c.word + 3]))))

/-- The logical cores that run a task (R121, R172), of those behind which a core works. -/
def taskCores (s : State) (v : Nat) (m : Image) : List Nat :=
  (List.range s.grade.enabled).filter (fun n =>
    bitOf (mapEntry s v n) 15 &&
    (if iKind m = 2 then rFirst m ≤ n && n ≤ rLast m else (chainList m).any (fun c => c.first ≤ n && n ≤ c.last)))

end Sys2Proof.Machine
end

