-- ==== Sys2Proof/Machine/Desc.lean ====
section
/-! DEFINITION. Descriptors of the Flood and Ebb engines (R190 to R193): their fields, the range check, ownership, the destinations of a
run. -/

namespace Sys2Proof.Machine

/-! ### Fields (R190) -/

def dBase (d : Rec) : Nat := wf' d 0 51 0
def dMode (d : Rec) : Nat := wf' d 0 57 56
def dLen (d : Rec) : Nat := wf' d 1 23 0
/-- COUNTk for k from 1 to 4. -/
def dCount (d : Rec) (k : Nat) : Nat :=
  if k = 1 then wf' d 1 39 24 else if k = 2 then wf' d 1 55 40 else if k = 3 then wf' d 2 15 0 else wf' d 2 31 16
def dRole (d : Rec) (k : Nat) : Nat := wf' d 2 (31 + 3 * k) (29 + 3 * k)
def dMcVx (d : Rec) : Bool := bitOf (wd d 2) 44
def dMcVy (d : Rec) : Bool := bitOf (wd d 2) 45
def dMcCore (d : Rec) : Bool := bitOf (wd d 2) 46
def dStride (d : Rec) (k : Nat) : Int := signedOf 32 (wf' d (2 + (k + 1) / 2) (31 + 32 * ((k + 1) % 2)) (32 * ((k + 1) % 2)))
def dTensor (d : Rec) : Tensor := ⟨wf' d 5 17 0, wf' d 5 30 18, wf' d 6 53 36⟩
def dRow0 (d : Rec) : Nat := wf' d 5 43 31
def dSeg0 (d : Rec) : Nat := wf' d 5 56 44
def dHdr (d : Rec) : Nat := wf' d 5 58 57
def dHdrBase (d : Rec) : Nat := wf' d 5 51 0
def dDie (d : Rec) : Nat := wf' d 6 3 0
def dVx0 (d : Rec) : Nat := wf' d 6 7 4
def dVx1 (d : Rec) : Nat := wf' d 6 11 8
def dVy0 (d : Rec) : Nat := wf' d 6 15 12
def dVy1 (d : Rec) : Nat := wf' d 6 19 16
def dCore0 (d : Rec) : Nat := wf' d 6 27 20
def dCore1 (d : Rec) : Nat := wf' d 6 35 28
def dGateTm (d : Rec) : Nat := wf' d 7 12 0
def dGateEn (d : Rec) : Bool := bitOf (wd d 7) 13
def dDoneEn (d : Rec) : Bool := bitOf (wd d 7) 14
def dDoneTm (d : Rec) : Nat := wf' d 7 28 16
def dLinkEn (d : Rec) : Bool := bitOf (wd d 7) 15
def dLinkSlot (d : Rec) : Nat := wf' d 7 29 29
def dGateVal (d : Rec) : Nat := wf' d 7 63 32

/-- Bits of each word that a field covers; in hand-off mode the roles, STRIDE4 and the multicast bits are reserved (R198). -/
def descMask (d : Rec) (i : Nat) : Nat :=
  let full := 2 ^ 64 - 1
  let hand := dMode d = 1
  [2 ^ 52 - 1 + 3 * 2 ^ 56, 2 ^ 56 - 1, if hand then 2 ^ 32 - 1 else 2 ^ 47 - 1, full, if hand then 2 ^ 32 - 1 else full,
   if hand then 2 ^ 52 - 1 else 2 ^ 59 - 1, 2 ^ 54 - 1, full - 3 * 2 ^ 30].getD i 0

/-- Unit in bytes that a run moves per segment: 32, or the headers of a segment (R191). -/
def dUnit (d : Rec) : Nat := [32, 2, 4].getD (dHdr d) 32

/-- Runs of a transfer descriptor (R191). -/
def dRuns (d : Rec) : Nat := dCount d 1 * dCount d 2 * dCount d 3 * dCount d 4

/-- The index of dimension `k` (1 to 4) in run `n`. -/
def dIndex (d : Rec) (n k : Nat) : Nat :=
  let below := (List.range (k - 1)).foldl (fun a j => a * dCount d (j + 1)) 1
  n / below % dCount d k

/-- Memory address of run `n`, without wrapping (R191). -/
def runAddr (d : Rec) (n : Nat) : Int :=
  (List.range 4).foldl (fun (a : Int) k => a + (dIndex d n (k + 1) : Int) * dStride d (k + 1)) (dBase d : Int)

/-- Lowest and highest address offset the strides reach. -/
def strideSpan (d : Rec) : Int × Int :=
  (List.range 4).foldl (fun (a : Int × Int) k =>
    let far := ((dCount d (k + 1) - 1 : Nat) : Int) * dStride d (k + 1)
    (a.1 + min 0 far, a.2 + max 0 far)) (0, 0)

/-- Dimensions with a role. -/
def roleDims (d : Rec) (r : Nat) : List Nat := ([1, 2, 3, 4] : List Nat).filter (fun k => dRole d k = r)

/-- Rows the row-role dimensions span. -/
def rowSpan (d : Rec) : Nat := (roleDims d 0).foldl (fun a k => a * dCount d k) 1

/-- Stored row of run `n` (R192). -/
def runRow (d : Rec) (n : Nat) : Nat :=
  dRow0 d + ((roleDims d 0).foldl (fun (a : Nat × Nat) k => (a.1 + a.2 * dIndex d n k, a.2 * dCount d k)) (0, 1)).1

/-- Values an axis takes in run `n`: its role's index, its whole range, or its first value (R192). -/
def axisVals (d : Rec) (n role lo hi : Nat) (mc : Bool) : List Nat :=
  match roleDims d role with
  | k :: _ => [lo + dIndex d n k]
  | [] => if mc then (List.range (hi + 1 - lo)).map (lo + ·) else [lo]

/-- Destination (or source) valleys and logical cores of run `n` (R192). -/
def runCores (d : Rec) (n : Nat) : List (Nat × Nat) :=
  (axisVals d n 2 (dVy0 d) (dVy1 d) (dMcVy d)).flatMap (fun vy =>
    (axisVals d n 1 (dVx0 d) (dVx1 d) (dMcVx d)).flatMap (fun vx =>
      (axisVals d n 3 (dCore0 d) (dCore1 d) (dMcCore d)).map (fun c => (dDie d * 100 + vy * 10 + vx, c))))

/-- SRAM address of byte `b` of a run in row `r` (R191). -/
def runByte (d : Rec) (r b : Nat) : Nat :=
  let t := dTensor d
  match dHdr d with
  | 0 => skewAddr t.base t.nseg r (dSeg0 d + b / 32) + b % 32
  | 1 => t.hdr + 2 * skew t.nseg r (dSeg0 d + b / 2) + b % 2
  | _ => t.hdr + 4 * skew t.nseg r (dSeg0 d + b / 4) + b % 4

/-- The descriptor's rectangle is one that R164 allows. -/
def descRect (d : Rec) : Bool :=
  decide (dDie d ≤ 11) && decide (dVx0 d ≤ dVx1 d) && decide (dVx1 d ≤ 9) && decide (dVy0 d ≤ dVy1 d) && decide (dVy1 d ≤ 9)

/-- Out of range under R133 and R193; in hand-off mode HDR_BASE, which R198 ignores but for a PJ4 output, is judged with the unit. -/
def descBad (ebb : Bool) (d : Rec) : Bool :=
  let hand := dMode d = 1
  let t := dTensor d
  let u := dUnit d
  let segs := dLen d / u
  let rows := dRow0 d + rowSpan d
  let span := strideSpan d
  let axis := fun (role lo hi : Nat) (mc : Bool) =>
    decide ((roleDims d role).length > 1) || (mc && !(roleDims d role).isEmpty) ||
    (roleDims d role).any (fun k => decide (lo + dCount d k - 1 > hi))
  (List.range 8).any (fun i => decide (wd d i ≠ wd d i &&& descMask d i)) ||
  dMode d > 1 || (hand && !ebb) ||
  ([1, 2, 3, 4] : List Nat).any (fun k => decide (dCount d k = 0)) || dLen d = 0 ||
  !descRect d || dCore0 d > dCore1 d ||
  (if hand then false
   else
     dHdr d = 3 || decide (dBase d % u ≠ 0) || decide (dLen d % u ≠ 0) ||
     ([1, 2, 3, 4] : List Nat).any (fun k => decide (dStride d k % (u : Int) ≠ 0) || decide (dRole d k > 3)) ||
     (ebb && (dMcVx d || dMcVy d || dMcCore d)) ||
     axis 1 (dVx0 d) (dVx1 d) (dMcVx d) || axis 2 (dVy0 d) (dVy1 d) (dMcVy d) || axis 3 (dCore0 d) (dCore1 d) (dMcCore d) ||
     decide (dSeg0 d + segs > t.nseg) || tensorBad t fF32 || t.nseg = 0 || decide (t.hdr ≥ sramSize) ||
     (if dHdr d = 0 then decide (t.base + 32 * up8 rows * t.nseg > sramSize)
      else decide (t.hdr % 32 ≠ 0) || decide (t.hdr + u * up8 rows * t.nseg > sramSize)) ||
     decide ((dBase d : Int) + span.1 < 0) || decide ((dBase d : Int) + span.2 + (dLen d - 1 : Nat) > 2 ^ 52 - 1))

/-- Valleys of the descriptor's rectangle. -/
def descValleys (d : Rec) : List Nat := groupValleys (dDie d) (dVx0 d) (dVx1 d) (dVy0 d) (dVy1 d)

/-- The descriptor names a valley or a tidemark that the job does not own (R189). A rectangle that R164 forbids names no valley (log 38). -/
def descForeign (s : State) (j : Nat) (d : Rec) : Bool :=
  (descRect d && (descValleys d).any (fun v => !ownsValley s j v)) || (dGateEn d && !ownsTm s j (dGateTm d)) || (dDoneEn d && !ownsTm s j (dDoneTm d))

/-- Values an axis takes over all runs (R192); in hand-off mode its whole range (R198). -/
def axisAll (d : Rec) (role lo hi : Nat) (mc : Bool) : List Nat :=
  if dMode d = 1 || mc then (List.range (hi + 1 - lo)).map (lo + ·)
  else match roleDims d role with
    | k :: _ => (List.range (dCount d k)).map (lo + ·)
    | [] => [lo]

/-- A unit from a valley and core the descriptor allows (R198). -/
def handOk (d : Rec) (u : HandUnit) : Bool :=
  (descValleys d).contains u.valley && decide (dCore0 d ≤ u.core) && decide (u.core ≤ dCore1 d)

/-- Logical cores a descriptor names (R192, R198). -/
def descCores (d : Rec) : List Nat := axisAll d 3 (dCore0 d) (dCore1 d) (dMcCore d)

/-- Destination (or source) valleys of a descriptor (R192). -/
def descDests (d : Rec) : List Nat :=
  (axisAll d 2 (dVy0 d) (dVy1 d) (dMcVy d)).flatMap (fun vy =>
    (axisAll d 1 (dVx0 d) (dVx1 d) (dMcVx d)).map (fun vx => dDie d * 100 + vy * 10 + vx))

/-- The descriptor names a logical index whose core-map entry reads VALID 0 (R193). -/
def descAbsent (s : State) (d : Rec) : Bool :=
  (descDests d).any (fun v => (descCores d).any (fun n => (logical s v n).isNone))

end Sys2Proof.Machine
end

