-- ==== Sys2Proof/Machine/Records.lean ====
section
/-! DEFINITION. The records a command names in memory: the optimiser record (R249), the plan record's header (R276), the chart's header
(R175), and when they are bad. -/

namespace Sys2Proof.Machine

/-- A field of FP32 in a record. -/
def wf32 (o : Rec) (i hi : Nat) : Word32 := BitVec.ofNat 32 (wf' o i (hi + 31) hi)

/-! ### Optimiser record (R249) -/

def oKind (o : Rec) : Nat := wf' o 0 3 0
def oNesterov (o : Rec) : Bool := bitOf (wd o 0) 4
def oBf16 (o : Rec) : Bool := bitOf (wd o 0) 5
def oPj4 (o : Rec) : Bool := bitOf (wd o 0) 6 && decide (oKind o ≠ 5)
def oE4m3 (o : Rec) : Bool := bitOf (wd o 0) 7 && decide (oKind o ≠ 5)
def oWbf16 (o : Rec) : Bool := bitOf (wd o 0) 8 && decide (oKind o ≠ 5)

/-- Negative, minus zero apart. -/
def isNeg32 (w : Word32) : Bool := decide (w.toNat > 2 ^ 31)

/-- The record breaks the table of R249; `norm`: the UPDATE waits for the clip factor, and reads CLIP_ADDR. The MODEL's choice (log 62): the
base of a working copy is judged only where its WRITE_ bit is set, E4M3_INV_SCALE only with WRITE_E4M3, STASH_OFFSET only where a copy is
written, CLIP_ADDR only with NORM_WAIT. -/
def optBad (norm : Bool) (o : Rec) : Bool :=
  let k := oKind o
  let fin := fun i hi => isFinite32 (wf32 o i hi)
  let unit := fun i hi => fin i hi && !isNeg32 (wf32 o i hi) && !flt f32One (wf32 o i hi)
  let pos := fun i hi => fin i hi && flt f32Zero (wf32 o i hi)
  let adam := k = 1 || k = 2
  let al := fun i n => decide (wf' o i 51 0 % n ≠ 0)
  wf' o 0 31 9 ≠ 0 || ([6, 7, 8, 9, 10, 11, 12] : List Nat).any (fun i => decide (wf' o i 63 52 ≠ 0)) ||
  wd o 13 ≠ 0 || wd o 14 ≠ 0 || wd o 15 ≠ 0 || k = 0 || k > 5 || !finNonzero (wf32 o 0 32) ||
  (k ≠ 5 && !(fin 1 0 && fin 1 32)) ||
  (adam && !(unit 2 0 && unit 2 32 && pos 3 0 && pos 3 32 && fin 4 0 && !isNeg32 (wf32 o 4 0))) ||
  (k = 3 && !(fin 4 32 && fin 5 0)) ||
  (oE4m3 o && !okScale (wf32 o 5 32)) || al 6 4096 || (norm && k ≠ 5 && al 7 4) ||
  (oPj4 o && (al 8 1024 || al 9 64)) || (oE4m3 o && al 10 2048) || (oWbf16 o && al 11 4096) ||
  ((oPj4 o || oE4m3 o || oWbf16 o) && (wf' o 12 51 0 = 0 || al 12 4096))

/-! ### Plan record (R276) -/

def pTree (p : Rec) : Bool := wf' p 0 1 0 = 1
def pFp32 (p : Rec) : Bool := bitOf (wd p 0) 2
def pPlanId (p : Rec) : Nat := wf' p 0 31 16
def pN (p : Rec) : Nat := wf' p 0 44 32
def pSelf (p : Rec) : Nat := wf' p 0 60 48
def pResult (p : Rec) : Nat := wf' p 1 51 0
def pPorts (p : Rec) : Nat := wf' p 2 15 0
def pGroup (p : Rec) : Nat := wf' p 2 28 16

/-- The header breaks its limits. -/
def planBad (g : Grade) (p : Rec) : Bool :=
  decide (wd p 0 ≠ wd p 0 &&& 0x1FFF1FFFFFFF0007) || decide (wd p 1 ≠ pResult p) || decide (wd p 2 ≠ wd p 2 &&& (2 ^ 29 - 1)) ||
  ([3, 4, 5, 6, 7] : List Nat).any (fun i => decide (wd p i ≠ 0)) ||
  wf' p 0 1 0 > 1 || pN p < 2 || pN p > 4096 || pSelf p ≥ pN p || decide (pResult p % 4096 ≠ 0) ||
  pPorts p = 0 || decide (pPorts p ≥ 2 ^ g.ports) || (pTree p && (pGroup p < 2 || pGroup p > pN p))

/-- Words 4 to 7 of an entry: reserved bits of MAC0, and of the copy-1 fields. -/
def planEntryBad (e : Rec) : Bool :=
  decide (wf' e 4 63 48 ≠ 0) || decide (wf' e 5 63 48 ≠ 0) || decide (wd e 6 ≠ 0) || decide (wd e 7 ≠ 0)

/-- BUCKET_BYTES breaks its limits (R274). -/
def bucketBad (c : Rec) : Bool :=
  let n := wf' c 4 31 0
  decide (n < 2 ^ 20) || decide (n > 2 ^ 26) || decide (n % 8192 ≠ 0)

/-! ### Chart header (R175) -/

/-- COUNT of a chart. -/
def chartCount (h : Rec) : Nat := wf' h 0 15 0

/-- The header is malformed, or the CALL_CHART stops beyond the chart's end. -/
def chartBad (c h : Rec) : Bool :=
  chartCount h = 0 || decide (wf' h 0 31 16 ≠ 0) || ([1, 2, 3, 4, 5, 6, 7] : List Nat).any (fun i => decide (wd h i ≠ 0)) ||
  (bitOf (wd c 4) 16 && decide (wf' c 4 15 0 ≥ chartCount h))

/-- Commands a CALL_CHART replays: the chart, or up to its stop (R177). DEDUCED (log 192): those beyond the stop take no sequence number, as
R177 says of them, where R166 says that numbers are taken by commands stopped by a stop index. -/
def chartLen (c h : Rec) : Nat := if bitOf (wd c 4) 16 then wf' c 4 15 0 + 1 else chartCount h

end Sys2Proof.Machine
end

