-- ==== Sys2Proof/Machine/Queue.lean ====
section
/-! DEFINITION. A queue's head command and its dispatch (R213 to R217), what ends a command at once (R166, R184), signals (R165, R222),
stops and waits (R217, R228), loads (R178, R215), and the grants of the stage contexts (R262 to R265). -/

namespace Sys2Proof.Machine

/-- The command at the head of a queue: its record, the CALL_CHART it is replayed for, its index in the chart (0xFFFF outside one). -/
structure Head where
  c      : Rec
  parent : Option Nat
  index  : Nat
  deriving DecidableEq, Repr

/-- The next command in program order (R216). -/
def headOf (x : Queue) : Option Head :=
  match x.replay with
  | some r => (match r.cmds with | (i, c) :: _ => some ⟨c, some r.seq, i⟩ | [] => none)
  | none => (match x.fetched with | c :: _ => some ⟨c, none, 0xFFFF⟩ | [] => none)

/-- INDEX of a record for a command of a chart; 0 outside one (R220). -/
def Head.recIndex (h : Head) : Nat := if h.parent.isSome then h.index else 0

/-- The same for a dispatched operation. -/
def Op.recIndex (o : Op) : Nat := if o.parent.isSome then o.index else 0

/-- The load the head command lies in has been checked, or the queue does not check loads (R178, R183); a replay that begins has been. -/
def headChecked (x : Queue) : Bool :=
  x.skipMode ||
  (match x.replay with
   | some _ => true
   | none => (match x.loads with | l :: _ => l.checked | [] => false))

/-- The queue dispatches (R214, R217, R233, R302, R318). -/
def mayDispatch (s : State) (x : Queue) : Bool :=
  up s && !s.hl.downing && x.enable && !x.stopped && !x.paused && !x.resetting && headChecked x &&
  decide (jobState s x.job.toNat = 1)

/-- Slots of a command ring. -/
def ringLen (x : Queue) : Nat := 2 ^ x.sizeLog2.toNat

/-- The ring of a command's records: its own where owned and enabled, else the queue's default (R166). -/
def ringFor (s : State) (x : Queue) (c : Rec) : Nat :=
  if ownsRing s x.job.toNat (cRing c) && (getRing s (cRing c)).enable then cRing c else x.defaultRing.toNat

/-! ### Loads -/

/-- One command of the front load is dispatched. -/
def loadsTake (l : List Load) (c : Rec) : List Load :=
  match l with
  | a :: r => if a.count ≤ 1 then r else { a with count := a.count - 1, gone := a.gone ++ [c] } :: r
  | [] => []

/-- The latest dispatched command returns to the head of its load. -/
def loadsBack (l : List Load) (own : Bool) : List Load :=
  match l with
  | a :: r => if own then { a with count := a.count + 1, gone := a.gone.dropLast } :: r else { count := 1 } :: a :: r
  | [] => [{ count := 1 }]

/-- Commands not yet dispatched of all loads. -/
def loadsTotal (l : List Load) : Nat := (l.map (·.count)).sum

/-- Loads after HEAD has been moved so that `n` commands lie ahead of TAIL (R217). -/
def loadsFit (l : List Load) (n : Nat) : List Load :=
  let t := loadsTotal l
  if n = t then l
  else if n < t then
    (l.foldl (fun (acc : Nat × List Load) a =>
      if acc.1 ≥ a.count then (acc.1 - a.count, acc.2)
      else (0, acc.2 ++ [{ a with count := a.count - acc.1, gone := if acc.1 = 0 then a.gone else [] }])) (t - n, [])).2
  else
    match l with
    | a :: r => { a with count := a.count + (n - t), gone := a.gone.take (a.gone.length - (n - t)) } :: r
    | [] => [{ count := n }]

/-! ### Taking the head command -/

/-- The head command takes the next sequence number and HEAD moves past it (R166, R217). -/
def takeHead (s : State) (q : Nat) : State × Nat :=
  let x := getQ s q
  let seq := x.nextSeq.toNat
  let x := { x.unwait with nextSeq := x.nextSeq + 1 }
  let x :=
    match x.replay with
    | some r => (match r.cmds with
      | _ :: c :: t => { x with replay := some { r with cmds := c :: t } }
      | _ => { x with replay := none })
    | none =>
      { x with head := BitVec.ofNat 16 ((x.head.toNat + 1) % ringLen x), fetched := x.fetched.drop 1,
               loads := loadsTake x.loads (x.fetched.headD []) }
  (setQ s q x, seq)

/-- Strandline COMMAND entry: the record after substitution, its handle, whether ESC_ALT was chosen, whether it was skipped (R372). -/
def slCommand (s : State) (q seq : Nat) (c : Rec) (alt skipped : Bool) : State :=
  slAdd s (getQ s q).job.toNat 1 (bytes64 c ++ leBytes 8 (handleOf q seq) ++ leBytes 8 (b2n alt + 2 * b2n skipped))

/-- A dispatched long command, handed to its engine (R216). -/
def opAdd (s : State) (q seq : Nat) (h : Head) : State :=
  let x := getQ s q
  { s with ops := s.ops ++ [{ queue := q, seq := seq, job := x.job.toNat, ring := ringFor s x h.c, opcode := cOp h.c, cmd := h.c,
                              parent := h.parent, index := h.index }] }

/-! ### Signals (R165, R222) -/

/-- The release rule for a held signal (R222): the long commands up to the latest it follows complete; its own record written; their
configuration writes received. A signal of a replay does not wait for its own CALL_CHART. -/
def sigReady (s : State) (q : Nat) (g : HeldSig) : Bool :=
  !(s.ops.any (fun o => o.queue = q && opOpen o && decide (o.seq ≤ g.last) && decide (g.parent ≠ some o.seq))) &&
  !(g.own && s.ops.any (fun o => o.queue = q && decide (o.seq = g.seq))) &&
  !(s.valleys.any (fun e => e.2.inbox.any (fun m => m.queue = q && decide (m.seq ≤ g.last) && !m.inval)))

/-- Perform the queue's next held signal, if its rule is met; a CALL_CHART that waited for it completes (R177, R222). -/
def trySignal (s : State) (q : Nat) : State :=
  let x := getQ s q
  match x.sigs with
  | g :: r => if sigReady s q g then ctxFree (chartSettle (tmSignal (setQ s q { x with sigs := r }) g.tm g.add g.value.toNat) q) else s
  | [] => s

/-- Queue the attached signal of a command: it follows every command numbered so far (R165). -/
def holdSignal (s : State) (q seq : Nat) (c : Rec) (own : Bool) (parent : Option Nat) : State :=
  if cSigEn c then
    let x := getQ s q
    setQ s q { x with sigs := x.sigs ++ [{ seq := seq, own := own, last := (x.nextSeq - 1).toNat, tm := cSigTm c, add := cSigAdd c,
                                           value := BitVec.ofNat 64 (wd c 1), parent := parent }] }
  else s

/-- After the replay's last command the CALL_CHART's own signal takes its place behind the replay's (R165, R177). -/
def closeReplay (s : State) (q : Nat) (h : Head) : State :=
  match h.parent, (getQ s q).replay with
  | some p, none => (match opFind s q p with
    | some o => chartSettle (holdSignal s q p o.cmd true none) q
    | none => s)
  | _, _ => s

/-- The signal of a command just dispatched, and the end of its replay. A signal of a command that is not long is performed at once where
nothing holds it (R165). -/
def signalOf (s : State) (q seq : Nat) (h : Head) : State :=
  let long := isLong (cOp h.c)
  let s := holdSignal s q seq h.c long h.parent
  let s := if cSigEn h.c && !long && decide ((getQ s q).sigs.length = 1) then trySignal s q else s
  closeReplay s q h

/-! ### Commands that end at once -/

/-- A numbered command ends with a record: a long one in its engine's stead, another where R166 asks for a record. DEDUCED (log 206): a
command that is not long, with REPORT 0, and ends OK writes none on a tainted queue either. -/
def finishCmd (s : State) (q seq : Nat) (h : Head) (r : CompRec) : State :=
  if isLong (cOp h.c) then opEnd (opAdd s q seq h) q seq r
  else if cReport h.c || decide (r.status ≠ stOk) then report s q seq (ringFor s (getQ s q) h.c) r
  else s

/-- The dispatched START that waits at a slot and has not been judged yet (R392). -/
def slotStart (s : State) (v l : Nat) : Option (Nat × Nat) :=
  s.starts.find? (fun k => match opFind s k.1 k.2 with
    | some o => (cValleys o.cmd).contains v && decide (cLslot o.cmd = l)
    | none => false)

/-- A slot of a valley takes no new configuration or START: a task is pending or running in it, or a dispatched START has not been
judged yet (R168, R392). -/
def slotTaken (s : State) (v l : Nat) : Bool := ((getV s v).slot l).st.busy || (slotStart s v l).isSome

/-- A valley takes configuration and STARTs now: it works, and its die's steward is not being reset (R366, R392). -/
def valleyTakes (s : State) (v : Nat) : Bool := working s (pgValley v) && decide (stateOf s (pgSteward (v / 100)) ≠ 1)

/-- A HOLD of the queue, dispatched earlier, has yet to reach the valley (R22, R366). -/
def holdAhead (s : State) (q seq v : Nat) : Bool :=
  s.holdOps.any (fun h => decide (h.queue = q) && decide (h.seq < seq) && h.late.contains (pgValley v))

/-- A skipped write makes a slot of a valley INVALID (R185); one taken by a task, or by the START `after` that came first, becomes INVALID
once that leaves it (log 207). -/
def slotInvalid (s : State) (v l : Nat) (after : Option (Nat × Nat)) : State :=
  let y := (getV s v).slot l
  setV s v ((getV s v).setSlot l
    (if y.st.busy || after.any s.starts.contains then { y with spoil := true } else { y with st := .invalid }))

/-- A slot whose task or START has left it and that a skipped write has met is INVALID (R185). -/
def slotSpoiled (s : State) (v l : Nat) : State :=
  let y := (getV s v).slot l
  if y.spoil && !slotTaken s v l then setV s v ((getV s v).setSlot l { y with st := .invalid, spoil := false }) else s

/-- A skipped CFG_WRITE or PATCH makes its slot INVALID in every valley of its group that the job owns (R185, R314; log 181); a valley
that takes nothing now learns of it in its turn (R22, R392). -/
def invalidate (s : State) (q seq : Nat) (vs : List Nat) (l : Nat) : State :=
  vs.foldl (fun s v =>
    if !ownsValley s (getQ s q).job.toNat v then s
    else if valleyTakes s v then slotInvalid s v l (slotStart s v l)
    else let x := getV s v; setV s v { x with inbox := x.inbox ++ [⟨q, seq, l, 0, [], true, slotStart s v l⟩] }) s

/-- A command is not performed (R184): it is logged, completes as ABSENT or SKIPPED_ILLEGAL, performs its signal and taints its queue. -/
def skipCmd (s : State) (q : Nat) (h : Head) (reason : Nat) : State :=
  let job := (getQ s q).job.toNat
  let r := takeHead s q
  let seq := r.2
  let s := logAdd r.1 0x0010 h.index (pageId pgQm) (job + cOp h.c * 64 + reason * 2 ^ 14) (handleOf q seq)
  let s := slCommand s q seq h.c false true
  let s := taint s q h.parent
  let s := if cOp h.c = opCfgWrite || cOp h.c = opPatch then invalidate s q seq (cValleys h.c) (cLslot h.c) else s
  let s := finishCmd s q seq h { status := if reason = 6 then stAbsent else stSkipped, badReason := reason, index := h.recIndex }
  signalOf s q seq h

/-- The head command stands on the cancellation list: it completes as CANCELLED without acting (R230, R231). -/
def cancelHead (s : State) (q : Nat) (h : Head) : State :=
  let r := takeHead s q
  let seq := r.2
  let x := getQ r.1 q
  let s := setQ r.1 q { x with cancels := x.cancels.filter (· ≠ seq) }
  let s := slCommand s q seq h.c false false
  signalOf (finishCmd s q seq h { status := stCancelled }) q seq h

/-! ### Stops and waits -/

/-- A queue stops (R217): commands are fetched and checked anew from HEAD after RESUME. -/
def stopQ (s : State) (q cause : Nat) : State :=
  let x := getQ s q
  evtSet (setQ s q { x.unwait with stopped := true, stopCause := BitVec.ofNat 3 cause, fetched := [], fetchBad := none,
                                   loads := x.loads.map (fun l => { l with checked := false }) }) pgQm 9

/-- Why a head command waits: WAIT_KIND, with the tidemark and value for kind 1 (R214). -/
structure Waits where
  kind  : Nat
  tm    : Nat := 0
  value : Nat := 0
  deriving DecidableEq, Repr

/-- The head command waits; its watchdog runs from when it began to (R228). -/
def setWait (s : State) (q : Nat) (w : Waits) : State :=
  let x := getQ s q
  setQ s q { x with waitKind := BitVec.ofNat 3 w.kind, waitTm := BitVec.ofNat 13 w.tm, waitValue := BitVec.ofNat 64 w.value,
                    waitSince := if x.waits then x.waitSince else islTime s islIo, waitMem := false }

/-- WAITED_MS (R214): I/O die cycles at 1.0 GHz (R227), those of a pause apart (R302). -/
def waitedMs (s : State) (x : Queue) : Nat :=
  let now := if x.paused then x.pausedAt else islTime s islIo
  if !x.waits then 0 else min (2 ^ 32 - 1) (max x.waitFloor ((now - x.waitSince) / 1000000))

/-! ### Stage contexts (R262 to R267) -/

/-- Register `o` of context `x` of die `d`. -/
def seqReg (d x o : Nat) : Nat := bk (pgSeq d + o) x

/-- A binding: die, context, and whether the queue is the B queue. -/
structure Bound where
  die : Nat
  ctx : Nat
  b   : Bool
  deriving DecidableEq, Repr

/-- Every context of the module. -/
def allCtxs : List (Nat × Nat) := (List.range 12).flatMap (fun d => (List.range 8).map (fun x => (d, x)))

/-- The context that binds a queue (R262). -/
def boundTo (s : State) (q : Nat) : Option Bound :=
  allCtxs.findSome? (fun (p : Nat × Nat) =>
    if rb s (seqReg p.1 p.2 0x84) 31 then
      if rf s (seqReg p.1 p.2 0x88) 13 0 = q then some ⟨p.1, p.2, false⟩
      else if rf s (seqReg p.1 p.2 0x88) 29 16 = q then some ⟨p.1, p.2, true⟩
      else none
    else none)

/-- Counters of a context: MB, WARMUP, F_GRANTED, B_GRANTED. -/
structure Counts where
  mb : Nat
  w  : Nat
  f  : Nat
  b  : Nat
  deriving DecidableEq, Repr

def seqCounts (s : State) (d x : Nat) : Counts :=
  ⟨rf s (seqReg d x 0x84) 12 0, rf s (seqReg d x 0x84) 24 13, rf s (seqReg d x 0x90) 12 0, rf s (seqReg d x 0x90) 28 16⟩

/-- Positions of units in a step (R263). -/
def posF (k : Counts) (i : Nat) : Nat := max i (2 * i - k.w)
def posB (k : Counts) (i : Nat) : Nat := min (k.w + 1 + 2 * i) (k.mb + i)

/-- The next grant goes to the B queue (R263). -/
def nextIsB (k : Counts) : Bool := !(decide (k.f < k.mb) && decide (posF k k.f = k.f + k.b))

/-- Position of the next unit of a side; a unit of the next step lies beyond this one's 2 MB. -/
def unitPos (k : Counts) (b : Bool) : Nat :=
  if b then posB k k.b else if k.f < k.mb then posF k k.f else 2 * k.mb

/-- The wait of a unit without its grant (R264); none where it is granted or its queue is not bound. -/
def grantWait (s : State) (q : Nat) : Option Waits :=
  match boundTo s q with
  | some u =>
    let k := seqCounts s u.die u.ctx
    if (nextIsB k == u.b) && clocked s (pgSteward u.die) then none
    else
      let tm := rf s (seqReg u.die u.ctx 0x8C) 12 0
      some { kind := 1, tm := tm, value := (tmGet s tm + unitPos k u.b - (k.f + k.b)) % 2 ^ 64 }
  | none => none

/-- A grant is given (R264). -/
def grantTake (s : State) (q : Nat) : State :=
  match boundTo s q with
  | some u =>
    let d := u.die
    let x := u.ctx
    let s := if u.b then wf s (seqReg d x 0x90) 28 16 (rf s (seqReg d x 0x90) 28 16 + 1)
             else wf s (seqReg d x 0x90) 12 0 (rf s (seqReg d x 0x90) 12 0 + 1)
    let s := tmSignal s (rf s (seqReg d x 0x8C) 12 0) true 1
    let s := inc64 s (seqReg d x 0xA0) 1
    let k := seqCounts s d x
    if k.f = k.mb && k.b = k.mb then
      evtSet (inc32 (wr s (seqReg d x 0x90) 0) (seqReg d x 0x94) 1) (pgSeq d) 8
    else s
  | none => s

end Sys2Proof.Machine
end

