-- ==== Sys2Proof/Machine/Breakwater.lean ====
section
/-! DEFINITION. Breakwater's checks (R178, R179, R183), what a head command waits for (R168, R219, R223, R226, R230, R264, R302), and the
dispatch every queue command goes through (R216). -/

namespace Sys2Proof.Machine

/-- The lowest of a list of reasons; 0 for none. -/
def lowestReason (l : List Nat) : Nat := l.foldl (fun a b => if b = 0 then a else if a = 0 then b else min a b) 0

/-- The reason where a ground holds. -/
def ground (b : Bool) (r : Nat) : Nat := if b then r else 0

/-- Names a valley, stream, tidemark, ring or queue of another job (R179, R221, R230, R314). -/
def notOwned (s : State) (j : Nat) (c : Rec) : Bool :=
  (cValleys c).any (fun v => !ownsValley s j v) || (cOp c = opCopy && !ownsStream s j (wf' c 4 27 16)) ||
  (namedTms c).any (fun t => !ownsTm s j t) || !ownsRing s j (cRing c) ||
  (cOp c = opCancel && !ownsQueue s j (wd c 2 / 2 ^ 50))

/-- The blocks of a command's target. -/
def cPages (c : Rec) : List Nat := match cTarget c with | some t => targetPages t | none => []

/-- Descriptors of a list, judged (R189): BAD_VALUE for one out of range, NOT_OWNED for one that names another job's valley or tidemark;
nothing where the list cannot be read. -/
def judgeList (s : State) (j handle va n : Nat) (ebb : Bool) : State × Nat :=
  let g := nread s j handle va (64 * n)
  if g.failed.isSome then (g.s, 0)
  else
    let ws := words64 g.bytes
    let ds := (List.range n).map (fun i => (ws.drop (8 * i)).take 8)
    (g.s, lowestReason (ds.map (fun d => lowestReason [ground (descForeign s j d) 5, ground (descBad ebb d) 10])))

/-- Some page of a chart lies in host memory (R175). -/
def chartInHost (s : State) (j va n : Nat) : Bool :=
  (pageParts va n).any (fun p => match (xlate s (narReq j 0) (va + p.1) false).2 with | .at a _ => a.host | .fault _ => false)

/-- Word `i` of a command is an address that is a multiple of `n` (R163). -/
def addrOk (c : Rec) (i n : Nat) : Bool := decide (wd c i < 2 ^ 52) && decide (wd c i % n = 0)

/-- Records in memory that a command names, judged where their address is one and they can be read (R163, R175, R178, R189, R249, R276). -/
def judgeRecords (s : State) (j handle : Nat) (c : Rec) : State × Nat :=
  let o := cOp c
  if o = opCopy then
    let ebb := match cTarget c with | some (.engine e) => decide (e.kind = .ebb) | _ => false
    let n := wf' c 4 15 0
    let a := if addrOk c 3 64 then judgeList s j handle (wd c 3) n ebb else (s, 0)
    if bitOf (wd c 4) 28 && addrOk c 5 64 then
      let b := judgeList a.1 j handle (wd c 5) n ebb
      (b.1, lowestReason [a.2, b.2])
    else a
  else if o = opUpdate && addrOk c 6 64 then
    let g := nread s j handle (wd c 6) 128
    (g.s, ground (g.failed.isNone && optBad (bitOf (wd c 7) 13) (words64 g.bytes)) 10)
  else if o = opReduce && addrOk c 6 64 then
    let g := nread s j handle (wd c 6) 64
    (g.s, ground (g.failed.isNone && planBad s.grade (words64 g.bytes)) 10)
  else if o = opCallChart && addrOk c 2 64 then
    if chartInHost s j (wd c 2) 64 then (s, 9)
    else
      let g := nread s j handle (wd c 2) 64
      let h := words64 g.bytes
      (g.s, ground (g.failed.isNone && (chartBad c h || chartInHost g.s j (wd c 2 + 64) (64 * chartLen c h))) 9)
  else (s, 0)

/-- A command judged on the grounds of R179 but for its slot image: the state after the reads made, the lowest reason or 0; the records
it names are not read where no ground of theirs could be the lowest. `atLoad`:
a whole load is checked: ABSENT_TARGET is what is known then, and the records a command names are read (R183, R189, R249, R276). -/
def judge (s : State) (q seq : Nat) (inChart atLoad : Bool) (c : Rec) : State × Nat :=
  let j := (getQ s q).job.toNat
  let o := cOp c
  if !knownOp o then (s, 1)
  else
    let plain := lowestReason [
      ground (reservedField c) 2, ground (!inChart && decide (cPsel c ≠ 0)) 3, ground (hasTarget o && (cTarget c).isNone) 4,
      ground (notOwned s j c) 5, ground (atLoad && (cPages c).any (absentAtLoad s)) 6, ground (inChart && o = opCallChart) 9,
      ground (badOperand c || (ownsRing s j (cRing c) && !(getRing s (cRing c)).enable) ||
              (o = opCancel && decide ((getQ s (wd c 2 / 2 ^ 50)).nextSeq.toNat + 65536 ≤ wd c 2 % 2 ^ 50)) ||
              (o = opReduce && bucketBad c) ||
              (o = opSnap && bitOf (wd c 2) 0 && !(([0, 1, 7] : List Nat).contains (wf' c 2 7 4)))) 10]
    if decide (plain = 0) || decide (5 < plain) then
      if atLoad || o = opCallChart then
        let r := judgeRecords s j (handleOf q seq) c
        (r.1, lowestReason [plain, r.2])
      else (s, plain)
    else (s, plain)

/-! ### Slot images of a load (R178) -/

/-- The two images a load builds for a slot of a valley, by escalation state; the words that depend on a source that cannot be read. -/
structure SlotScan where
  pj4  : Image
  e4m3 : Image
  lost : List Nat := []
  deriving DecidableEq, Repr

/-- What the check of a load has built so far. -/
structure LoadScan where
  s     : State
  slots : List ((Nat × Nat) × SlotScan) := []
  /-- TARGET words of commands that wrote CW0. -/
  cw0   : List Nat := []
  bad   : Option (Nat × Nat) := none

/-- The images of a slot: those the load has built, or the words the slot holds now. -/
def LoadScan.slot (x : LoadScan) (v l : Nat) : SlotScan :=
  match x.slots.find? (fun e => decide (e.1 = (v, l))) with
  | some e => e.2
  | none => let m := ((getV x.s v).slot l).words; ⟨m, m, []⟩

/-- Words stored in an image from word `first` on. -/
def imagePut (m : Image) (first : Nat) (ws : List Word64) : Image :=
  ((List.range ws.length).foldl (fun m i => tput 0 m (first + i) (ws.getD i 0)) m)

/-- Update the images of a command's slot in every valley of its group. -/
def LoadScan.each (x : LoadScan) (c : Rec) (f : SlotScan → SlotScan) : LoadScan :=
  let l := cLslot c
  (cValleys c).foldl (fun x v =>
    { x with slots := ((v, l), f (x.slot v l)) :: x.slots.filter (fun e => decide (e.1 ≠ (v, l))) }) x

/-- Readable words stored in both images. -/
def SlotScan.put (z : SlotScan) (first : Nat) (u w : List Word64) : SlotScan :=
  { pj4 := imagePut z.pj4 first u, e4m3 := imagePut z.e4m3 first w,
    lost := z.lost.filter (fun i => !(decide (first ≤ i) && decide (i < first + u.length))) }

/-- The words a CFG_WRITE source holds, or none where it cannot be read. -/
def cfgSource (s : State) (j handle va n : Nat) : State × Option (List Word64) :=
  let g := nread s j handle va (8 * n)
  (g.s, if g.failed.isSome then none else some (words64 g.bytes))

/-- One command of a load applied to its images. DEDUCED (log 208): where one source of a CFG_WRITE with ESC 1 cannot be read, neither image
of its slot is judged. -/
def LoadScan.apply (x : LoadScan) (j handle : Nat) (c : Rec) : LoadScan :=
  if cOp c = opCfgWrite then
    let first := wf' c 4 8 0
    let n := wf' c 4 18 9
    let a := cfgSource x.s j handle (wd c 3) n
    let b := if bitOf (wd c 4) 19 then cfgSource a.1 j handle (wd c 5) n else a
    let x := { x with s := b.1, cw0 := if first = 0 then wd c 2 :: x.cw0 else x.cw0 }
    match a.2, b.2 with
    | some u, some w => x.each c (fun z => z.put first u w)
    | _, _ => x.each c (fun z => { z with lost := z.lost ++ (List.range n).map (first + ·) })
  else if cOp c = opPatch then
    let first := wf' c 3 8 0
    let ws := (c.drop 4).take (wf' c 3 11 9)
    let x := { x with cw0 := if first = 0 then wd c 2 :: x.cw0 else x.cw0 }
    x.each c (fun z => z.put first ws ws)
  else x

/-- The reason a START of a load is bad (R178, R329): no CW0 written for its slot and group, and so no image built to judge (log 35); an
image out of range, one that names what the job does not own (R314); a Crest unit that is absent. -/
def LoadScan.startReason (x : LoadScan) (j : Nat) (c : Rec) : Nat :=
  let l := cLslot c
  let img := (cValleys c).map (fun v => (v, x.slot v l))
  let any := fun (f : Nat → Image → Bool) => img.any (fun e => e.2.lost.isEmpty && (f e.1 e.2.pj4 || f e.1 e.2.e4m3))
  if !(x.cw0.contains (wd c 2)) then 8
  else lowestReason [
    ground (any (fun v m => (imageForeign x.s j v m).isSome)) 5,
    ground (any (fun v m => usesCrest m && !bitOf (rd x.s (pgValley v + 8)) 8)) 6,
    ground (any (fun _ m => (imageBad x.s.grade m).isSome)) 7]

/-- One command of a load: judged, then applied; one already dispatched is applied alone. -/
def LoadScan.next (x : LoadScan) (q seq : Nat) (inChart gone : Bool) (index : Nat) (c : Rec) : LoadScan :=
  if x.bad.isSome then x
  else if gone then x.apply (getQ x.s q).job.toNat (handleOf q seq) c
  else
    let g := judge x.s q seq inChart true c
    let x := { x with s := g.1 }
    let r := if cOp c = opStart then lowestReason [g.2, x.startReason (getQ x.s q).job.toNat c] else g.2
    if decide (r ≠ 0) then { x with bad := some (index, r) }
    else x.apply (getQ x.s q).job.toNat (handleOf q seq) c

/-- A whole load checked (R178): the lowest index of a bad command with its lowest reason. `gone` of its commands are dispatched
already. -/
def scanLoad (s : State) (q seq : Nat) (inChart : Bool) (gone : Nat) (cmds : List Rec) : State × Option (Nat × Nat) :=
  let x := (List.range cmds.length).foldl (fun (x : LoadScan) i =>
    x.next q (seq + i) inChart (decide (i < gone)) i (cmds.getD i [])) { s := s }
  (x.s, x.bad)

/-! ### Waits -/

/-- Whether a START's slot holds it back (R168): in some valley it is neither LOADED nor, for a START that R185 ends, INVALID. -/
def startWaits (s : State) (c : Rec) : Bool :=
  let l := cLslot c
  (cValleys c).any (fun v =>
    let st := ((getV s v).slot l).st
    slotTaken s v l || !(decide (st = .loaded) || decide (st = .invalid)))

/-- A CANCEL names a command not yet dispatched of a queue whose cancellation list is full (R230). -/
def cancelWaits (s : State) (c : Rec) : Bool :=
  let x := getQ s (wd c 2 / 2 ^ 50)
  decide (x.nextSeq.toNat ≤ wd c 2 % 2 ^ 50) && decide (64 ≤ x.cancels.length)

/-- What a command waits for whether it is performed, skipped or cancelled ahead: a long one for a place for its record (R219), a unit for
its grant (R264, R265). -/
def dutyWait (s : State) (q op : Nat) : Option Waits :=
  if isLong op && decide (64 ≤ pendCount s (getQ s q).job.toNat) then some { kind := 3 }
  else if op = opCallChart then grantWait s q
  else none

/-- What the head command of a queue waits for before it is dispatched. -/
def waitsFor (s : State) (q : Nat) (h : Head) : Option Waits :=
  let c := h.c
  let o := cOp c
  let j := (getQ s q).job.toNat
  let others := fun (p : Op) => decide (h.parent ≠ some p.seq) || decide (p.queue ≠ q)
  if (o = opCfgWrite || o = opPatch) && (cValleys c).any (fun v => slotTaken s v (cLslot c)) then some { kind := 2 }
  else if o = opStart && startWaits s c then some { kind := 2 }
  else if o = opWait && decide (tmGet s (wf' c 2 12 0) < wd c 3) then some { kind := 1, tm := wf' c 2 12 0, value := wd c 3 }
  else if o = opCancel && cancelWaits s c then some { kind := 4 }
  else if o = opFence && s.ops.any (fun p => p.queue = q && others p) then some { kind := 5 }
  else if o = opSnap && s.ops.any (fun p => p.job = j && others p) then some { kind := 5 }
  else dutyWait s q o

/-- The head command of a queue, as it will be numbered. -/
def headKey (s : State) (q : Nat) : Nat × Nat := (q, (getQ s q).nextSeq.toNat)

/-- A SNAP at the head pauses every other queue of its job (R302). -/
def pauseOthers (s : State) (q : Nat) : State :=
  let j := (getQ s q).job
  let k := bk (pgJob + 0x90) j.toNat
  (List.range (rf s k 30 16)).foldl (fun s i =>
    let n := rf s k 13 0 + i
    if n = q then s else setQ s n ((getQ s n).pause (headKey s q) (islTime s islIo))) s

/-- The pause of the SNAP `k` is lifted (R302, R303). -/
def liftPause (s : State) (k : Nat × Nat) : State :=
  (s.queues.map (·.1)).foldl (fun s q =>
    if (getQ s q).pausedBy.contains k then setQ s q ((getQ s q).unpause k (islTime s islIo)) else s) s

/-- A head command that is not dispatched keeps no other queue paused. -/
def pauseOff (s : State) (q : Nat) : State := liftPause s (headKey s q)

/-! ### Dispatch -/

/-- The block sounds from the slack hold: it takes a RELEASE as a wake, latched (R360). -/
def soundsHeld (s : State) (pg : Nat) : Bool := stateOf s pg = 2 && (blk s pg).fromHold && !absentAtLoad s pg

/-- The blocks a command is aimed at are absent now (R182); a SNAP to the partner meets an absent target while mirroring is off or the
partner is down (R305). -/
def absentHead (s : State) (q : Nat) (c : Rec) : Bool :=
  (cPages c).any (fun pg => absentNow s pg && !(decide (cOp c = opRelease) && soundsHeld s pg)) ||
  (cOp c = opSnap && bitOf (wd c 2) 1 &&
    (rf s (bk (pgTwy + 0x8C) (getQ s q).job.toNat) 1 0 = 0 || !rb s (pgTwy + 0x80) 31))

/-- Configuration commands that are bad wait for their slot like good ones, where their group is owned and present. -/
def slotFirst (s : State) (q : Nat) (h : Head) : Bool :=
  (cOp h.c = opCfgWrite || cOp h.c = opPatch) && !(cValleys h.c).isEmpty && (cValleys h.c).all (ownsValley s (getQ s q).job.toNat)

/-- The reason a head command is not performed: absent now in either mode, bad under skip-and-log (R182, R183). -/
def refuseHead (s : State) (q : Nat) (h : Head) : State × Nat :=
  if (getQ s q).skipMode then
    let g := judge s q (getQ s q).nextSeq.toNat h.parent.isSome false h.c
    let s := if cOp h.c = opCallChart then s else g.1
    (s, lowestReason [g.2, ground (absentHead s q h.c) 6])
  else (s, ground (absentHead s q h.c) 6)

/-- The head command of a queue, if it has opcode `op` and the queue dispatches: cancelled ahead, not performed, waiting, or given its
number and performed by `go`. -/
def dispatchBy (s : State) (q op : Nat) (go : State → Nat → Head → State) : State :=
  let x := getQ s q
  match headOf x with
  | none => s
  | some h =>
    if decide (cOp h.c ≠ op) || !mayDispatch s x then s
    else if x.cancels.contains x.nextSeq.toNat then
      match dutyWait s q op with
      | some w => setWait s q w
      | none =>
        let s := if op = opCallChart then grantTake s q else s
        cancelHead (if op = opSnap then pauseOff s q else s) q h
    else
      let busy := if slotFirst s q h && !absentHead s q h.c then waitsFor s q h else none
      match busy with
      | some w => setWait s q w
      | none =>
        let g := refuseHead s q h
        if decide (g.2 ≠ 0) then
          match dutyWait g.1 q op with
          | some w => setWait g.1 q w
          | none =>
            let s := if op = opSnap then pauseOff g.1 q else g.1
            skipCmd (if op = opCallChart then grantTake s q else s) q h g.2
        else
          let s := if op = opSnap then pauseOthers g.1 q else g.1
          match waitsFor s q h with
          | some w => setWait s q w
          | none => let t := takeHead s q; go t.1 t.2 h

/-- A command that is not long: its entry in the strandline, its effect and record, its signal (R165, R166). -/
def shortCmd (s : State) (q seq : Nat) (h : Head) (eff : State → State × CompRec) : State :=
  let r := eff (slCommand s q seq h.c false false)
  signalOf (finishCmd r.1 q seq h r.2) q seq h

/-- A long command handed to its engine by `eff` (R216). -/
def longCmd (s : State) (q seq : Nat) (h : Head) (alt : Bool) (eff : State → State) : State :=
  let s := opAdd (slCommand s q seq h.c alt false) q seq h
  eff (if cOp h.c = opCallChart then s else signalOf s q seq h)

end Sys2Proof.Machine
end

