-- ==== Sys2Proof/Machine/QueueCmds.lean ====
section
/-! DEFINITION. The queue manager's steps: doorbells, fetching, Breakwater's check, the commands without an engine, charts, signals,
completion rings, the watchdog, stops (R162, R175 to R180, R213 to R229). -/

namespace Sys2Proof.Machine

/-! ### Submission -/

/-- DOORBELL (R215): TAIL moves, and the commands added form one load; the 65th unchecked load joins the 64th. -/
def bell (s : State) (q : Nat) (value : Word32) : State :=
  let x := getQ s q
  let v := value.toNat
  if decide (2 ≤ jobState s x.job.toNat) then s
  else if decide (2 ^ 16 ≤ v) || decide (ringLen x ≤ v) then errSet s pgQm 8
  else
    let n := (v + ringLen x - x.tail.toNat % ringLen x) % ringLen x
    let open' := (x.loads.filter (fun l => !l.checked)).length
    let loads :=
      if n = 0 then x.loads
      else if open' < 64 then x.loads ++ [{ count := n }]
      else match x.loads.getLast? with
        | some l => x.loads.dropLast ++ [{ l with count := l.count + n }]
        | none => [{ count := n }]
    setQ s q { x with tail := BitVec.ofNat 16 v, loads := loads }

def doDoorbell (s : State) (fn q : Nat) (value : Word32) : State :=
  guarded s fn (bellAddr q) (fun j => ownsQueue s j q) (fun s => bell s q value)

def execDoorbell (fn q : Nat) (value : Word32) (s : State) : Host.Outcome State Fault Refusal := .next (heldBack (.doorbell fn q value) s (doDoorbell s fn q value))

/-- The queue manager works for this queue: it is enabled, runs, and its job is active. -/
def queueLive (s : State) (x : Queue) : Bool :=
  up s && x.enable && !x.stopped && !x.resetting && decide (jobState s x.job.toNat = 1)

/-- A fetch fault at HEAD (R217): ABORTED_FAULT on the default ring against HEAD_HANDLE, and the queue stops. -/
def fetchStop (s : State) (q : Nat) (r : CompRec) : State :=
  let x := getQ s q
  stopQ (report s q x.nextSeq.toNat x.defaultRing.toNat r) q 4

/-- Fetch the record after those fetched (R213); a fault is met when the queue reaches it. -/
def fetchNext (s : State) (q : Nat) : State :=
  let x := getQ s q
  let ahead := (x.tail.toNat + ringLen x - x.head.toNat % ringLen x) % ringLen x
  let idle := x.replay.isNone && x.fetched.isEmpty
  match x.fetchBad with
  | some r => if idle then fetchStop s q r else s
  | none =>
    if ahead ≤ x.fetched.length then s
    else
      let pos := (x.head.toNat + x.fetched.length) % ringLen x
      let va := x.cmdBase.toNat * 4096 + 64 * pos
      let g := nread s x.job.toNat (handleOf q (x.nextSeq.toNat + x.fetched.length)) va 64
      match g.failed with
      | some r =>
        if idle then fetchStop g.s q r else setQ g.s q { getQ g.s q with fetchBad := some r }
      | none => let x := getQ g.s q; setQ g.s q { x with fetched := x.fetched ++ [words64 g.bytes] }

/-- Under skip-and-log, a head command with a reserved OPCODE, which no other step dispatches, is not performed (R162, R184). -/
def skipUnknown (s : State) (q : Nat) : State :=
  let x := getQ s q
  match headOf x with
  | some h =>
    if !knownOp (cOp h.c) && x.skipMode && mayDispatch s x then
      (if x.cancels.contains x.nextSeq.toNat then cancelHead s q h else skipCmd s q h 1)
    else s
  | none => s

/-- COMMAND_FETCH (R213, R216). -/
def doCommandFetch (s : State) (q : Nat) : State :=
  if queueLive s (getQ s q) then skipUnknown (fetchNext s q) q else s

def execCommandFetch (q : Nat) (s : State) : Host.Outcome State Fault Refusal := .next (heldBack (.commandFetch q) s (doCommandFetch s q))

/-- The CALL_CHART whose replay ends before it begins returns to the head; its sequence number stays taken (R175, R180, R217). -/
def chartBack (s : State) (q : Nat) (c : Rec) : State :=
  let x := getQ s q
  let own := match x.loads with | l :: _ => decide (l.gone.getLast? = some c) | [] => false
  setQ s q { x with replay := none, head := BitVec.ofNat 16 ((x.head.toNat + ringLen x - 1) % ringLen x), loads := loadsBack x.loads own }

/-- LOAD_CHECK (R178, R180): Breakwater checks the load at the head once its records are fetched. A replay is checked as its CALL_CHART is
dispatched (log 182). -/
def doLoadCheck (s : State) (q : Nat) : State :=
  let x := getQ s q
  if !queueLive s x || x.skipMode then s
  else match x.replay with
    | some _ => s
    | none =>
      match x.loads with
      | l :: rest =>
        if l.checked || x.fetched.isEmpty || (x.fetched.length < l.count && x.fetchBad.isNone) then s
        else
          let g := scanLoad s q (x.nextSeq.toNat - l.gone.length) false l.gone.length (l.gone ++ x.fetched.take l.count)
          match g.2 with
          | none => setQ g.1 q { getQ g.1 q with loads := { l with checked := true } :: rest }
          | some (i, reason) =>
            stopQ (report g.1 q x.nextSeq.toNat x.defaultRing.toNat
              { status := stRejected, badReason := reason, index := i }) q 1
      | [] => s

def execLoadCheck (q : Nat) (s : State) : Host.Outcome State Fault Refusal := .next (headBack (.loadCheck q) q s (doLoadCheck s q))

/-! ### Commands without an engine -/

/-- NOP (R162). -/
def doNop (s : State) (q : Nat) : State :=
  dispatchBy s q opNop (fun s seq h => shortCmd s q seq h (fun s => (s, {})))
def execNop (q : Nat) (s : State) : Host.Outcome State Fault Refusal := .next (headBack (.nop q) q s (doNop s q))

/-- SIGNAL (R163, R221): its whole action is its attached signal. -/
def doSignal (s : State) (q : Nat) : State :=
  dispatchBy s q opSignal (fun s seq h => shortCmd s q seq h (fun s => (s, {})))
def execSignal (q : Nat) (s : State) : Host.Outcome State Fault Refusal := .next (headBack (.signal q) q s (doSignal s q))

/-- WAIT (R223): dispatched once its tidemark is at least VALUE. -/
def doWait (s : State) (q : Nat) : State :=
  dispatchBy s q opWait (fun s seq h => shortCmd s q seq h (fun s => (s, {})))
def execWait (q : Nat) (s : State) : Host.Outcome State Fault Refusal := .next (headBack (.wait q) q s (doWait s q))

/-- FENCE (R226): dispatched once every earlier long command's record is written. -/
def doFence (s : State) (q : Nat) : State :=
  dispatchBy s q opFence (fun s seq h => shortCmd s q seq h (fun s => (s, {})))
def execFence (q : Nat) (s : State) : Host.Outcome State Fault Refusal := .next (headBack (.fence q) q s (doFence s q))

/-- SMALL (R208): handed to the Narrows. -/
def doSmall (s : State) (q : Nat) : State :=
  dispatchBy s q opSmall (fun s seq h => longCmd s q seq h false (fun s => smallRun s q seq (getQ s q).job.toNat h.c))
def execSmall (q : Nat) (s : State) : Host.Outcome State Fault Refusal := .next (headBack (.small q) q s (doSmall s q))

/-! ### Charts (R175 to R177) -/

/-- Strandline PARAMS entry: the address, and each word that differs from the previous read there (R372). -/
def slParams (s : State) (j addr : Nat) (ps : List Word64) : State :=
  if !slOn s j then s
  else
    let old := (strand s j).params.find? (fun e => e.1 = addr)
    let diff := (List.range 256).filter (fun i => match old with
      | some e => decide (e.2.getD i 0 ≠ ps.getD i 0)
      | none => true)
    let s := slAdd s j 3 (leBytes 8 addr ++ leBytes 8 0 ++ diff.flatMap (fun i => leBytes 8 i ++ leBytes 8 (ps.getD i 0).toNat))
    let x := strand s j
    setStrand s j { x with params := (addr, ps) :: x.params.filter (fun e => e.1 ≠ addr) }

/-- What reading a chart and its parameter block finds. -/
inductive ChartRead where
  | ok (cmds : List Rec) (params : List Word64)
  | bad
  | failed (r : CompRec)
  deriving DecidableEq, Repr

/-- Read the header, the commands to be replayed and the parameter block (R175, R176). -/
def chartRead (s : State) (j handle : Nat) (c : Rec) : State × ChartRead :=
  let va := wd c 2
  if chartInHost s j va 64 then (s, .bad)
  else
    let g := nread s j handle va 64
    match g.failed with
    | some r => (g.s, .failed r)
    | none =>
      let h := words64 g.bytes
      if chartBad c h then (g.s, .bad)
      else
        let n := chartLen c h
        if chartInHost g.s j (va + 64) (64 * n) then (g.s, .bad)
        else
          let b := nread g.s j handle (va + 64) (64 * n)
          match b.failed with
          | some r => (b.s, .failed r)
          | none =>
            let p := nread b.s j handle (wd c 3) 2048
            match p.failed with
            | some r => (p.s, .failed r)
            | none =>
              let ws := words64 b.bytes
              (p.s, .ok ((List.range n).map (fun i => (ws.drop (8 * i)).take 8)) (words64 p.bytes))

/-- A dispatched CALL_CHART (R175, R177): its replay begins, is rejected whole, or ends because the chart cannot be read. Under
verify-at-load the replay is checked here, so that its grant is taken at dispatch and a rejected one takes none (R178, R264, R265; log
182). -/
def chartStart (s : State) (q seq : Nat) (h : Head) : State :=
  let x := getQ s q
  let j := x.job.toNat
  let r := chartRead s j (handleOf q seq) h.c
  let s := r.1
  match r.2 with
  | .ok cmds ps =>
    let s := slParams s j (wd h.c 3) ps
    let cmds := cmds.map (substRec ps)
    let g := if x.skipMode then (s, none) else scanLoad s q (seq + 1) true 0 cmds
    match g.2 with
    | none =>
      let rep : Replay := { seq := seq, cmd := h.c, cmds := (List.range cmds.length).map (fun i => (i, cmds.getD i [])) }
      settle (grantTake (setQ g.1 q { getQ g.1 q with replay := some rep }) q) pgQm
    | some (i, reason) =>
      stopQ (chartBack (opEnd g.1 q seq { status := stRejected, badReason := reason, index := i }) q h.c) q 1
  | .bad => stopQ (chartBack (opEnd s q seq { status := stRejected, badReason := 9 }) q h.c) q 1
  | .failed r => stopQ (chartBack (opEnd s q seq r) q h.c) q 4

/-- CALL_CHART. -/
def doCallChart (s : State) (q : Nat) : State :=
  dispatchBy s q opCallChart (fun s seq h => longCmd s q seq h false (fun s => chartStart s q seq h))
def execCallChart (q : Nat) (s : State) : Host.Outcome State Fault Refusal := .next (headBack (.callChart q) q s (doCallChart s q))

/-! ### Signals -/

/-- SIGNAL_RELEASE (R222): the next held signal of the queue, once its rule is met. -/
def doSignalRelease (s : State) (q : Nat) : State := if up s then trySignal s q else s
def execSignalRelease (q : Nat) (s : State) : Host.Outcome State Fault Refusal := .next (heldBack (.signalRelease q) s (doSignalRelease s q))

/-! ### The watchdog (R228, R229) -/

/-- The entry of a queue in a stall report. -/
def stallEntry (s : State) (q : Nat) (x : Queue) : StallEntry :=
  let tm := x.waitKind = 1
  { queue := q, waitKind := x.waitKind.toNat, stopped := x.stopped, waitedMs := waitedMs s x,
    tm := if tm then x.waitTm.toNat else 0x1FFF, await := if tm then x.waitValue else 0,
    seen := if tm then BitVec.ofNat 64 (tmGet s x.waitTm.toNat) else 0 }

/-- Capture a job's stall report, or count a miss while one is held. -/
def stallCapture (s : State) (j q : Nat) : State :=
  let t := tget {} s.stalls j
  if t.valid then { s with stalls := tput {} s.stalls j { t with missed := satAdd 16 t.missed 1 } }
  else
    let all := s.queues.filter (fun e => ownsQueue s j e.1 && (e.2.stopped || e.2.waits))
    let t := { t with valid := true, truncated := decide (512 < all.length), trigger := q,
                      entries := (all.take 512).map (fun e => stallEntry s e.1 e.2) }
    evtSet { s with stalls := tput {} s.stalls j t } pgQm 8

/-- The head command that waited too long completes as WAIT_TIMEOUT and the queue stops (R228). -/
def timeOut (s : State) (q : Nat) (h : Head) (w : Waits) : State :=
  let x := getQ s q
  let j := x.job.toNat
  let seq := x.nextSeq.toNat
  let tm := w.kind = 1
  let s := setQ s q { x with waitFloor := max x.waitFloor x.watchdog.toNat, stopped := true }
  let s := stallCapture s j q
  let s := (takeHead s q).1
  let s := logAdd s 0x0012 0xFFFF (pageId pgQm) (j + (if tm then w.tm else 0x1FFF) * 64) (handleOf q seq)
  let r : CompRec := { status := stTimeout, detail := if tm then tmGet s w.tm else 0, index := if tm then w.tm else 0 }
  let s := if isLong (cOp h.c) then opEnd (opAdd s q seq h) q seq r else report s q seq (ringFor s x h.c) r
  let s := if cOp h.c = opSnap then liftPause s (q, seq) else s
  closeReplay (stopQ s q 2) q h

/-- Memory requests of a job's queues can go: its function's Bus Master Enable is 1, and no stack's controller is in init or sounding. -/
def memReady (s : State) (j : Nat) : Bool :=
  s.hl.busMaster.contains (hostFn s (.job j)) &&
  (List.range s.grade.stacks).all (fun h => decide (stateOf s (pgHbm h) ≠ 1) && decide (stateOf s (pgHbm h) ≠ 2))

/-- WATCHDOG_EXPIRY: the condition is tested once more; where it holds now the command proceeds. A head command whose memory requests are
held times out like any other (R407), with no tidemark to name. -/
def doWatchdogExpiry (s : State) (q : Nat) : State :=
  let x := getQ s q
  if !up s || x.stopped || x.paused || !x.waits then s
  else match headOf x with
    | some h =>
      if x.waitMem then (if memReady s x.job.toNat then s else timeOut s q h { kind := 0 })
      else (match waitsFor s q h with | some w => timeOut s q h w | none => s)
    | none => s
def execWatchdogExpiry (q : Nat) (s : State) : Host.Outcome State Fault Refusal := .next (heldBack (.watchdogExpiry q) s (doWatchdogExpiry s q))

/-- STALL_ACK: the held report is released and MISSED cleared (R229). -/
def doStallAck (s : State) (j : Nat) : State := ownReach s pgQm (fun s => { s with stalls := tput {} s.stalls j {} })
def execStallAck (job : Nat) (s : State) : Host.Outcome State Fault Refusal := .next (heldBack (.stallAck job) s (doStallAck s job))

/-! ### Stop and resume (R217) -/

def stopCmd (s : State) (q : Nat) : State := if (getQ s q).stopped then s else stopQ s q 3
def doStop (s : State) (fn q : Nat) : State :=
  guarded s fn (qctxAddr q + 0x30) (fun j => ownsQueue s j q) (fun s => stopCmd s q)
def execStop (fn q : Nat) (s : State) : Host.Outcome State Fault Refusal := .next (heldBack (.stop fn q) s (doStop s fn q))

/-- RESUME; a SNAP at the head of a queue that was stopped while it waited pauses the job's queues anew (R302; log 183). -/
def resumeCmd (s : State) (q : Nat) : State := pauseOff (setQ s q { getQ s q with stopped := false, stopCause := 0 }) q
def doResume (s : State) (fn q : Nat) : State :=
  guarded s fn (qctxAddr q + 0x30) (fun j => ownsQueue s j q) (fun s => resumeCmd s q)
def execResume (fn q : Nat) (s : State) : Host.Outcome State Fault Refusal := .next (heldBack (.resume fn q) s (doResume s fn q))

end Sys2Proof.Machine
end

