-- ==== Sys2Proof/Machine/Berm.lean ====
section
/-! DEFINITION. HBM accesses and the patrol (R236 to R242), and the Berm units: UPDATE (R249 to R256). -/

namespace Sys2Proof.Machine

/-! ### Accesses and the patrol -/

/-- Upsets that have come to stand in a unit since its last access are seen by the next (R240). -/
def hbmUpsetAdd (s : State) (unit : Nat) (upset : List Byte) : State :=
  let u := slice upset 0 68
  let old := tget [] s.hbmUpset unit
  let e := xorBytes u old
  { s with hbmUpset := tput [] s.hbmUpset unit (if e.all (· = 0) then [] else e) }

/-- HBM_ACCESS (R236, R239 to R241): one access of a requester to a unit, reading it or writing all or part of it; the dies report the
corrections they made, `dieCorr`. -/
def doHbmAccess (s : State) (stack unit : Nat) (who : HbmReq) (write : Option (Nat × List Byte)) (upset : HbmUpset) : State :=
  if !up s || !present s (pgHbm stack) || held s (pgHbm stack) || decide (64 * unit ≥ stackBytes) then s
  else
    let u := stack * 2 ^ 30 + unit
    let s := inc32 (hbmUpsetAdd s u upset.flips) (pgHbm stack + 0x98) upset.dieCorr
    match write with
    | none =>
      let g := unitRead s u 0 (some who)
      { g.s with out := g.s.out ++ [.hbm g.bytes (g.bad.any id)] }
    | some (off, bytes) =>
      if off + bytes.length > 64 || bytes.isEmpty then s
      else if bytes.length = 64 then unitWrite s u bytes (some who)
      else (unitMerge s u off bytes (some who)).1

def execHbmAccess (stack unit : Nat) (who : HbmReq) (write : Option (Nat × List Byte)) (upset : HbmUpset) (s : State) :
    Host.Outcome State Fault Refusal := .next (heldBack (.hbmAccess stack unit who write upset) s (doHbmAccess s stack unit who write upset))

/-- Units of a stack (R234). -/
def stackUnits : Nat := stackBytes / 64

/-- The patrol's read of one unit: uncorrectable, the unit is marked poisoned (R242). -/
def patrolUnit (s : State) (stack unit : Nat) : State :=
  let g := unitRead s (stack * 2 ^ 30 + unit) 1 none
  if g.bad.any id then { g.s with hbmPoison := tput false g.s.hbmPoison (stack * 2 ^ 30 + unit) true } else g.s

/-- PATROL_STEP (R242): the next unit in ascending order; HBM_PATROL_STATUS follows. -/
def doPatrolStep (s : State) (stack : Nat) (upset : List Byte) : State :=
  if !up s || !clocked s (pgHbm stack) || !rb s (pgHbm stack + 0x84) 0 then s
  else
    let n := tget 0 s.patrols stack
    let s := patrolUnit (hbmUpsetAdd s (stack * 2 ^ 30 + n) upset) stack n
    let next := if n + 1 < stackUnits then n + 1 else 0
    let s := { s with patrols := tput 0 s.patrols stack next }
    let sweeps := rf s (pgHbm stack + 0x9C) 31 16
    wr s (pgHbm stack + 0x9C) ((if next = 0 then (sweeps + 1) % 2 ^ 16 else sweeps) * 2 ^ 16 + next * 65536 / stackUnits)

def execPatrolStep (stack : Nat) (upset : List Byte) (s : State) : Host.Outcome State Fault Refusal :=
  .next (heldBack (.patrolStep stack upset) s (doPatrolStep s stack upset))

/-! ### The fields of an UPDATE (R163) -/

def uFirst (c : Rec) : Nat := wd c 3
def uCount (c : Rec) : Nat := wf' c 4 31 0
def uLayer (c : Rec) : Nat := wf' c 4 43 32
def uNamed (c : Rec) : Bool := bitOf (wd c 4) 44
def uStep (c : Rec) : Nat := wf' c 5 31 0
def uNormTm (c : Rec) : Nat := wf' c 7 12 0
def uNormWait (c : Rec) : Bool := bitOf (wd c 7) 13

/-- A Berm unit's access for an UPDATE: charged to the owner of its queue (R238); a translation fault is reported as the Narrows'
(R330 names no other requester; log 27). The Narrows walks for it (R322); its data comes to its base die. -/
def bermReq (u : Upd) : Req :=
  { job := u.job, unit := 3, handle := handleOf u.queue u.seq, who := .job u.job,
    data := match cTarget u.cmd with | some (.berm h) => some (.base h) | _ => none }

def bermList (s : State) (stack : Nat) : List Upd := tget [] s.berms stack
def setBerm (s : State) (stack : Nat) (l : List Upd) : State := { s with berms := tput [] s.berms stack l }
def bermFind (s : State) (stack q seq : Nat) : Option Upd := (bermList s stack).find? (fun u => u.queue = q && u.seq = seq && !u.parked)

def bermMod (s : State) (stack q seq : Nat) (f : Upd → Upd) : State :=
  setBerm s stack ((bermList s stack).map (fun u => if u.queue = q && u.seq = seq then f u else u))

/-- Blocks of a unit that are deferred or waiting (R250). -/
def bermDeferred (s : State) (stack : Nat) : Nat := ((bermList s stack).map (fun u => u.waiting.length)).sum

/-! ### Completion (R254) -/

/-- The record of an UPDATE whose blocks are settled, FLAGS without GUARD. -/
def updRec (u : Upd) : CompRec :=
  match u.fault, u.ecc, u.mismatch, u.timeout with
  | some (i, k, va), _, _, _ => { status := stFault, faultKind := k, faultRun := i, detail := if k = 1 then va else 0 }
  | none, some i, _, _ => { status := stEcc, faultRun := i }
  | none, none, some (i, w), _ => { status := stMismatch, faultRun := i, detail := w }
  | none, none, none, some i => { status := stTimeout, faultRun := i }
  | none, none, none, none =>
    { status := stOk, flags := if u.nonfin then flNonfinite else 0,
      detail := if oKind u.opt = 5 then u.sum64 else u.maxW + u.satCount * 2 ^ 32 }

/-- The completion of an UPDATE that settled every block: the guard's judgement and report (R71, R252). -/
def updDone (s : State) (u : Upd) : State × CompRec :=
  if u.cancelled then (s, { status := stCancelled, partialOut := u.touched })
  else
    let r := updRec u
    if r.status = stOk && uNamed u.cmd then
      match guardJudge s u.job (uLayer u.cmd) u.clipSum u.elemSum with
      | some g =>
        (addReport s u.job (uLayer u.cmd) (uStep u.cmd) g, { r with flags := flOr r.flags (if g then flGuard else 0) })
      | none => (s, r)
    else (s, r)

/-- An UPDATE leaves its unit. -/
def updLeave (s : State) (stack q seq : Nat) : State :=
  settle (setBerm s stack ((bermList s stack).filter (fun x => !(x.queue = q && x.seq = seq)))) (pgBerm stack)

/-- An UPDATE ends with a record, and leaves its unit; one in progress whose record has no place yet keeps its own (R219). -/
def updEnd (s : State) (stack : Nat) (u : Upd) (r : CompRec) : State :=
  let s := opEnd s u.queue u.seq r
  if u.started && !u.parked && opKept s u.queue u.seq then
    bermMod s stack u.queue u.seq (fun u => { u with parked := true, normOk := true, claimed := [], waiting := [] })
  else updLeave s stack u.queue u.seq

/-- Every block is committed, skipped, mismatched, stopped or timed out; of a cancelled one, no block is claimed (R254, R255). -/
def Upd.settled (u : Upd) : Bool :=
  u.started && u.claimed.isEmpty && (u.cancelled || (u.normOk && decide (uCount u.cmd ≤ u.next) && u.waiting.isEmpty))

/-- The factor is positive and finite (R253). -/
def clipOk (c : Word32) : Bool := isFinite32 c && flt f32Zero c

/-- The number of the next turn of a unit's UPDATEs (R255). -/
def bermTurn (s : State) (stack : Nat) : Nat := ((bermList s stack).map (fun u => u.turn)).foldl max 0 + 1

/-- The Berm unit reads an UPDATE's optimiser record and checks it again (R249); blocks may be claimed where no norm wait holds them. The
record where it cannot go on. -/
def updStart (s : State) (stack : Nat) (u : Upd) : State × Option CompRec :=
  let g := vread s (bermReq u) (wd u.cmd 6) 128
  match g.failed with
  | some r => (g.s, some r)
  | none =>
    let o := words64 g.bytes
    if optBad (uNormWait u.cmd) o then (errSet g.s (pgBerm stack) 9, some { status := stFault, faultKind := 4 })
    else
      (bermMod g.s stack u.queue u.seq (fun u => { u with started := true, turn := bermTurn g.s stack, opt := o, normOk := !uNormWait u.cmd || decide (oKind o = 5) }),
       none)

/-- The first of the eight UPDATEs in progress that has not started, or that has settled. -/
def bermNext (s : State) (stack : Nat) : Option Upd := ((bermList s stack).take 8).find? (fun u => !u.parked && (!u.started || u.settled))

/-- UPDATEs start in dispatch order while fewer than eight are in progress, and leave when settled (R254, R255). -/
def bermPump : Nat → Nat → State → State
  | 0, _, s => s
  | n + 1, stack, s =>
    match bermNext s stack with
    | none => s
    | some u =>
      if u.settled then let r := updDone s u; bermPump n stack (updEnd r.1 stack u r.2)
      else if !working s (pgBerm stack) then s
      else
        let r := updStart s stack u
        bermPump n stack (match r.2 with | some c => updEnd r.1 stack u c | none => r.1)

/-- Start and complete what can be. -/
def bermSettle (s : State) (stack : Nat) : State := bermPump (2 * (bermList s stack).length + 1) stack s

/-- UPDATE (R249, R255): handed to its unit. -/
def updAdd (s : State) (q seq : Nat) (c : Rec) : State :=
  match cTarget c with
  | some (.berm h) =>
    let u : Upd := { queue := q, seq := seq, job := (getQ s q).job.toNat, cmd := c }
    bermSettle (settle (setBerm s h (bermList s h ++ [u])) (pgBerm h)) h
  | _ => s

def doUpdate (s : State) (q : Nat) : State :=
  dispatchBy s q opUpdate (fun s seq h => longCmd s q seq h false (fun s => updAdd s q seq h.c))

def execUpdate (q : Nat) (s : State) : Host.Outcome State Fault Refusal := .next (headBack (.update q) q s (doUpdate s q))

/-! ### Conditions of a block -/

/-- The lower of two block indices. -/
def lowOpt (o : Option Nat) (i : Nat) : Option Nat := match o with | some k => some (min k i) | none => some i

/-- A block cannot be translated, or lies outside the stack. -/
def Upd.addFault (u : Upd) (i kind va : Nat) : Upd :=
  match u.fault with
  | some (k, _, _) => if k ≤ i then u else { u with fault := some (i, kind, va) }
  | none => { u with fault := some (i, kind, va) }

def Upd.addEcc (u : Upd) (i : Nat) : Upd := { u with ecc := lowOpt u.ecc i }
def Upd.addTimeout (u : Upd) (i : Nat) : Upd := { u with timeout := lowOpt u.timeout i }

def Upd.addMismatch (u : Upd) (i w : Nat) : Upd :=
  match u.mismatch with
  | some (k, _) => if k ≤ i then u else { u with mismatch := some (i, w) }
  | none => { u with mismatch := some (i, w) }

/-- Address of block `i`. -/
def updBlock (u : Upd) (i : Nat) : Nat := uFirst u.cmd + 0x10000 * i

/-! ### KIND 5: the sum of squares (R253) -/

/-- Address and length of a block's gradient (R249). -/
def gradAt (o : Rec) (i : Nat) : Nat × Nat :=
  let n := if oBf16 o then 4096 else 8192
  (wf' o 6 51 0 + i * n, n)

/-- The gradient's elements as FP32. -/
def gradWords (o : Rec) (bytes : List Byte) : List Word32 :=
  (List.range 2048).map (fun p =>
    if oBf16 o then widen .bf16 (leNat (slice bytes (2 * p) 2)) else BitVec.ofNat 32 (leNat (slice bytes (4 * p) 4)))

/-- FP64 codes added, one rounding. -/
def add64 (a : Nat) (b : Num) : Nat := roundNum .fp64 ((decodeNum .fp64 a).add b)

/-- The squares of a block added into the sum, elements in ascending order. -/
def sumSquares (o : Rec) (sum : Nat) (graw : List Word32) : Nat :=
  graw.foldl (fun a x => let g := fmul x (wf32 o 0 32); add64 a (f32 (fmul g g))) sum

/-- One block of a KIND 5 UPDATE. -/
def sumBlock (s : State) (stack : Nat) (u : Upd) : State :=
  let i := u.next
  let at' := gradAt u.opt i
  let g := vread s (bermReq u) at'.1 at'.2
  bermMod g.s stack u.queue u.seq (fun u =>
    let u := { u with next := i + 1 }
    match g.fault with
    | some va => u.addFault i 1 va
    | none => if g.bad.any id then u.addEcc i else { u with sum64 := sumSquares u.opt u.sum64 (gradWords u.opt g.bytes) })

/-! ### Claims (R250) -/

/-- What a claim of block `i` finds, entered in the UPDATE. -/
def claimBlock (s : State) (stack : Nat) (u : Upd) (i : Nat) : State :=
  let r := hdrAt s u.job (handleOf u.queue u.seq) (updBlock u i) (some stack) (.claim (uStep u.cmd))
  let s := r.1
  let h := r.2
  let put := fun (s : State) (f : Upd → Upd) =>
    bermMod s stack u.queue u.seq (fun u => f { u with next := max u.next (i + 1), waiting := u.waiting.filter (· ≠ i) })
  if h.kind ≠ 0 then put s (fun x => x.addFault i h.kind (updBlock u i))
  else if h.poison then put s (fun x => x.addEcc i)
  else match h.claim with
    | .claimed => put s (fun x => { x with claimed := x.claimed ++ [(i, h.word0)] })
    | .skip => put (inc64 s (pgBerm stack + 0x98) 1) id
    | .mismatch => put (errSet s (pgBerm stack) 8) (fun x => x.addMismatch i h.word0)
    | .busy | .defer => put s (fun x => { x with waiting := x.waiting ++ [i] })

/-- A waiting block whose claim would now be settled. -/
def claimRipe (s : State) (stack : Nat) (u : Upd) (i : Nat) : Bool :=
  let h := (hdrAt s u.job (handleOf u.queue u.seq) (updBlock u i) (some stack) (.claim (uStep u.cmd))).2
  decide (h.kind ≠ 0) || h.poison || decide (h.claim ≠ .busy ∧ h.claim ≠ .defer)

/-- The UPDATE has a block to take now: a deferred or waiting one whose wait is over, or the next in ascending order; a unit with 64 deferred
or waiting claims nothing new (R250). -/
def claimReady (s : State) (stack : Nat) (u : Upd) : Bool :=
  !u.parked && u.started && u.normOk && !u.cancelled &&
  ((decide (u.next < uCount u.cmd) && (decide (oKind u.opt = 5) || decide (bermDeferred s stack < 64))) ||
   (decide (oKind u.opt ≠ 5) && u.waiting.any (claimRipe s stack u)))

/-- Of the UPDATEs in progress that have a block to take, this one's turn is the longest ago (R255; log 100). -/
def claimTurn (s : State) (stack : Nat) (u : Upd) : Bool :=
  (bermList s stack).all (fun x => !claimReady s stack x || decide (u.turn ≤ x.turn))

/-- BLOCK_CLAIM: the UPDATE whose turn it is takes its first deferred or waiting block whose wait is over, otherwise its next block
(R250, R255). -/
def doBlockClaim (s : State) (stack q seq : Nat) : State :=
  match bermFind s stack q seq with
  | none => s
  | some u =>
    if !up s || !working s (pgBerm stack) || !claimReady s stack u || !claimTurn s stack u then s
    else
      let s := bermMod s stack q seq (fun x => { x with turn := bermTurn s stack })
      if oKind u.opt = 5 then bermSettle (sumBlock s stack u) stack
      else bermSettle (claimBlock s stack u ((u.waiting.find? (claimRipe s stack u)).getD u.next)) stack

def execBlockClaim (stack q seq : Nat) (s : State) : Host.Outcome State Fault Refusal := .next (heldBack (.blockClaim stack q seq) s (doBlockClaim s stack q seq))

/-! ### Applying a block (R250 to R252) -/

/-- One element: master, moments and widened gradient to their new values, every operation rounded once (R251). -/
def optElem (o : Rec) (clip w m1 m2 graw : Word32) : Word32 × Word32 × Word32 :=
  let lr := wf32 o 1 0
  let wdecay := wf32 o 1 32
  let b1 := wf32 o 2 0
  let b2 := wf32 o 2 32
  let g0 := fmul (fmul graw (wf32 o 0 32)) clip
  let adam := fun (g : Word32) =>
    let m1 := ffma b1 m1 (fmul (fsub f32One b1) g)
    let m2 := ffma b2 m2 (fmul (fsub f32One b2) (fmul g g))
    (m1, m2, fdiv (fmul m1 (wf32 o 3 0)) (fadd (fsqrt (fmul m2 (wf32 o 3 32))) (wf32 o 4 0)))
  match oKind o with
  | 1 =>
    let a := adam g0
    (ffma (fneg lr) a.2.2 (ffma (fneg (fmul lr wdecay)) w w), a.1, a.2.1)
  | 2 =>
    let a := adam (ffma wdecay w g0)
    (ffma (fneg lr) a.2.2 w, a.1, a.2.1)
  | 3 =>
    let g := ffma wdecay w g0
    let m := ffma (wf32 o 4 32) m1 (fmul (wf32 o 5 0) g)
    (ffma (fneg lr) (if oNesterov o then ffma (wf32 o 4 32) m g else m) w, m, m2)
  | _ => (ffma (fneg lr) (ffma wdecay w g0) w, m1, m2)

/-- Arrays of a state copy that a KIND reads and writes (R243): MASTER, M1, M2. -/
def optArrays (o : Rec) : Nat := match oKind o with | 1 | 2 => 3 | 3 => 2 | _ => 1

/-- Words of one array. -/
def arrayWords (l : List Byte) (k : Nat) : List Word32 :=
  (List.range 2048).map (fun p => BitVec.ofNat 32 (leNat (slice l (8192 * k + 4 * p) 4)))

/-- Bytes of an array. -/
def arrayBytes (l : List Word32) : List Byte := l.flatMap (fun w => leBytes 4 w.toNat)

/-- Offset of array `k` of state copy `sel` in its block (R243). -/
def arrayOff (sel k : Nat) : Nat := 0x1000 + 0x8000 * sel + 0x2000 * k

/-- Several reads of a block, in order. -/
def readParts (s : State) (r : Req) (parts : List (Nat × Nat)) : VGot :=
  parts.foldl (fun (g : VGot) p =>
    if g.fault.isSome then g
    else let h := vread g.s r p.1 p.2; ⟨h.s, g.bytes ++ h.bytes, g.bad ++ h.bad, h.fault⟩) ⟨s, [], [], none⟩

/-- Several writes of a block, in order; the faulting address, if any. -/
def writeParts (s : State) (r : Req) (parts : List (Nat × List Byte)) : State × Option Nat :=
  parts.foldl (fun (g : State × Option Nat) p =>
    if g.2.isSome then g else let h := vwrite g.1 r p.1 p.2; (h.s, h.fault)) (s, none)

/-- The PJ4 groups of a block's masters (R252, R62, R67). -/
def updGroups (ws : List Word32) : List Pj4Block := (List.range 32).map (fun j => quantisePj4 ((ws.drop (64 * j)).take 64) [])

/-- The enabled working copies of block `i` in a slot: address and bytes (R249, R252). -/
def workingCopies (o : Rec) (i slot : Nat) (ws : List Word32) : List (Nat × List Byte) :=
  let off := slot * wf' o 12 51 0
  (if oPj4 o then
    [(wf' o 8 51 0 + i * 1024 + off, (updGroups ws).flatMap (fun b => packNibbles b.codes)),
     (wf' o 9 51 0 + i * 64 + off, (updGroups ws).flatMap (fun b => leBytes 2 b.header))] else []) ++
  (if oE4m3 o then
    [(wf' o 10 51 0 + i * 2048 + off, ws.map (fun w => BitVec.ofNat 8 (roundNum .e4m3 (f32 (fmul w (wf32 o 5 32))))))] else []) ++
  (if oWbf16 o then
    [(wf' o 11 51 0 + i * 4096 + off, ws.flatMap (fun w => leBytes 2 (roundNum .bf16 (f32 w))))] else [])

/-- An E4M3 element saturates: its value lies beyond the largest finite, or is an infinity (R51; log 28). -/
def e4m3Sats (o : Rec) (w : Word32) : Bool :=
  match f32 (fabs (fmul w (wf32 o 5 32))) with
  | .inf _ => true
  | x => (Num.fin false 448 0).lt x

/-- The state copies and working copies a block's commit writes: new arrays of copy 1 − SEL, then the working copies. -/
structure Applied where
  arrays : List (List Word32)
  copies : List (Nat × List Byte)

/-- The new values of a block from its arrays and gradient. -/
def applyBlock (o : Rec) (clip : Word32) (i slot : Nat) (bytes : List Byte) : Applied :=
  let n := optArrays o
  let w := arrayWords bytes 0
  let m1 := if 1 < n then arrayWords bytes 1 else List.replicate 2048 0
  let m2 := if 2 < n then arrayWords bytes 2 else List.replicate 2048 0
  let g := gradWords o (bytes.drop (8192 * n))
  let new := (List.range 2048).map (fun p => optElem o clip (w.getD p 0) (m1.getD p 0) (m2.getD p 0) (g.getD p 0))
  { arrays := [new.map (·.1), new.map (·.2.1), new.map (·.2.2)].take n, copies := workingCopies o i slot (new.map (·.1)) }

/-- Bytes the manual leaves undefined (log 12). -/
def undefBytes (s : State) (n : Nat) : State × List Byte :=
  ({ s with freeCount := s.freeCount + 1 }, (List.range n).map (Config.undefinedByte s.freeCount))

/-- What a stopped block had written: the copy that is not current and the working-copy slot hold undefined bytes (R250; log 12). -/
def spoilBlock (s : State) (u : Upd) (i sel slot : Nat) : State :=
  let parts := (List.range (optArrays u.opt)).map (fun k => (updBlock u i + arrayOff (1 - sel) k, 8192)) ++
    (workingCopies u.opt i slot []).zipWith (fun p n => (p.1, n))
      ((if oPj4 u.opt then [1024, 64] else []) ++ (if oE4m3 u.opt then [2048] else []) ++ (if oWbf16 u.opt then [4096] else []))
  parts.foldl (fun s p => let r := undefBytes s p.2; (vwrite r.1 (bermReq u) p.1 r.2).s) s

/-- A claimed block stops: BUSY is cleared without commit (R250). R250 says so of a poisoned read; that an access of it which cannot be
translated stops it in the same way is the MODEL's choice (log 97). -/
def stopBlock (s : State) (stack : Nat) (u : Upd) (i sel slot : Nat) (f : Upd → Upd) : State :=
  let s := spoilBlock s u i sel slot
  let s := match translate s (narReq u.job (handleOf u.queue u.seq)) (updBlock u i) true with
    | (s, some p) => if p.host then s else hdrStop s p.addr (some (.job u.job))
    | (s, none) => s
  bermMod s stack u.queue u.seq (fun u => f { u with claimed := u.claimed.filter (fun e => e.1 ≠ i) })

/-- The sums a committed block adds to its UPDATE (R71, R254). -/
def Upd.addBlock (u : Upd) (i : Nat) (a : Applied) : Upd :=
  let ws := a.arrays.headD []
  let mags := (ws.filter (fun w => decide (f32 w ≠ .nan))).map (fun w => (fabs w).toNat)
  { u with claimed := u.claimed.filter (fun e => e.1 ≠ i),
           nonfin := u.nonfin || a.arrays.any (fun l => l.any (fun w => !isFinite32 w)),
           maxW := mags.foldl max u.maxW,
           satCount := u.satCount + (if oE4m3 u.opt then (ws.filter (e4m3Sats u.opt)).length else 0),
           clipSum := u.clipSum + (if oPj4 u.opt && uNamed u.cmd then ((updGroups ws).map (fun b => hdrCount b.header)).sum else 0),
           elemSum := u.elemSum + (if oPj4 u.opt && uNamed u.cmd then 2048 else 0) }

/-- A claimed block is applied: read, computed, written, committed; or stopped (R250). -/
def commitBlock (s : State) (stack : Nat) (u : Upd) (i w0 : Nat) : State :=
  let o := u.opt
  let sel := hSel w0
  let slot := if hStash w0 then 1 - hVer w0 else hVer w0
  let r := bermReq u
  let g := readParts s r ((List.range (optArrays o)).map (fun k => (updBlock u i + arrayOff sel k, 8192)) ++ [gradAt o i])
  match g.fault with
  | some va => stopBlock g.s stack u i sel slot (fun u => u.addFault i 1 va)
  | none =>
    if g.bad.any id then stopBlock g.s stack u i sel slot (fun u => u.addEcc i)
    else
      let a := applyBlock o u.clip i slot g.bytes
      let arr := (List.range a.arrays.length).map (fun k => (updBlock u i + arrayOff (1 - sel) k, arrayBytes (a.arrays.getD k [])))
      let w := writeParts g.s r (arr ++ a.copies)
      match w.2 with
      | some va => stopBlock w.1 stack u i sel slot (fun u => u.addFault i 1 va)
      | none =>
        let h := hdrAt w.1 u.job (handleOf u.queue u.seq) (updBlock u i) (some stack)
          (.commit (uStep u.cmd) (BitVec.ofNat 64 (handleOf u.queue u.seq)))
        if h.2.ok then
          bermMod (inc64 h.1 (pgBerm stack + 0x90) 1) stack u.queue u.seq (fun u => u.addBlock i a)
        else
          bermMod h.1 stack u.queue u.seq (fun u =>
            let u := { u with claimed := u.claimed.filter (fun e => e.1 ≠ i) }
            if h.2.poison then u.addEcc i else u.addFault i h.2.kind (updBlock u i))

/-- BLOCK_COMMIT (R250): a claimed block is applied and its header committed in one write. A unit entering the hold settles what it has
claimed (R392). -/
def doBlockCommit (s : State) (stack q seq blk : Nat) : State :=
  match bermFind s stack q seq with
  | none => s
  | some u =>
    match u.claimed.find? (fun e => e.1 = blk) with
    | some e => if up s && clocked s (pgBerm stack) then
        bermSettle (commitBlock (bermMod s stack q seq (fun u => { u with touched := true })) stack u blk e.2) stack else s
    | none => s

def execBlockCommit (stack q seq blk : Nat) (s : State) : Host.Outcome State Fault Refusal := .next (heldBack (.blockCommit stack q seq blk) s (doBlockCommit s stack q seq blk))

/-! ### The norm wait (R253) and timeouts -/

/-- The UPDATE waits for its norm tidemark. -/
def Upd.normWaits (u : Upd) : Bool := u.started && !u.normOk && !u.cancelled

/-- The norm tidemark has reached STEP, as unsigned numbers (R253). -/
def normReached (s : State) (u : Upd) : Bool := decide (uStep u.cmd ≤ tmGet s (uNormTm u.cmd))

/-- NORM_WAIT_PASS: the clip factor is read after the tidemark (R223, R253). -/
def doNormWaitPass (s : State) (stack q seq : Nat) : State :=
  match bermFind s stack q seq with
  | none => s
  | some u =>
    if !up s || !working s (pgBerm stack) || !u.normWaits || !normReached s u then s
    else
      let g := vread s (bermReq u) (wf' u.opt 7 51 0) 4
      let c := BitVec.ofNat 32 (leNat g.bytes)
      match g.failed with
      | some r => bermSettle (updEnd g.s stack u r) stack
      | none =>
        if clipOk c then bermSettle (bermMod g.s stack q seq (fun u => { u with normOk := true, clip := c })) stack
        else bermSettle (updEnd g.s stack u { status := stFault, faultKind := 4 }) stack

def execNormWaitPass (stack q seq : Nat) (s : State) : Host.Outcome State Fault Refusal := .next (heldBack (.normWaitPass stack q seq) s (doNormWaitPass s stack q seq))

/-- BERM_WAIT_TIMEOUT: a norm wait ends the UPDATE as WAIT_TIMEOUT with the tidemark's value; a deferred or waiting block is left as it is
(R250, R253). -/
def doBermWaitTimeout (s : State) (stack q seq : Nat) (blk : Option Nat) : State :=
  match bermFind s stack q seq with
  | none => s
  | some u =>
    if !up s || !clocked s (pgBerm stack) then s
    else match blk with
      | none =>
        if u.normWaits && !normReached s u then
          bermSettle (updEnd (errSet s (pgBerm stack) 10) stack u { status := stTimeout, detail := tmGet s (uNormTm u.cmd) }) stack
        else s
      | some i =>
        if u.waiting.contains i then
          bermSettle (bermMod (errSet s (pgBerm stack) 10) stack q seq (fun u =>
            { u with waiting := u.waiting.filter (· ≠ i) }.addTimeout i)) stack
        else s

def execBermWaitTimeout (stack q seq : Nat) (blk : Option Nat) (s : State) : Host.Outcome State Fault Refusal :=
  .next (heldBack (.bermWaitTimeout stack q seq blk) s (doBermWaitTimeout s stack q seq blk))

/-- Cancellation of an UPDATE (R255): claimed blocks settle, nothing more is claimed; one not yet started ends at once. -/
def updCancel (s : State) (stack q seq : Nat) : State :=
  match bermFind s stack q seq with
  | none => s
  | some u =>
    if !u.started then bermSettle (updEnd s stack u { status := stCancelled }) stack
    else bermSettle (bermMod s stack q seq (fun u => { u with cancelled := true, waiting := [] })) stack

/-- The stack a command's UPDATE runs in. -/
def updStack (c : Rec) : Nat := match cTarget c with | some (.berm h) => h | _ => 0

end Sys2Proof.Machine
end

