-- ==== Sys2Proof/Machine/Louber.lean ====
section
/-! DEFINITION. Louber packets, flows and ports (R277 to R281, R292, R408). -/

namespace Sys2Proof.Machine

/-! ### Registers -/

def estReg (j o : Nat) : Nat := bk (pgEst + o) j
def estEnabled (s : State) (j : Nat) : Bool := rb s (estReg j 0x88) 31
def estTwin (s : State) (j : Nat) : Bool := rb s (estReg j 0x88) 30
def estCompare (s : State) (j : Nat) : Bool := estTwin s j && rb s (estReg j 0x88) 29
def estNetJob (s : State) (j : Nat) : Nat := rf s (estReg j 0x88) 15 0

/-- This module's pair role (R293). -/
def pairRole (s : State) : Nat := rf s (pgTwy + 0x80) 8 8

def linkUp (s : State) (p : Nat) : Bool := present s (pgPort p) && rb s (pgPort p + 0x80) 31

/-! ### The header (R278), in network byte order -/

/-- Header fields. -/
structure Louber where
  ver    : Nat := 1
  ty     : Nat
  copy   : Nat
  netJob : Nat
  bucket : Nat
  srcPos : Nat
  step   : Nat
  off    : Nat
  psn    : Nat
  len    : Nat
  planId : Nat
  hops   : Nat
  crc    : Nat
  deriving DecidableEq, Repr

/-- The 32 bytes of a header. -/
def Louber.bytes (h : Louber) : List Byte :=
  [BitVec.ofNat 8 (h.ver * 16 + h.ty % 16), BitVec.ofNat 8 (h.copy * 128)] ++ beBytes 2 h.netJob ++ beBytes 2 h.bucket ++
  beBytes 2 h.srcPos ++ beBytes 4 h.step ++ beBytes 4 h.off ++ beBytes 4 h.psn ++ beBytes 2 h.len ++ beBytes 2 h.planId ++
  [BitVec.ofNat 8 h.hops, 0, 0, 0] ++ beBytes 4 h.crc

/-- The header of a packet. -/
def louberOf (p : List Byte) : Louber :=
  let f := fun o n => beNat (slice p o n)
  { ver := f 0 1 / 16, ty := f 0 1 % 16, copy := f 1 1 / 128, netJob := f 2 2, bucket := f 4 2, srcPos := f 6 2, step := f 8 4,
    off := f 12 4, psn := f 16 4, len := f 20 2, planId := f 22 2, hops := f 24 1, crc := f 28 4 }

/-- The packet with another sequence number. -/
def setPsn (p : List Byte) (psn : Nat) : List Byte := p.take 16 ++ beBytes 4 psn ++ p.drop 20

/-- Payload of a packet. -/
def payload (p : List Byte) : List Byte := slice p 32 (louberOf p).len

/-- A reserved bit of the header is set (R278). -/
def louberRsv (p : List Byte) : Bool :=
  decide ((p.getD 1 0).toNat % 128 ≠ 0) || decide (beNat (slice p 25 3) ≠ 0)

/-- The header breaks R278 on its own: VER, TYPE, reserved bits, NET_JOB. -/
def louberBad (s : State) (p : List Byte) : Bool :=
  let h := louberOf p
  h.ver ≠ 1 || h.ty = 0 || h.ty > 6 || louberRsv p ||
  !((List.range 64).any (fun j => estEnabled s j && decide (estNetJob s j = h.netJob)))

/-- The enabled job a packet names. -/
def louberJob (s : State) (h : Louber) : Nat :=
  ((List.range 64).find? (fun j => estEnabled s j && decide (estNetJob s j = h.netJob))).getD 64

/-- Drop a packet under R278. -/
def rxDrop (s : State) : State := errSet (inc64 s (pgEst + 0xA0) 1) pgEst 9

/-! ### Sending (R277, R279, R280) -/

/-- EST_NET.PRIO. -/
def estPrio (s : State) : Nat := rf s (pgEst + 0x80) 30 28

/-- An IP address from its upper and lower 64 bits. -/
def ipAddr (hi lo : Nat) : List Byte := beBytes 8 hi ++ beBytes 8 lo

/-- An address is IPv4-mapped. -/
def isV4 (ip : List Byte) : Bool := decide (slice ip 0 12 = List.replicate 10 0 ++ [0xFF, 0xFF])

/-- The port's IP register, byte by byte in network byte order (R292). -/
def portIp (s : State) (p : Nat) : List Byte := (List.range 4).flatMap (fun i => leBytes 4 (rd s (pgPort p + 0x90 + 4 * i)))

/-- 16-bit words of a string of bytes in network byte order. -/
def netWords : List Byte → List Nat
  | a :: b :: l => (a.toNat * 2 ^ 8 + b.toNat) :: netWords l
  | [a] => [a.toNat * 2 ^ 8]
  | [] => []

/-- The UDP checksum, over the pseudo header, the UDP header and the packet (R277; PRESUMED from the Internet's standards, log 195). -/
def udpCheck (src dst : List Byte) (sport dport : Nat) (pkt : List Byte) : Nat :=
  let n := 8 + pkt.length
  let x := ((netWords src).sum + (netWords dst).sum + n / 2 ^ 16 + n % 2 ^ 16 + 17 + sport + dport + n + (netWords pkt).sum) % 0xFFFF
  if x = 0 then 0xFFFF else 0xFFFF - x

/-- The frame that carries a packet from a port, or from a sublink of it, to an address (R277, R292). -/
def frameOf (s : State) (p : Nat) (ip mac pkt : List Byte) : Frame :=
  let v4 := isV4 ip
  let addr := fun (a : List Byte) => if v4 then slice a 12 4 else slice a 0 16
  let dport := rf s (pgEst + 0x80) 15 0
  { port := p, srcMac := beBytes 6 (s.hl.mac + 2 * p + (tget 0 s.sublinks p - 1)), dstMac := mac, pcp := estPrio s,
    vid := rf s (pgEst + 0x80) 27 16, v6 := !v4, srcIp := addr (portIp s p), dstIp := addr ip, cls := estPrio s * 8, sport := 49152 + p,
    dport := dport, check := udpCheck (addr (portIp s p)) (addr ip) (49152 + p) dport pkt, pkt := pkt }

/-- A frame leaves a port; a port in breakout mode sends from its sublinks in turn (R292; log 196). -/
def frameOut (s : State) (p : Nat) (ip mac pkt : List Byte) : State :=
  let q := tget 0 s.sublinks p
  let s := { s with out := s.out ++ [.louber (frameOf s p ip mac pkt)], sublinks := if q = 0 then s.sublinks else tput 0 s.sublinks p (3 - q) }
  inc64 s (pgPort p + 0xA0) 1

/-- The port may send now: its link is up and it holds no pause on PRIO (R280). -/
def portSends (s : State) (p : Nat) : Bool := linkUp s p && !s.paused.contains p

/-- Ports of a mask with LINK_UP. -/
def upPorts (s : State) (mask : Nat) : List Nat := (List.range 16).filter (fun p => bitOf mask p && linkUp s p)

/-- Key of a destination module of a job. -/
def destKey (job : Nat) (ip : List Byte) : Nat := job * 2 ^ 128 + beNat (slice ip 0 16)

/-- The next port for a destination, round-robin over the ports with LINK_UP; with none, the lowest of the mask, which keeps the packet
until it can be sent (R280). Where the round begins the manual does not say: the MODEL's choice (log 217) is the lowest port. -/
def pickPort (s : State) (job mask : Nat) (ip : List Byte) : State × Nat :=
  let k := destKey job ip
  let l := upPorts s mask
  let p := match l.find? (fun p => tget 0 s.portTurns k ≤ p) with
    | some p => p
    | none => l.headD (((List.range 16).find? (bitOf mask ·)).getD 0)
  ({ s with portTurns := tput 0 s.portTurns k ((p + 1) % 16) }, p)

/-- A flow is a job's, from one port to one module (R279). -/
def flowIs (job port : Nat) (ip : List Byte) (f : TxFlow) : Bool := f.job = job && f.port = port && decide (f.ip = ip)

/-- Add a packet to a flow under its next number, and send it where the port may send. -/
def flowAdd (s : State) (job port : Nat) (ip mac : List Byte) (mask : Nat) (pkt : List Byte) : State :=
  let f := (s.txFlows.find? (flowIs job port ip)).getD { job := job, port := port, ip := ip }
  let go := portSends s port
  let pkt := setPsn pkt f.next
  let f := { f with next := (f.next + 1) % 2 ^ 32, unacked := f.unacked ++ [⟨f.next, ip, mac, mask, pkt, go⟩] }
  let s := { s with txFlows := s.txFlows.filter (fun g => !flowIs job port ip g) ++ [f] }
  if go then frameOut s port ip mac pkt else settle s (pgPort port)

/-- Send one packet to a module. -/
def louberSend (s : State) (job mask : Nat) (ip mac pkt : List Byte) : State :=
  let r := pickPort s job mask ip
  flowAdd r.1 job r.2 ip mac mask pkt

/-- Send what a port's flows hold unsent, once it may send (R280). -/
def portFlush (s : State) (p : Nat) : State :=
  if !portSends s p then s
  else
    let s' := s.txFlows.foldl (fun s f =>
      if f.port = p then f.unacked.foldl (fun s (x : TxPkt) => if x.sent then s else frameOut s p x.ip x.mac x.pkt) s else s) s
    settle { s' with txFlows := s.txFlows.map (fun f =>
        if f.port = p then { f with unacked := f.unacked.map (fun x => { x with sent := true }) } else f) } (pgPort p)

/-- Packets of the flows on ports without a link, of masks that have a port with one, sent again there under those ports' flows (R280). -/
def moveFlows (s : State) : State :=
  let stuck := s.txFlows.filter (fun f => !linkUp s f.port)
  let s := stuck.foldl (fun s f =>
    let move := f.unacked.filter (fun x => !(upPorts s x.mask).isEmpty)
    let s := { s with txFlows := s.txFlows.map (fun g =>
      if flowIs f.job f.port f.ip g then { g with unacked := g.unacked.filter (fun x => (upPorts s x.mask).isEmpty) } else g) }
    move.foldl (fun s (x : TxPkt) => louberSend s f.job x.mask x.ip x.mac x.pkt) s) s
  stuck.foldl (fun s f => settle s (pgPort f.port)) s

/-! ### Receiving (R279, R281) -/

def rxIs (job srcPort : Nat) (srcIp : List Byte) (f : RxFlow) : Bool :=
  f.job = job && decide (f.srcPort = srcPort) && decide (f.srcIp = srcIp)

def rxFlow (s : State) (job srcPort : Nat) (srcIp : List Byte) : RxFlow :=
  (s.rxFlows.find? (rxIs job srcPort srcIp)).getD { job := job, srcPort := srcPort, srcIp := srcIp }

def setRx (s : State) (f : RxFlow) : State :=
  { s with rxFlows := s.rxFlows.filter (fun g => !rxIs f.job f.srcPort f.srcIp g) ++ [f] }

/-- This module's position for an ACK: of the packet's bucket in its context, else of the plan its job last took; a free value before
any plan has given it one (log 29). -/
def ackSelf (s : State) (job bucket : Nat) : State × Nat :=
  match s.ctxs.find? (fun e => e.2.job = job && decide (wf' e.2.cmd 4 47 32 = bucket) && !e.2.plan.isEmpty) with
  | some e => (s, wf' e.2.plan 0 60 48)
  | none =>
    let p := tget 0 s.estSelf job
    if p = 0 then ({ s with freeCount := s.freeCount + 1 }, (Config.ackPosition s.freeCount).toNat) else (s, p - 1)

/-- An ACK of a flow: the highest number received in order, this module's position, and the other identifiers of the last packet
accepted; it returns to the address the flow comes from, over the port it comes in on, and waits where that port may not send (R278 to
R280; log 29). -/
def ackOut (s : State) (f : RxFlow) : State :=
  if !portSends s f.port then setRx s { f with due := true } else
  let h := louberOf f.last
  let p := ackSelf s f.job h.bucket
  let s := p.1
  let a : Louber := { h with ty := 5, srcPos := p.2, copy := if estTwin s f.job then pairRole s else 0, off := 0,
                             psn := (f.expect + 2 ^ 32 - 1) % 2 ^ 32, len := 0, hops := 0, crc := 0, netJob := estNetJob s f.job }
  setRx (frameOut s f.port f.srcIp f.srcMac a.bytes) { f with unacked := 0, due := false }

/-- What a port holds goes out once it may send: the packets of its flows, then the ACKs that wait (R280). -/
def portGo (s : State) (p : Nat) : State :=
  let s := portFlush s p
  (s.rxFlows.filter (fun f => f.due && decide (f.port = p))).foldl ackOut s

/-- What a numbered packet's number makes of it (R279). -/
inductive Arrival where
  | next | ahead | behind
  deriving DecidableEq, Repr

def arrival (expect psn : Nat) : Arrival :=
  let d := (psn + 2 ^ 32 - expect % 2 ^ 32) % 2 ^ 32
  if d = 0 then .next else if d < 2 ^ 31 then .ahead else .behind

/-- A packet of the next number is accepted; the sixteenth since the last ACK is acknowledged at once (R279). -/
def rxAccept (s : State) (f : RxFlow) (port : Nat) (mac pkt : List Byte) : State :=
  let f := { f with srcMac := mac, expect := (f.expect + 1) % 2 ^ 32, unacked := f.unacked + 1, port := port, last := pkt.take 32 }
  let s := setRx s f
  if 16 ≤ f.unacked then ackOut s f else s

/-- A number already accepted is acknowledged again (R279). -/
def rxAgain (s : State) (f : RxFlow) (port : Nat) (mac pkt : List Byte) : State :=
  ackOut s { f with srcMac := mac, port := port, last := if f.last.isEmpty then pkt.take 32 else f.last }

/-- Bytes of the early store in use: all jobs, one job (R281). -/
def earlyBytes (l : List Early) : Nat := (l.map (fun e => e.pkt.length - 32)).sum

/-- The early store has room for a packet of a job: 32 MiB for all, 8 MiB for one. -/
def earlyRoom (s : State) (job n : Nat) : Bool :=
  decide (earlyBytes s.early + n ≤ 2 ^ 25) && decide (earlyBytes (s.early.filter (fun e => e.job = job)) + n ≤ 2 ^ 23)

/-- Key of LAST_STEP. -/
def lastKey (job bucket : Nat) : Nat := job * 65536 + bucket

/-! ### Ports (R280, R292, R408) -/

/-- A frame of good FCS has come in on a port. -/
def frameIn (s : State) (p : Nat) : State := inc64 s (pgPort p + 0xA8) 1

/-- A Louber frame has come in: a receive buffer that passes three quarters full sends a pause frame on PRIO (R280, R292). -/
def louberIn (s : State) (p : Nat) (src : UdpSrc) : State :=
  let s := frameIn s p
  if src.fills then inc64 (inc64 { s with out := s.out ++ [.pause p (estPrio s)] } (pgPort p + 0xA0) 1) (pgPort p + 0xC0) 1 else s

/-- The port takes frames: it is fitted and trained, and the module is up. -/
def portTakes (s : State) (p : Nat) : Bool := up s && linkUp s p

/-- LOUBER_ACK_SEND (R279). -/
def doLouberAckSend (s : State) (job srcPort : Nat) (srcIp : List Byte) : State :=
  if !up s || !clocked s pgEst then s
  else match s.rxFlows.find? (rxIs job srcPort srcIp) with
    | some f => if f.unacked = 0 || !portSends s f.port then s else ackOut s f
    | none => s

def execLouberAckSend (job srcPort ipHi ipLo : Nat) (s : State) : Host.Outcome State Fault Refusal :=
  .next (doLouberAckSend s job srcPort (ipAddr ipHi ipLo))

/-- RESEND_TIMEOUT (R279): every unacknowledged packet of the flow, in order, from the first. -/
def doResendTimeout (s : State) (job port : Nat) (ip : List Byte) : State :=
  if !up s || !clocked s pgEst || !portSends s port then s
  else match s.txFlows.find? (flowIs job port ip) with
    | some f => f.unacked.foldl (fun s (x : TxPkt) => inc64 (frameOut s port x.ip x.mac x.pkt) (pgEst + 0xB0) 1) s
    | none => s

def execResendTimeout (job port ipHi ipLo : Nat) (s : State) : Host.Outcome State Fault Refusal :=
  .next (doResendTimeout s job port (ipAddr ipHi ipLo))

/-- PAUSE_FRAME (R280, R292): a pause on PRIO holds the port's sending. -/
def doPauseFrame (s : State) (port prio : Nat) : State :=
  if !portTakes s port then s
  else
    let s := frameIn s port
    if prio ≠ estPrio s then s
    else
      let s := inc64 s (pgPort port + 0xB8) 1
      if s.paused.contains port then s else { s with paused := s.paused ++ [port] }

def execPauseFrame (port prio : Nat) (s : State) : Host.Outcome State Fault Refusal := .next (doPauseFrame s port prio)

/-- PAUSE_EXPIRY (R280): the pause ends and the port sends what it holds. -/
def doPauseExpiry (s : State) (port : Nat) : State :=
  if up s then portGo { s with paused := s.paused.filter (· ≠ port) } port else s

def execPauseExpiry (port : Nat) (s : State) : Host.Outcome State Fault Refusal := .next (doPauseExpiry s port)

/-- OTHER_FRAME (R292, R408): dropped with its counter. -/
def doOtherFrame (s : State) (port : Nat) (kind : FrameKind) : State :=
  if !portTakes s port then s
  else match kind with
    | .badFcs => errSet (inc64 s (pgPort port + 0xB0) 1) (pgPort port) 8
    | .other | .oversized | .pause8023x => inc64 (frameIn s port) (pgPort port + 0xC8) 1

def execOtherFrame (port : Nat) (kind : FrameKind) (s : State) : Host.Outcome State Fault Refusal := .next (doOtherFrame s port kind)

/-- The port works in breakout mode: as it last trained, or, while it is down, as it will train (R292). -/
def breakout (s : State) (port : Nat) : Bool :=
  if rf s (pgPort port + 0x80) 30 29 = 0 then rb s (pgPort port + 0x80) 28 else decide (tget 0 s.sublinks port ≠ 0)

/-- The registers of a port whose link takes a speed (R292): 0 down, 1 one sublink, 2 the port or both sublinks. A link that was down has
trained, and BREAKOUT takes effect. -/
def linkMark (s : State) (port speed : Nat) : State :=
  let s := if decide (speed ≠ 0) && decide (rf s (pgPort port + 0x80) 30 29 = 0) then
      { s with sublinks := tput 0 s.sublinks port (b2n (rb s (pgPort port + 0x80) 28)) } else s
  let was := rb s (pgPort port + 0x80) 31
  let now := decide (speed = 2)
  let s := wf (wf s (pgPort port + 0x80) 31 31 (b2n now)) (pgPort port + 0x80) 30 29 speed
  let s := if was = now then s else evtSet s (pgPort port) 8
  if now then s else { s with paused := s.paused.filter (· ≠ port) }

/-- The link of a port takes a speed, and packets move to where they can be sent (R280). -/
def linkSet (s : State) (port speed : Nat) : State := portGo (moveFlows (linkMark s port speed)) port

/-- LINK_CHANGE. One sublink alone comes up only in breakout mode (R292, R408). -/
def doLinkChange (s : State) (port speed : Nat) : State :=
  if up s && clocked s (pgPort port) && decide (speed ≤ 2) && (decide (speed ≠ 1) || breakout s port) then
    linkSet (if rb s (pgPort port + 0x80) 31 && decide (speed ≠ 2) then ckptEvent s 3 else s) port speed
  else s

def execLinkChange (port speed : Nat) (s : State) : Host.Outcome State Fault Refusal := .next (doLinkChange s port speed)

/-- RETRAIN (R292): the link goes down for its training. -/
def doRetrain (s : State) (port : Nat) : State :=
  ownGuard s (pgPort port) (fun s => if clocked s (pgPort port) then linkSet s port 0 else s)

def execRetrain (port : Nat) (s : State) : Host.Outcome State Fault Refusal := .next (doRetrain s port)

end Sys2Proof.Machine
end

