-- ==== Sys2Proof/Machine/Estuary.lean ====
section
/-! DEFINITION. Estuary: REDUCE, bucket contexts, the ring and the two-level tree (R274 to R290). -/

namespace Sys2Proof.Machine

/-! ### The fields of a REDUCE (R163) -/

def rdAddr (c : Rec) : Nat := wd c 3
def rdBytes (c : Rec) : Nat := wf' c 4 31 0
def rdBucket (c : Rec) : Nat := wf' c 4 47 32
def rdFillTm (c : Rec) : Nat := wf' c 4 60 48
def rdStep (c : Rec) : Nat := wf' c 5 31 0
def rdFill (c : Rec) : Nat := wf' c 5 63 32
def rdPlan (c : Rec) : Nat := wd c 6

/-- Packets of the bucket. -/
def rdPackets (c : Rec) : Nat := rdBytes c / 8192

/-- First packet of segment `k` of `n` (R282). -/
def partFirst (q n k : Nat) : Nat := k * q / n

/-- Packets of segment `k`. -/
def partPackets (q n k : Nat) : List Nat := (List.range (partFirst q n (k + 1) - partFirst q n k)).map (partFirst q n k + ·)

/-- The segment that holds packet `p`. -/
def partOf (q n p : Nat) : Nat := ((List.range n).find? (fun k => decide (p < partFirst q n (k + 1)))).getD 0

/-! ### Contexts -/

def getCtx (s : State) (x : Nat) : Ctx := tget {} s.ctxs x
def setCtx (s : State) (x : Nat) (c : Ctx) : State := { s with ctxs := tput {} s.ctxs x c }

/-- The context's exchange has not ended: ARMED, EXCHANGING or SPREADING (R287). -/
def Ctx.live (c : Ctx) : Bool := c.st = .armed || c.st = .exchanging || c.st = .spreading

/-- EXCHANGING or SPREADING. -/
def Ctx.moving (c : Ctx) : Bool := c.st = .exchanging || c.st = .spreading

/-- Estuary's access for a REDUCE: charged to its owner (R238); a translation fault is reported as the Narrows' (log 27). -/
def ctxReq (c : Ctx) : Req := { job := c.job, unit := 3, handle := handleOf c.queue c.seq, who := .job c.job }

def Ctx.n (c : Ctx) : Nat := pN c.plan
def Ctx.me (c : Ctx) : Nat := pSelf c.plan
def Ctx.q (c : Ctx) : Nat := rdPackets c.cmd
/-- The leader of a position, the leaders, this module's leader number (R283). -/
def Ctx.leader (c : Ctx) (i : Nat) : Nat := pGroup c.plan * (i / pGroup c.plan)
def Ctx.leaders (c : Ctx) : Nat := cdiv c.n (pGroup c.plan)
def Ctx.leads (c : Ctx) : Bool := decide (c.leader c.me = c.me)
/-- The other members of this leader's group. -/
def Ctx.members (c : Ctx) : List Nat :=
  (List.range c.n).filter (fun i => decide (i ≠ c.me) && decide (c.leader i = c.me))
/-- The other leaders' positions. -/
def Ctx.peers (c : Ctx) : List Nat :=
  ((List.range c.leaders).map (· * pGroup c.plan)).filter (fun i => decide (i ≠ c.me))
def Ctx.pred (c : Ctx) : Nat := (c.me + c.n - 1) % c.n
def Ctx.succ (c : Ctx) : Nat := (c.me + 1) % c.n

/-- Positions the context exchanges with: those it awaits data from or sends data to (R287). -/
def Ctx.group (c : Ctx) : List Nat :=
  if pTree c.plan then (if c.leads then c.members ++ c.peers else [c.leader c.me])
  else if c.pred = c.succ then [c.pred] else [c.pred, c.succ]

/-- The round of a ring in which packet `num` comes from the predecessor: of the reduce-scatter, of the all-gather (R282). -/
def Ctx.scatterRound (c : Ctx) (num : Nat) : Nat := (c.pred + c.n - partOf c.q c.n num) % c.n
def Ctx.gatherRound (c : Ctx) (num : Nat) : Nat := (c.pred + 1 + c.n - partOf c.q c.n num) % c.n

/-- The contents a context still awaits, in the order of its exchange: TYPE, position, packet, HOPS (R282, R283, R288). HOPS is a byte,
and a ring's count beyond 255 goes on from 0 (log 197). -/
def Ctx.awaited (c : Ctx) : List (Nat × Nat × Nat × Nat) :=
  if pTree c.plan then
    if c.leads then
      c.members.flatMap (fun i => (List.range c.q).map (fun p => (3, i, p, 1))) ++
      c.peers.flatMap (fun i => (partPackets c.q c.leaders (c.me / pGroup c.plan)).map (fun p => (3, i, p, 2))) ++
      c.peers.flatMap (fun i => (partPackets c.q c.leaders (i / pGroup c.plan)).map (fun p => (4, i, p, 3)))
    else (List.range c.q).map (fun p => (4, c.leader c.me, p, 4))
  else
    (List.range (c.n - 1)).flatMap (fun r =>
      (partPackets c.q c.n ((c.pred + c.n - r) % c.n)).map (fun p => (1, c.pred, p, (r + 1) % 2 ^ 8))) ++
    (List.range (c.n - 1)).flatMap (fun r =>
      (partPackets c.q c.n ((c.pred + 1 + c.n - r) % c.n)).map (fun p => (2, c.pred, p, (c.n + r) % 2 ^ 8)))

/-- A packet's content, without its copy, has been received. -/
def Ctx.has (c : Ctx) (ty pos num hops : Nat) : Bool :=
  c.seen.any (fun e => e.ty = ty && e.pos = pos && e.num = num && e.hops = hops)

/-! ### Completion (R287) -/

/-- A Louber packet of a context without its sequence number. -/
def ctxPacket (s : State) (c : Ctx) (ty num hops : Nat) (body : List Byte) : List Byte :=
  ({ ty := ty, copy := if estTwin s c.job then pairRole s else 0, netJob := estNetJob s c.job, bucket := rdBucket c.cmd, srcPos := c.me,
     step := rdStep c.cmd, off := num * 8192, psn := 0, len := body.length, planId := pPlanId c.plan, hops := hops,
     crc := if body.isEmpty then 0 else crc32c body } : Louber).bytes ++ body

/-- The plan's entry of a position, read and checked when first needed (R276). -/
def ctxEntry (s : State) (x pos : Nat) : State × Except CompRec Rec :=
  let c := getCtx s x
  match tget [] c.entries pos with
  | [] =>
    let g := vread s (ctxReq c) (rdPlan c.cmd + 64 * (pos + 1)) 64
    match g.failed with
    | some r => (g.s, .error r)
    | none =>
      let e := words64 g.bytes
      if planEntryBad e then (errSet g.s pgEst 8, .error { status := stFault, faultKind := 4 })
      else (setCtx g.s x { c with entries := tput [] c.entries pos e }, .ok e)
  | e => (s, .ok e)

/-- IP and MAC of the module of a copy at a position (R276). -/
def entryAddr (e : Rec) (copy : Nat) : List Byte × List Byte :=
  let b := bytes64 e
  (slice b (16 * copy) 16, slice b (32 + 8 * copy) 6)

/-- What an action of a context answers: the state, and the record where the REDUCE cannot go on. -/
abbrev Act := State × Option CompRec

def Act.bind (a : Act) (f : State → Act) : Act := match a.2 with | none => f a.1 | some _ => a

/-- Send one packet to a position: to both its modules in twin mode (R280, R285). -/
def ctxSend (s : State) (x pos ty num hops : Nat) (body : List Byte) : Act :=
  let r := ctxEntry s x pos
  match r.2 with
  | .error e => (r.1, some e)
  | .ok e =>
    let c := getCtx r.1 x
    ((if estTwin r.1 c.job then [0, 1] else [0]).foldl (fun s k =>
      louberSend s c.job (pPorts c.plan) (entryAddr e k).1 (entryAddr e k).2 (ctxPacket s c ty num hops body)) r.1, none)

/-- A context's REDUCE ends with a record, and ABORTs go out where R287 sends them. -/
def ctxEnd (s : State) (x : Nat) (r : CompRec) (abort : Bool) : State :=
  let c := getCtx s x
  let s := if abort then c.group.foldl (fun s i => (ctxSend s x i 6 0 0 []).1) s else s
  let c := getCtx s x
  let s := setCtx s x { c with st := .done, held := [], sums := [] }
  let k := lastKey c.job (rdBucket c.cmd)
  let s := { s with estLast := tput 0 s.estLast k (max (tget 0 s.estLast k) (rdStep c.cmd)) }
  let s := if r.status = stLate then evtSet s pgEst 9 else s
  settle (opEnd s c.queue c.seq { r with partialOut := c.partialOut }) pgEst

/-- The record of a failed action: a plan that fails its check sends nothing (R276). -/
def ctxFail (s : State) (x : Nat) (r : CompRec) : State := ctxEnd s x r (r.faultKind ≠ 4)

/-- Twin copies that never arrived: contents received in one copy only (R286). -/
def missingCopies (c : Ctx) : Nat :=
  (c.seen.filter (fun e => !(c.seen.any (fun d => d.ty = e.ty && d.pos = e.pos && d.num = e.num && d.hops = e.hops &&
    decide (d.copy ≠ e.copy))))).length

/-- The segment this module owns has been written: a ring's position j owns segment j + 1, leader l segment l (R282, R283, R287). -/
def Ctx.ownDone (c : Ctx) : Bool :=
  let own := if pTree c.plan then (if c.leads then partPackets c.q c.leaders (c.me / pGroup c.plan) else [])
             else partPackets c.q c.n ((c.me + 1) % c.n)
  own.all (fun p => c.written.any (fun e => e.1 = p))

/-- The context moves on: to SPREADING, and to DONE once the whole result is written (R287). -/
def ctxMove (s : State) (x : Nat) : State :=
  let c := getCtx s x
  let s := if c.st = .exchanging && c.ownDone then setCtx s x { c with st := .spreading } else s
  let c := getCtx s x
  if c.st = .spreading && decide (c.written.length = c.q) then
    let s := slInput s c.job (handleOf c.queue c.seq) 0 (c.written.flatMap (·.2))
    ctxEnd s x { status := stOk, flags := if c.nonfin then flNonfinite else 0,
                 detail := c.mismatch % 2 ^ 32 + (if estTwin s c.job then missingCopies c else 0) * 2 ^ 32 } false
  else s

/-! ### Contributions and the result -/

/-- The FP32 words of a payload. -/
def wordsOf (b : List Byte) : List Word32 := (List.range (b.length / 4)).map (fun i => BitVec.ofNat 32 (leNat (slice b (4 * i) 4)))

/-- Its bytes. -/
def wordBytes (l : List Word32) : List Byte := l.flatMap (fun w => leBytes 4 w.toNat)

/-- This module's contribution to a packet, widened to FP32 (R274). A poisoned unit ends the REDUCE with its offset (R287). -/
def ownPart (s : State) (x num : Nat) : State × Except CompRec (List Word32) :=
  let c := getCtx s x
  let n := if pFp32 c.plan then 8192 else 4096
  let g := vread s (ctxReq c) (rdAddr c.cmd + n * num) n
  match g.fault with
  | some va => (g.s, .error { status := stFault, faultKind := 1, detail := va })
  | none =>
    if g.bad.any id then
      (g.s, .error { status := stEcc, detail := n * num + 64 * ((g.bad.takeWhile (fun b => !b)).length / 64) })
    else (g.s, .ok (if pFp32 c.plan then wordsOf g.bytes
                    else (List.range 2048).map (fun i => widen .bf16 (leNat (slice g.bytes (2 * i) 2)))))

/-- Write a packet of the result (R282, R283, R287). -/
def resultPut (s : State) (x num : Nat) (ws : List Word32) : Act :=
  let c := getCtx s x
  let w := vwrite s (ctxReq c) (pResult c.plan + 8192 * num) (wordBytes ws)
  match w.fault with
  | some va =>
    (if w.stored then setCtx w.s x { c with partialOut := true } else w.s, some { status := stFault, faultKind := 1, detail := va })
  | none =>
    (setCtx w.s x { c with written := tput [] c.written num (wordBytes ws), partialOut := true,
                           nonfin := c.nonfin || ws.any (fun v => !isFinite32 v) }, none)

/-- Element-wise sums, the received or running value first, each rounded once (R282, R283). -/
def addWords : List Word32 → List Word32 → List Word32
  | a :: r, b :: t => fadd a b :: addWords r t
  | l, [] => l
  | [], _ => []

/-! ### The ring (R282) -/

/-- A SCATTER packet arrives: added to the own contribution, then forwarded, or written and sent on as GATHER. -/
def ringScatter (s : State) (x num : Nat) (ws : List Word32) : Act :=
  let c := getCtx s x
  let hops := c.scatterRound num + 1
  let o := ownPart s x num
  match o.2 with
  | .error r => (o.1, some r)
  | .ok own =>
    let sum := addWords ws own
    if hops = c.n - 1 then
      (resultPut o.1 x num sum).bind (fun s => ctxSend s x c.succ 2 num c.n (wordBytes sum))
    else ctxSend o.1 x c.succ 1 num (hops + 1) (wordBytes sum)

/-- A GATHER packet arrives: written, and forwarded but for the last round. -/
def ringGather (s : State) (x num : Nat) (ws : List Word32) : Act :=
  let c := getCtx s x
  let hops := c.n + c.gatherRound num
  (resultPut s x num ws).bind (fun s =>
    if hops = c.n + (c.n - 2) then (s, none) else ctxSend s x c.succ 2 num (hops + 1) (wordBytes ws))

/-! ### The tree (R283) -/

/-- Send a packet to several positions. -/
def sendAll (s : State) (x : Nat) (ps : List Nat) (ty num hops : Nat) (ws : List Word32) : Act :=
  ps.foldl (fun (a : Act) i => a.bind (fun s => ctxSend s x i ty num hops (wordBytes ws))) (s, none)

def getSum (c : Ctx) (num : Nat) : TreeSum := tget {} c.sums num
/-- Strandline ORDER entry: bucket, step, offset, the addends so far (R372; log 24). -/
def slOrder (s : State) (c : Ctx) (num : Nat) (order : List Nat) : State :=
  slAdd s c.job 6 (leBytes 4 (rdBucket c.cmd) ++ leBytes 4 (rdStep c.cmd) ++ leBytes 8 (num * 8192) ++ order.flatMap (leBytes 2))

def setSum (s : State) (x num : Nat) (t : TreeSum) : State :=
  let c := getCtx s x
  setCtx s x { c with sums := tput {} c.sums num t }

/-- A full packet at its leader: written, sent to the other leaders and to the members. -/
def sumFull (s : State) (x num : Nat) (ws : List Word32) : Act :=
  let c := getCtx s x
  ((resultPut s x num ws).bind (fun s => sendAll s x c.peers 4 num 3 ws)).bind (fun s => sendAll s x c.members 4 num 4 ws)

/-- A leader's sum of a packet has changed: the group's sum whole, it is sent to its leader; of the own segment, the leaders' are added
and the full packet spreads. -/
def sumCheck (s : State) (x num : Nat) : Act :=
  let c := getCtx s x
  let t := getSum c num
  let own := decide (partOf c.q c.leaders num = c.me / pGroup c.plan)
  if t.members < c.members.length then (s, none)
  else if !own then ctxSend s x (partOf c.q c.leaders num * pGroup c.plan) 3 num 2 (wordBytes t.words)
  else
    let r := t.early.foldl (fun (r : State × TreeSum) (e : Nat × List Word32) =>
      let t := { r.2 with words := addWords e.2 r.2.words, leaders := r.2.leaders + 1, order := r.2.order ++ [e.1] }
      (slOrder r.1 c num t.order, t)) (s, t)
    let t := { r.2 with early := [] }
    let s := setSum r.1 x num t
    if t.leaders = c.peers.length then sumFull s x num t.words else (s, none)

/-- The leader's sum of a packet, begun with its own contribution. -/
def sumBegin (s : State) (x num : Nat) : State × Except CompRec TreeSum :=
  let t := getSum (getCtx s x) num
  if t.words.isEmpty then
    let o := ownPart s x num
    (o.1, match o.2 with | .error r => .error r | .ok w => .ok { t with words := w })
  else (s, .ok t)

/-- An UP packet arrives at a leader: a member's of HOPS 1, a leader's of HOPS 2, added in order of arrival. -/
def sumUp (s : State) (x pos num hops : Nat) (ws : List Word32) : Act :=
  let r := sumBegin s x num
  match r.2 with
  | .error e => (r.1, some e)
  | .ok t =>
    let c := getCtx r.1 x
    let t :=
      if hops = 1 then { t with words := addWords ws t.words, members := t.members + 1, order := t.order ++ [pos] }
      else { t with early := t.early ++ [(pos, ws)] }
    let s := setSum (if hops = 1 then slOrder r.1 c num t.order else r.1) x num t
    if hops = 2 && t.members < c.members.length then (s, none) else sumCheck s x num

/-- A DOWN packet arrives: written, and from a leader to a leader sent on to the members. -/
def sumDown (s : State) (x num hops : Nat) (ws : List Word32) : Act :=
  let c := getCtx s x
  (resultPut s x num ws).bind (fun s => if hops = 3 then sendAll s x c.members 4 num 4 ws else (s, none))

/-! ### Packets of a context -/

/-- The content is one this context's topology expects at some time from that position (R278). -/
def Ctx.expects (c : Ctx) (h : Louber) : Bool :=
  decide (h.off % 8192 = 0) && decide (h.off < rdBytes c.cmd) && decide (0 < h.len) && decide (h.len ≤ 8192) && decide (h.len % 4 = 0) &&
  (let num := h.off / 8192
   if pTree c.plan then
     let l := c.me / pGroup c.plan
     if h.ty = 3 then
       c.leads && ((h.hops = 1 && c.members.contains h.srcPos) ||
                   (h.hops = 2 && c.peers.contains h.srcPos && decide (partOf c.q c.leaders num = l)))
     else if h.ty = 4 then
       (c.leads && h.hops = 3 && c.peers.contains h.srcPos && decide (partOf c.q c.leaders num = h.srcPos / pGroup c.plan)) ||
       (!c.leads && h.hops = 4 && decide (h.srcPos = c.leader c.me))
     else false
   else
     decide (h.srcPos = c.pred) &&
     (if h.ty = 1 then decide (c.scatterRound num + 1 < c.n) && decide (h.hops = (c.scatterRound num + 1) % 2 ^ 8)
      else if h.ty = 2 then decide (c.gatherRound num + 1 < c.n) && decide (h.hops = (c.n + c.gatherRound num) % 2 ^ 8)
      else false))

/-- A twin copy that differs from the first: counted and logged (R286). -/
def twinMismatch (s : State) (x : Nat) (h : Louber) : State :=
  let c := getCtx s x
  let s := setCtx s x { c with mismatch := c.mismatch + 1 }
  let s := evtSet (inc64 s (pgEst + 0xB8) 1) pgEst 8
  logAdd s 0x0020 h.bucket (pageId pgEst) (c.job + h.srcPos * 64) (h.step * 2 ^ 32 + h.off)

/-- The content is received for the first time: entered, and used by its type. -/
def useContent (s : State) (x : Nat) (h : Louber) (ws : List Word32) : Act :=
  let num := h.off / 8192
  match h.ty with
  | 1 => ringScatter s x num ws
  | 2 => ringGather s x num ws
  | 3 => sumUp s x h.srcPos num h.hops ws
  | _ => sumDown s x num h.hops ws

/-- A data packet at a moving context: a copy already consumed is discarded, a second copy compared, a first one used (R280, R285, R286). -/
def ctxData (s : State) (x : Nat) (pkt : List Byte) : State :=
  let c := getCtx s x
  let h := louberOf pkt
  let num := h.off / 8192
  if !c.moving || !c.expects h then s
  else
    let same := fun (e : Seen) => e.ty = h.ty && e.pos = h.srcPos && e.num = num && e.hops = h.hops
    let s' := setCtx s x { c with seen := c.seen ++ [⟨h.ty, h.srcPos, h.copy, num, h.hops, h.crc⟩] }
    if c.seen.any (fun e => same e && decide (e.copy = h.copy)) then s
    else match c.seen.find? same with
      | some e =>
        if estCompare s c.job && (!pTree c.plan || decide (h.hops = 1)) && decide (e.crc ≠ h.crc) then twinMismatch s' x h else s'
      | none =>
        let a := useContent s' x h (wordsOf (payload pkt))
        match a.2 with
        | some r => ctxFail a.1 x r
        | none => ctxMove a.1 x

/-! ### Contexts taken (R275, R276, R281) -/

/-- A bucket of a job is in a context. -/
def bucketBusy (s : State) (job bucket : Nat) : Bool :=
  s.ctxs.any (fun e => e.2.job = job && decide (rdBucket e.2.cmd = bucket))

/-- The first waiting REDUCE that may take a context: its job enabled, its bucket in no context (R275). -/
def nextReduce (s : State) : Option Op :=
  s.estWait.findSome? (fun k => match opFind s k.1 k.2 with
    | some o => if estEnabled s o.job && !bucketBusy s o.job (rdBucket o.cmd) then some o else none
    | none => none)

/-- Early packets of a REDUCE's bucket, step and plan are consumed into its context; those of its bucket with a lower STEP are discarded
(R281). One that its topology does not expect, which could not be told before, is dropped under R278 now (log 198). -/
def takeEarly (s : State) (x : Nat) : State :=
  let c := getCtx s x
  let mine := fun (e : Early) => e.job = c.job && decide ((louberOf e.pkt).bucket = rdBucket c.cmd)
  let now := fun (e : Early) => mine e && decide ((louberOf e.pkt).step = rdStep c.cmd) && decide ((louberOf e.pkt).planId = pPlanId c.plan)
  let old := fun (e : Early) => mine e && decide ((louberOf e.pkt).step < rdStep c.cmd)
  let ps := (s.early.filter now).map (·.pkt)
  let s := (ps.filter (fun p => !c.expects (louberOf p))).foldl (fun s _ => rxDrop s)
    (setCtx s x { c with held := ps.filter (fun p => c.expects (louberOf p)) })
  { s with early := s.early.filter (fun e => !now e && !old e) }

/-- The REDUCE takes context `x` and becomes ARMED: its plan's header is read and checked again (R276, R287). -/
def ctxArm (s : State) (x : Nat) (o : Op) : State :=
  let c : Ctx := { st := .armed, queue := o.queue, seq := o.seq, job := o.job, cmd := o.cmd }
  let s := setCtx { s with estWait := s.estWait.filter (fun k => !(k.1 = o.queue && k.2 = o.seq)) } x c
  let g := vread s (ctxReq c) (rdPlan o.cmd) 64
  match g.failed with
  | some r => ctxEnd g.s x r false
  | none =>
    let p := words64 g.bytes
    if planBad g.s.grade p then ctxEnd (errSet g.s pgEst 8) x { status := stFault, faultKind := 4 } false
    else
      let s := { g.s with estSelf := tput 0 g.s.estSelf o.job (pSelf p + 1) }
      takeEarly (setCtx s x { c with plan := p }) x

/-- Give context `x`, if free, to the next REDUCE. -/
def ctxTake (s : State) (x : Nat) : State :=
  if decide (getCtx s x ≠ {}) then s
  else match nextReduce s with
    | some o => ctxArm s x o
    | none => s

/-- The lowest free context. -/
def freeCtx (s : State) : Option Nat := (List.range 256).find? (fun x => getCtx s x = {})

/-- REDUCE (R275): Estuary takes it into a context, or it waits for one. -/
def reduceAdd (s : State) (q seq : Nat) : State :=
  let s := settle { s with estWait := s.estWait ++ [(q, seq)] } pgEst
  match freeCtx s with
  | some x => ctxTake s x
  | none => s

def doReduce (s : State) (q : Nat) : State :=
  dispatchBy s q opReduce (fun s seq h => longCmd s q seq h false (fun s => reduceAdd s q seq))

def execReduce (q : Nat) (s : State) : Host.Outcome State Fault Refusal := .next (headBack (.reduce q) q s (doReduce s q))

/-- CONTEXT_TAKE (R275, R287). -/
def doContextTake (s : State) (x : Nat) : State := if up s && clocked s pgEst then ctxTake s x else s

def execContextTake (ctx : Nat) (s : State) : Host.Outcome State Fault Refusal := .next (heldBack (.contextTake ctx) s (doContextTake s ctx))

/-! ### The exchange begins (R275, R282, R283, R289) -/

/-- The tidemark that keeps an ARMED context from its exchange: the fill tidemark, else the commit tidemark, compared modulo 2^32. -/
def ctxShort (s : State) (c : Ctx) : Option Nat :=
  let commit := rf s (estReg c.job 0x8C) 12 0
  if tmGet s (rdFillTm c.cmd) < rdFill c.cmd then some (rdFillTm c.cmd)
  else if 2 ^ 31 ≤ (tmGet s commit % 2 ^ 32 + 2 ^ 32 + 1 - rdStep c.cmd % 2 ^ 32) % 2 ^ 32 then some commit
  else none

/-- Send this module's own packets of a list, as its exchange's first. -/
def sendOwn (s : State) (x pos ty hops : Nat) (nums : List Nat) : Act :=
  nums.foldl (fun (a : Act) num => a.bind (fun s =>
    let o := ownPart s x num
    match o.2 with
    | .error r => (o.1, some r)
    | .ok w => ctxSend o.1 x pos ty num hops (wordBytes w))) (s, none)

/-- What a context sends at the start: a ring's segment of its own number; a member's whole contribution; a leader alone in its group, its
sums (R282, R283). -/
def ctxBegin (s : State) (x : Nat) : Act :=
  let c := getCtx s x
  if !pTree c.plan then sendOwn s x c.succ 1 1 (partPackets c.q c.n c.me)
  else if !c.leads then sendOwn s x (c.leader c.me) 3 1 (List.range c.q)
  else if c.members.isEmpty then
    (List.range c.q).foldl (fun (a : Act) num => a.bind (fun s =>
      let r := sumBegin s x num
      match r.2 with
      | .error e => (r.1, some e)
      | .ok t => sumCheck (setSum r.1 x num t) x num)) (s, none)
  else (s, none)

/-- EXCHANGING: contributions are sent, and the packets held while ARMED are used in order of arrival. -/
def ctxStart (s : State) (x : Nat) : State :=
  let c := getCtx s x
  let a := ctxBegin (setCtx s x { c with st := .exchanging, held := [] }) x
  match a.2 with
  | some r => ctxFail a.1 x r
  | none => c.held.foldl (fun s p => ctxData s x p) (ctxMove a.1 x)

/-- EXCHANGE_START. -/
def doExchangeStart (s : State) (x : Nat) : State :=
  let c := getCtx s x
  if up s && clocked s pgEst && decide (c.st = .armed) && (ctxShort s c).isNone then ctxStart s x else s

def execExchangeStart (ctx : Nat) (s : State) : Host.Outcome State Fault Refusal := .next (heldBack (.exchangeStart ctx) s (doExchangeStart s ctx))

/-- FILL_WAIT_TIMEOUT (R275): WAIT_TIMEOUT, naming the tidemark that fell short; nothing is sent. -/
def doFillWaitTimeout (s : State) (x : Nat) : State :=
  let c := getCtx s x
  if up s && clocked s pgEst && decide (c.st = .armed) then
    match ctxShort s c with
    | some tm => ctxEnd s x { status := stTimeout, index := tm, detail := tmGet s tm } false
    | none => s
  else s

def execFillWaitTimeout (ctx : Nat) (s : State) : Host.Outcome State Fault Refusal := .next (heldBack (.fillWaitTimeout ctx) s (doFillWaitTimeout s ctx))

/-! ### Data packets (R278 to R281) -/

/-- The live context a packet's REDUCE is in. -/
def ctxFor (s : State) (job : Nat) (h : Louber) : Option Nat :=
  (s.ctxs.find? (fun e => e.2.live && e.2.job = job && decide (rdBucket e.2.cmd = h.bucket) && decide (rdStep e.2.cmd = h.step))).map (·.1)

/-- An ACK whose PLAN_ID is not that of the REDUCE it matches (R278). -/
def ackForeign (s : State) (h : Louber) : Bool :=
  match ctxFor s (louberJob s h) h with
  | some x => decide (h.planId ≠ pPlanId (getCtx s x).plan)
  | none => false

/-- LOUBER_ACK (R279): the flow's packets up to PSN are acknowledged. The ACK returns to the port its flow is sent from (log 29). -/
def doLouberAck (s : State) (port : Nat) (src : UdpSrc) (pkt : List Byte) : State :=
  if !portTakes s port || !clocked s pgEst then s
  else
    let s := louberIn s port src
    let h := louberOf pkt
    if louberBad s pkt then rxDrop s
    else if h.ty ≠ 5 then s
    else if ackForeign s h then rxDrop s
    else
      let j := louberJob s h
      { s with txFlows := s.txFlows.map (fun f =>
          if flowIs j port src.ip f then
            { f with unacked := f.unacked.filter (fun x => arrival x.psn h.psn = .behind) } else f) }

def execLouberAck (port : Nat) (src : UdpSrc) (pkt : List Byte) (s : State) : Host.Outcome State Fault Refusal := .next (doLouberAck s port src pkt)

/-- A numbered packet: `act` where its number is the next, and where `room` lets it be accepted. -/
def numbered (s : State) (job port : Nat) (src : UdpSrc) (pkt : List Byte) (room : Bool) (act : State → State) : State :=
  let h := louberOf pkt
  let f := rxFlow s job src.port src.ip
  match arrival f.expect h.psn with
  | .next => if room then act (rxAccept s f port src.mac pkt) else s
  | .ahead => s
  | .behind => rxAgain s f port src.mac pkt

/-- A data packet of a live context, kept while it is ARMED. -/
def ctxArrive (s : State) (x : Nat) (pkt : List Byte) : State :=
  let c := getCtx s x
  if c.st = .armed then setCtx s x { c with held := c.held ++ [pkt] } else ctxData s x pkt

/-- A data packet of TYPE `ty` received on a port. -/
def rxData (s : State) (ty port : Nat) (src : UdpSrc) (pkt : List Byte) : State :=
  if !portTakes s port || !clocked s pgEst then s
  else
    let s := louberIn s port src
    let h := louberOf pkt
    if louberBad s pkt then rxDrop s
    else if h.ty ≠ ty then s
    else
      let j := louberJob s h
      match ctxFor s j h with
      | some x =>
        let c := getCtx s x
        if h.planId ≠ pPlanId c.plan || !c.expects h then rxDrop s
        else numbered s j port src pkt true (fun s => ctxArrive s x pkt)
      | none =>
        if h.step < tget 0 s.estLast (lastKey j h.bucket) then
          numbered s j port src pkt true (fun s => inc64 s (pgEst + 0xA8) 1)
        else
          numbered s j port src pkt (earlyRoom s j (pkt.length - 32)) (fun s => { s with early := s.early ++ [⟨j, pkt⟩] })

/-- SCATTER (R282). -/
def doScatter (s : State) (port : Nat) (src : UdpSrc) (pkt : List Byte) : State := rxData s 1 port src pkt
def execScatter (port : Nat) (src : UdpSrc) (pkt : List Byte) (s : State) : Host.Outcome State Fault Refusal := .next (heldBack (.scatter port src pkt) s (doScatter s port src pkt))

/-- GATHER (R282). -/
def doGather (s : State) (port : Nat) (src : UdpSrc) (pkt : List Byte) : State := rxData s 2 port src pkt
def execGather (port : Nat) (src : UdpSrc) (pkt : List Byte) (s : State) : Host.Outcome State Fault Refusal := .next (heldBack (.gather port src pkt) s (doGather s port src pkt))

/-- UP (R283). -/
def doUp (s : State) (port : Nat) (src : UdpSrc) (pkt : List Byte) : State := rxData s 3 port src pkt
def execUp (port : Nat) (src : UdpSrc) (pkt : List Byte) (s : State) : Host.Outcome State Fault Refusal := .next (heldBack (.up port src pkt) s (doUp s port src pkt))

/-- DOWN (R283). -/
def doDown (s : State) (port : Nat) (src : UdpSrc) (pkt : List Byte) : State := rxData s 4 port src pkt
def execDown (port : Nat) (src : UdpSrc) (pkt : List Byte) (s : State) : Host.Outcome State Fault Refusal := .next (heldBack (.down port src pkt) s (doDown s port src pkt))

/-- ABORT (R287): from a position the context exchanges with, its REDUCE completes as LATE_CONTRIBUTION. -/
def doAbort (s : State) (port : Nat) (src : UdpSrc) (pkt : List Byte) : State :=
  if !portTakes s port || !clocked s pgEst then s
  else
    let s := louberIn s port src
    let h := louberOf pkt
    if louberBad s pkt then rxDrop s
    else if h.ty ≠ 6 then s
    else
      let j := louberJob s h
      match ctxFor s j h with
      | some x =>
        if h.planId ≠ pPlanId (getCtx s x).plan then rxDrop s
        else numbered s j port src pkt true (fun s =>
          if (getCtx s x).group.contains h.srcPos then ctxEnd s x { status := stLate, index := h.srcPos } false else s)
      | none => numbered s j port src pkt true id

def execAbort (port : Nat) (src : UdpSrc) (pkt : List Byte) (s : State) : Host.Outcome State Fault Refusal := .next (heldBack (.abort port src pkt) s (doAbort s port src pkt))

/-- LATE_TIMEOUT (R287, R288): the position awaited first, and the OFFSET of its first missing packet. -/
def doLateTimeout (s : State) (x : Nat) : State :=
  let c := getCtx s x
  if up s && clocked s pgEst && c.moving then
    match c.awaited.find? (fun e => !(c.has e.1 e.2.1 e.2.2.1 e.2.2.2)) with
    | some e => ctxEnd s x { status := stLate, index := e.2.1, detail := e.2.2.1 * 8192 } true
    | none => s
  else s

def execLateTimeout (ctx : Nat) (s : State) : Host.Outcome State Fault Refusal := .next (heldBack (.lateTimeout ctx) s (doLateTimeout s ctx))

/-! ### Jobs and cancellation -/

/-- The job has a REDUCE in a context (R291). -/
def jobInCtx (s : State) (j : Nat) : Bool := s.ctxs.any (fun e => e.2.job = j)

/-- A value of EST_JOB that R291 reserves: two enabled jobs with one NET_JOB. -/
def estJobBad (s : State) (j v : Nat) : Bool :=
  bitOf v 31 && (List.range 64).any (fun k => decide (k ≠ j) && estEnabled s k && decide (estNetJob s k = v % 65536))

/-- A job's flows restart from number 0 (R279). -/
def restartFlows (s : State) (j : Nat) : State :=
  portsSettle { s with estSelf := tput 0 s.estSelf j 0, txFlows := s.txFlows.filter (fun f => decide (f.job ≠ j)),
                       rxFlows := s.rxFlows.filter (fun f => decide (f.job ≠ j)) }

/-- A write of EST_JOB of a job; setting ENABLE restarts its flows (R279, R291). Reserved bits are handled by the register write. -/
def estJobWrite (s : State) (j v : Nat) : State :=
  if jobInCtx s j || estJobBad s j v then badWrite s pgEst
  else
    let s := if bitOf v 31 && !estEnabled s j then restartFlows s j else s
    wr s (estReg j 0x88) (v &&& 0xE000FFFF)

/-- EST_JOB_ENABLE: the write of EST_JOB while EST_JOB_SEL names the job. -/
def doEstJobEnable (s : State) (j : Nat) (value : Word32) : State :=
  ownGuard s pgEst (fun s => if clocked s pgEst then estJobWrite s j value.toNat else s)

def execEstJobEnable (job : Nat) (value : Word32) (s : State) : Host.Outcome State Fault Refusal := .next (heldBack (.estJobEnable job value) s (doEstJobEnable s job value))

/-- Cancellation of a REDUCE (R230, R287). One that waits for a context completes without raising LAST_STEP: R281 speaks of every completed
REDUCE, R287 of the DONE of a context, which it never had. That is the MODEL's choice (log 218). -/
def reduceCancel (s : State) (q seq : Nat) : State :=
  if s.estWait.contains (q, seq) then
    settle (opEnd { s with estWait := s.estWait.filter (fun k => decide (k ≠ (q, seq))) } q seq { status := stCancelled }) pgEst
  else match s.ctxs.find? (fun e => e.2.live && e.2.queue = q && decide (e.2.seq = seq)) with
    | some e => ctxEnd s e.1 { status := stCancelled } true
    | none => s

end Sys2Proof.Machine
end

