-- ==== Sys2Proof/Machine/Contexts.lean ====
section
/-! DEFINITION. Queue and ring contexts as records of 64-bit words: what they read, and what a write to them does (R214, R217, R218, R416). -/

namespace Sys2Proof.Machine

/-- WRITE_IDX − READ_IDX equals the ring size (R218). -/
def ringFull (r : Ring) : Bool := decide ((r.writeIdx - r.readIdx).toNat = 2 ^ r.sizeLog2.toNat)

/-- HEAD as a read shows it: during a replay it lies at the CALL_CHART, which has taken its handle (R214; log 37). -/
def headShown (x : Queue) : Nat :=
  if x.replay.isSome then (x.head.toNat + ringLen x - 1) % ringLen x else x.head.toNat

/-- The eight words of a queue context (R214). -/
def queueWords (s : State) (q : Nat) : List Nat :=
  let x := getQ s q
  [x.sizeLog2.toNat * 2 ^ 56 + x.cmdBase.toNat * 2 ^ 12, x.tail.toNat * 2 ^ 16 + headShown x,
   x.watchdog.toNat * 2 ^ 32 + x.job.toNat * 2 ^ 24 + x.stopCause.toNat * 2 ^ 16 + b2n x.stopped * 2 ^ 15 + b2n x.tainted * 2 ^ 14 +
     b2n x.enable * 2 ^ 13 + b2n x.skipMode * 2 ^ 12 + x.defaultRing.toNat,
   x.nextSeq.toNat, waitedMs s x * 2 ^ 32 + x.waitTm.toNat * 2 ^ 16 + x.waitKind.toNat, x.waitValue.toNat, 0,
   handleOf q (match x.replay with | some r => r.seq | none => x.nextSeq.toNat)]

/-- The four words of a ring context (R218). -/
def ringWords (s : State) (n : Nat) : List Nat :=
  let r := getRing s n
  [r.sizeLog2.toNat * 2 ^ 56 + r.base.toNat * 2 ^ 12, r.readIdx.toNat * 2 ^ 32 + b2n r.phase * 2 ^ 16 + r.writeIdx.toNat,
   r.job.toNat * 2 ^ 32 + r.irqVector.toNat * 2 ^ 16 + b2n r.fault * 8 + b2n (ringFull r) * 4 + b2n r.irqEn * 2 + b2n r.enable,
   r.records.toNat]

/-- BAD_CONTEXT_WRITE (R214, R218). -/
def badContext (s : State) : State := errSet s pgQm 9

/-- A word with the bits of a mask replaced (R416). -/
def mixWord (old mask value : Nat) : Nat := (old &&& ((2 ^ 64 - 1) ^^^ mask)) ||| (value &&& mask)

/-- HEAD moves while the queue is stopped: the commands from HEAD onward are fetched anew, and the loads fit what lies ahead (R217). -/
def moveHead (x : Queue) (h : Nat) : Queue :=
  let n := (x.tail.toNat + ringLen x - h % ringLen x) % ringLen x
  { x with head := BitVec.ofNat 16 h, fetched := [], fetchBad := none, loads := loadsFit x.loads n }

/-- HEAD is moved away from a CALL_CHART in progress: its replay dispatches nothing more (log 37). -/
def leaveReplay (s : State) (q h : Nat) : State :=
  let x := getQ s q
  match x.replay with
  | some r => if h = headShown x then s else
    let s := setQ s q { x with replay := none }
    (match opFind s q r.seq with
     | some o => chartSettle (holdSignal s q r.seq o.cmd true none) q
     | none => s)
  | none => s

/-- A queue context write reserves the value it would store (R214). -/
def queueReserved (k mask w : Nat) : Bool :=
  (k = 0 && decide (mask &&& (15 * 2 ^ 56) ≠ 0) && decide (bitsOf w 59 56 < 6)) ||
  (k = 2 && decide (mask &&& (0xFFFF * 2 ^ 32) ≠ 0) && (bitsOf w 47 32 = 0 || decide (60000 < bitsOf w 47 32)))

/-- The queue context after a write to word `k`; the Bool: a field kept its value because the queue is enabled. -/
def queueStore (x : Queue) (k mask old w value : Nat) : Queue × Bool :=
  match k with
  | 0 =>
    if x.enable then (x, decide (bitsOf w 59 56 ≠ bitsOf old 59 56) || decide (bitsOf w 51 12 ≠ bitsOf old 51 12))
    else ({ x with sizeLog2 := BitVec.ofNat 4 (bitsOf w 59 56), cmdBase := BitVec.ofNat 40 (bitsOf w 51 12), fetched := [],
                   fetchBad := none }, false)
  | 1 => if x.stopped && decide (mask % 2 ^ 16 ≠ 0) && decide (w % 2 ^ 16 ≠ headShown x) then (moveHead x (w % 2 ^ 16), false) else (x, false)
  | _ =>
    let keep := x.enable && decide (w % 2 ^ 11 ≠ old % 2 ^ 11)
    ({ x with watchdog := BitVec.ofNat 16 (bitsOf w 47 32), tainted := x.tainted && !(bitOf (value &&& mask) 14), enable := bitOf w 13,
              skipMode := bitOf w 12, defaultRing := if x.enable then x.defaultRing else BitVec.ofNat 11 (w % 2 ^ 11) }, keep)

/-- A write of the bits `mask` of word `k` of a queue context, but for its command word 0x30 (R214, R416). -/
def queueWrite (s : State) (q k mask value : Nat) : State :=
  if k = 0 || k = 1 || k = 2 then
    let x := getQ s q
    let old := (queueWords s q).getD k 0
    let w := mixWord old mask value
    if queueReserved k mask w || (k = 2 && bitOf w 13 && decide (x.sizeLog2.toNat < 6)) then badContext s
    else
      let s := if k = 1 && x.stopped && decide (mask % 2 ^ 16 ≠ 0) then leaveReplay s q (w % 2 ^ 16) else s
      let r := queueStore (getQ s q) k mask old w value
      let s := setQ s q r.1
      if r.2 then badContext s else s
  else s

end Sys2Proof.Machine
end

