-- ==== Sys2Proof/Machine/Tideway.lean ====
section
/-! DEFINITION. Tideway: the link layer (R411 to R413), the partner (R293 to R296), mirror rounds (R300, R301) and what lands from the
partner (R294). -/

namespace Sys2Proof.Machine

/-! ### Flits (R411) -/

/-- A flit's bytes: header with its CRC-32C, then the payload. -/
def flitBytes (f : Flit) (seq ack : Nat) : List Byte :=
  let head := [BitVec.ofNat 8 (16 + f.ty % 16), BitVec.ofNat 8 f.job, BitVec.ofNat 8 f.which, 0] ++ leBytes 4 seq ++ leBytes 4 ack ++
    leBytes 4 0 ++ leBytes 8 f.dest ++ leBytes 4 0
  head ++ leBytes 4 (crc32c (head ++ f.body)) ++ f.body

/-- Payload bytes of a TYPE. -/
def flitBody (ty : Nat) : Nat := if ty = 1 then 64 else if ty = 2 then 4096 else 0

/-- Bytes `n` of a received flit from `o`, little-endian. -/
def flitField (b : List Byte) (o n : Nat) : Nat := leNat (slice b o n)

/-- A received flit's TYPE. -/
def flitTy (b : List Byte) : Nat := flitField b 0 1 % 16

/-- The flit is whole: VER, TYPE, length and CRC (R411, R412). -/
def flitGood (b : List Byte) : Bool :=
  flitField b 0 1 / 16 = 1 && decide (1 ≤ flitTy b) && decide (flitTy b ≤ 7) && decide (b.length = 32 + flitBody (flitTy b)) &&
  decide (crc32c (b.take 28 ++ b.drop 32) = flitField b 28 4)

/-! ### Links -/

def getLink (s : State) (l : Nat) : Link := tget {} s.links l
def setLink (s : State) (l : Nat) (x : Link) : State := { s with links := tput {} s.links l x }
def bothLinks : List Nat := [0, 1]

def twyHeld (s : State) : Bool := held s pgTwy
def partnerUp (s : State) : Bool := rb s (pgTwy + 0x80) 31
def twyReg (j o : Nat) : Nat := bk (pgTwy + o) j
def twyMode (s : State) (j : Nat) : Nat := rf s (twyReg j 0x8C) 1 0
def partnerJob (s : State) (j : Nat) : Nat := rf s (twyReg j 0x8C) 13 8

/-- A flit leaves a link. -/
def flitOut (s : State) (l : Nat) (f : Flit) (seq : Nat) : State :=
  inc64 { s with out := s.out ++ [.flit l (flitBytes f seq (getLink s l).rxNext)] } (pgLink l + 0x88) f.body.length

/-- A link has room for a numbered flit: it keeps up to 64 unacknowledged (R412). -/
def linkRoom (s : State) (l : Nat) : Bool := (getLink s l).trained && decide ((getLink s l).unacked.length < 64)

/-- Send a numbered flit on a link. -/
def sendOn (s : State) (l : Nat) (f : Flit) : State :=
  let x := getLink s l
  let s := flitOut s l f x.txNext
  setLink s l { x with txNext := (x.txNext + 1) % 2 ^ 32, unacked := x.unacked ++ [(x.txNext, f)] }

/-- The link whose turn it is among those with room (R294). -/
def nextLink (s : State) : Option Nat :=
  if linkRoom s (s.twyTurn % 2) then some (s.twyTurn % 2) else if linkRoom s ((s.twyTurn + 1) % 2) then some ((s.twyTurn + 1) % 2) else none

/-- Send a numbered flit where a link has room; none where it has none. -/
def trySend (s : State) (f : Flit) : Option State :=
  match nextLink s with
  | some l => some (sendOn { s with twyTurn := l + 1 } l f)
  | none => none

/-- Tideway sends nothing new: it stands in the slack hold, or is entering it (R295, R392). -/
def twyStill (s : State) : Bool := twyHeld s || (blk s pgTwy).entering

/-- Send what waits, first in first out; nothing new while Tideway is held or enters the hold (R295, R392). -/
def twyPump : Nat → State → State
  | 0, s => s
  | n + 1, s =>
    match s.twyQ with
    | f :: r => if twyStill s then s else (match trySend s f with | some t => twyPump n { t with twyQ := r } | none => s)
    | [] => s

/-- A WRITE of a job waits, or is unacknowledged on either link (R412). -/
def writesOpen (s : State) (owner : Nat) : Bool :=
  s.twyQ.any (fun f => f.ty = 2 && f.owner = owner) ||
  bothLinks.any (fun l => (getLink s l).unacked.any (fun e => e.2.ty = 2 && e.2.owner = owner))

/-- Send the SIGNALs whose job has no WRITE open. -/
def twySignals : Nat → State → State
  | 0, s => s
  | n + 1, s =>
    if twyStill s then s
    else match s.twySigs.find? (fun f => !writesOpen s f.owner) with
      | some f => (match trySend s f with | some t => twySignals n { t with twySigs := s.twySigs.erase f } | none => s)
      | none => s

/-- A SNAP ends: its record, the pause lifted (R302, R303). -/
def snapEnd (s : State) (q seq : Nat) (r : CompRec) : State :=
  match s.snaps.find? (fun x => x.queue = q && x.seq = seq) with
  | some _ =>
    let s := { s with snaps := s.snaps.filter (fun x => !(x.queue = q && x.seq = seq)) }
    settle (liftPause (opEnd s q seq r) (q, seq)) pgTwy
  | none => s

/-- A WRITE of a job's image waits, or is unacknowledged on either link. -/
def imageOpen (s : State) (owner : Nat) : Bool :=
  let mine := fun (f : Flit) => f.ty = 2 && f.image && f.owner = owner
  s.twyQ.any mine || bothLinks.any (fun l => (getLink s l).unacked.any (fun e => mine e.2))

/-- A SNAP to the partner whose image WRITEs are acknowledged goes on: after the zero header the body, then the header, then SNAP_TM
(R305); a cancelled one ends (R303). -/
def snapNext (s : State) (x : SnapJob) : State :=
  if imageOpen s x.job then s
  else
    let put := fun (p : SnapPhase) => s.snaps.map (fun y => if y.queue = x.queue && y.seq = x.seq then { y with phase := p, rest := [] } else y)
    let dest := match opFind s x.queue x.seq with | some o => wd o.cmd 3 | none => 0
    let head : Flit := { ty := 2, image := true, job := partnerJob s x.job, owner := x.job, dest := dest, body := x.first }
    if x.cancelled then snapEnd s x.queue x.seq { status := stCancelled, partialOut := true }
    else match x.phase with
    | .zero => if x.rest.isEmpty then { s with snaps := put .header, twyQ := s.twyQ ++ [head] }
               else { s with snaps := put .body, twyQ := s.twyQ ++ x.rest }
    | .body => { s with snaps := put .header, twyQ := s.twyQ ++ [head] }
    | .header =>
      { s with snaps := put .signal, twySigs := s.twySigs ++ [{ ty := 3, image := true, job := partnerJob s x.job, owner := x.job, which := 1 }] }
    | _ => s

/-- Everything that waits for room or acknowledgements goes as far as it can; a link with flits unacknowledged holds work (R383). -/
def twyRun (s : State) : State :=
  let s := twyPump s.twyQ.length s
  let s := s.snaps.foldl snapNext s
  let s := twyPump s.twyQ.length s
  let s := twySignals s.twySigs.length s
  bothLinks.foldl (fun s l => settle s (pgLink l)) s

/-! ### Mirror rounds (R300, R301) -/

def getRound (s : State) (j : Nat) : Option Round := tget none s.rounds j
def setRound (s : State) (j : Nat) (r : Option Round) : State := { s with rounds := tput none s.rounds j r }

/-- Tideway's reads for a job, charged to it; a translation fault is reported as the Narrows' (log 27). -/
def twyReq (j handle : Nat) : Req := { job := j, unit := 3, handle := handle, who := .job j }

/-- A round stops at an entry (R301). -/
def mirrorFail (s : State) (j v entry : Nat) : State :=
  let s := wf (errSet s pgTwy 9) (twyReg j 0xA4) 31 16 entry
  setRound s j (some { value := v, failed := true })

/-- An entry of a mirror list breaks R300. -/
def mirrorEntryBad (e : Rec) : Bool :=
  decide (wd e 0 % 4096 ≠ 0) || decide (2 ^ 52 ≤ wd e 0) || decide (wd e 1 % 4096 ≠ 0) || decide (2 ^ 52 ≤ wd e 1) ||
  wd e 2 = 0 || decide (wd e 2 % 4096 ≠ 0) || decide (wd e 3 ≠ 0)

/-- WRITE flits for the bytes of entry `k` at a local address, in 4 KiB steps; none where a read fails. -/
def mirrorFlits (j to' k : Nat) : Nat → Nat → Nat → State → State × Option (List Flit)
  | 0, _, _, s => (s, some [])
  | n + 1, va, dest, s =>
    let g := vread s (twyReq j 0) va 4096
    if g.failed.isSome then (g.s, none)
    else
      let r := mirrorFlits j to' k n (va + 4096) (dest + 4096) g.s
      (r.1, r.2.map (fun l => { ty := 2, entry := k, job := to', owner := j, dest := dest, body := g.bytes } :: l))

/-- Copy the entries of a mirror list from number `k` on; the entry that failed. -/
def mirrorCopy (j to' : Nat) : Nat → List Rec → State → State × Option Nat
  | _, [], s => (s, none)
  | k, e :: r, s =>
    let g := mirrorFlits j to' k (wd e 2 / 4096) (wd e 0) (wd e 1) s
    match g.2 with
    | none => (g.1, some k)
    | some l => mirrorCopy j to' (k + 1) r { g.1 with twyQ := g.1.twyQ ++ l }

/-- One round for value `v`: the list read and checked whole, its ranges sent, the SIGNAL queued behind them. -/
def mirrorRun (s : State) (j v : Nat) : State :=
  let va := rd64 s (twyReg j 0x98)
  let h := vread s (twyReq j 0) va 64
  let hw := words64 h.bytes
  let n := wf' hw 0 15 0
  if h.failed.isSome || decide (4096 < n) || decide (wf' hw 0 63 16 ≠ 0) || (hw.drop 1).any (· ≠ 0) then mirrorFail h.s j v 0
  else
    let b := vread h.s (twyReq j 0) (va + 64) (32 * n)
    if b.failed.isSome then mirrorFail b.s j v (b.bytes.length / 32)
    else
      let ws := words64 b.bytes
      let es := (List.range n).map (fun i => (ws.drop (4 * i)).take 4)
      match (List.range n).find? (fun i => mirrorEntryBad (es.getD i [])) with
      | some i => mirrorFail b.s j v i
      | none =>
        let c := mirrorCopy j (partnerJob s j) 0 es b.s
        match c.2 with
        | some i => twyRun (mirrorFail c.1 j v i)
        | none =>
          let s := setRound c.1 j (some { value := v })
          twyRun { s with twySigs := s.twySigs ++ [{ ty := 3, job := partnerJob s j, owner := j, dest := v }] }

/-- A round may start or run again: mirror mode, the partner up, Tideway not held (R295, R301). -/
def mirrorReady (s : State) (j : Nat) : Bool :=
  up s && working s pgTwy && clocked s pgTwy && partnerUp s && decide (twyMode s j = 2) && decide (jobState s j = 1)

/-- SEND_TM above SENT begins a round; one that the partner's loss broke off is run again, from its first entry (R301). -/
def mirrorStart (s : State) (j : Nat) : State :=
  let v := tmGet s (rf s (twyReg j 0x90) 12 0) % 2 ^ 32
  if !mirrorReady s j then s
  else match getRound s j with
    | some r => if r.lost then settle (mirrorRun s j r.value) pgTwy else s
    | none => if rd s (twyReg j 0xA0) < v then settle (mirrorRun s j v) pgTwy else s

/-- Rounds that the partner's loss broke off are run again, where they can be: as it is found, and at RELEASE (R295, R301). -/
def mirrorResume (s : State) : State :=
  (List.range 64).foldl (fun s j => match getRound s j with
    | some r => if r.lost then mirrorStart s j else s
    | none => s) s

/-- A round's SIGNAL is acknowledged: SENT, MIRROR_DONE, and another round where SEND_TM has passed v (R301). -/
def mirrorDone (s : State) (j : Nat) : State :=
  match getRound s j with
  | some r =>
    if r.failed || r.lost then s
    else
      let s := evtSet (wr (setRound s j none) (twyReg j 0xA0) r.value) pgTwy 10
      settle (mirrorStart s j) pgTwy
  | none => s

/-- MIRROR_ROUND. -/
def doMirrorRound (s : State) (j : Nat) : State := mirrorStart s j
def execMirrorRound (job : Nat) (s : State) : Host.Outcome State Fault Refusal := .next (heldBack (.mirrorRound job) s (doMirrorRound s job))

/-- A failed round is run again from its first entry (R301). -/
def mirrorAgain (s : State) (j : Nat) : State :=
  match getRound s j with
  | some r => if r.failed && mirrorReady s j then settle (mirrorRun s j r.value) pgTwy else s
  | none => s

/-- MIRROR_RETRY. -/
def doMirrorRetry (s : State) (j : Nat) : State := ownGuard s pgTwy (fun s => mirrorAgain s j)
def execMirrorRetry (job : Nat) (s : State) : Host.Outcome State Fault Refusal := .next (heldBack (.mirrorRetry job) s (doMirrorRetry s job))

/-! ### SNAPs at Tideway -/

/-- The partner's SNAP_TM has been raised: the SNAP to it completes (R305). -/
def snapLanded (s : State) (j : Nat) : State :=
  match s.snaps.find? (fun x => x.job = j && decide (x.phase = .signal)) with
  | some x => snapEnd s x.queue x.seq { status := stOk }
  | none => s

/-- Flits not yet sent of a job's mirror rounds and images are withdrawn. -/
def dropFlits (s : State) (p : Flit → Bool) : State :=
  { s with twyQ := s.twyQ.filter (fun f => !p f), twySigs := s.twySigs.filter (fun f => !p f) }

/-! ### Acknowledgements (R412) -/

/-- The unacknowledged flits of a link sent again, from the first, each counted in REPLAYS (R312, R412). -/
def replayLink (s : State) (l : Nat) : State :=
  (getLink s l).unacked.foldl (fun s (e : Nat × Flit) => inc32 (flitOut s l e.2 e.1) (pgLink l + 0x98) 1) s

/-- The next SEQ a flit says its sender expects: earlier flits are acknowledged, then, where the flit is a NAK, the others are sent `again`,
and what the acknowledged SIGNALs complete completes. -/
def ackLink (s : State) (l ack : Nat) (again : Bool) : State :=
  let x := getLink s l
  let isBefore := fun (e : Nat × Flit) => arrival e.1 ack = .ahead
  let done := x.unacked.filter isBefore
  let s := setLink s l { x with unacked := x.unacked.filter (fun e => !isBefore e) }
  let s := if again then replayLink s l else s
  let s := done.foldl (fun s e => if e.2.ty = 3 then (if e.2.which = 0 then mirrorDone s e.2.owner else snapLanded s e.2.owner) else s) s
  twyRun s

/-- A NAK answers a flit that cannot be accepted, with the SEQ expected (R412); none while Tideway is held (R295). -/
def nakOut (s : State) (l : Nat) : State := if twyHeld s then s else flitOut s l { ty := 7 } 0

/-- A trained link takes flits, in the slack hold too. -/
def rxTakes (s : State) (l : Nat) : Bool := up s && (getLink s l).trained && (clocked s pgTwy || twyHeld s)

/-- A flit of TYPE `ty` received on a trained link: a bad one is answered by a NAK; of a good one the acknowledgement is taken first, but
by a Tideway in the slack hold, whose registers and rounds stand (R38, R295): the next flit that comes after it bears it again. -/
def rxFlit (s : State) (l ty : Nat) (b : List Byte) (act : State → State) (refuses : Bool := false) : State :=
  if !rxTakes s l then s
  else if !flitGood b then nakOut s l
  else if flitTy b ≠ ty then s
  else act (if twyHeld s then s else ackLink s l (flitField b 8 4) (ty = 7 && !refuses))

/-- The next numbered flit: `act` answers the state where it is accepted, none where it cannot be; another number is answered by a NAK. -/
def rxNumbered (s : State) (l : Nat) (b : List Byte) (act : State → State × Bool) : State :=
  let x := getLink s l
  if flitField b 4 4 ≠ x.rxNext then nakOut s l
  else
    let r := act s
    if r.2 then
      let x := getLink r.1 l
      inc64 (setLink r.1 l { x with rxNext := (x.rxNext + 1) % 2 ^ 32 }) (pgLink l + 0x90) (b.length - 32)
    else r.1

/-- A WRITE lands: its payload at DEST in the named job's memory (R294). One that cannot be translated is taken and not written, and the
partner is told (R301; log 30); while Tideway is held it waits at the partner (R295). -/
def landWrite (l : Nat) (b : List Byte) (s : State) : State × Bool :=
  let j := flitField b 1 1 % 64
  if twyHeld s then (s, false)
  else
    let w := vwrite s (twyReq j 0) (flitField b 16 8 % 2 ^ 52) (b.drop 32)
    if w.fault.isSome then ({ w.s with out := w.s.out ++ [.refusal l (flitField b 4 4)] }, true)
    else
      let s := w.s
      (if slOn s j then { s with twyIn := tput [] s.twyIn j (tget [] s.twyIn j ++ b.drop 32) } else s, true)

/-- TIDEWAY_WRITE (R412). -/
def doTidewayWrite (s : State) (l : Nat) (b : List Byte) : State :=
  rxFlit s l 2 b (fun s => rxNumbered s l b (landWrite l b))
def execTidewayWrite (l : Nat) (flit : List Byte) (s : State) : Host.Outcome State Fault Refusal := .next (heldBack (.tidewayWrite l flit) s (doTidewayWrite s l flit))

/-- A SIGNAL lands: PEER_TM takes the value, or SNAP_TM rises by 1 (R301, R305); the strandline notes what landed (R372). -/
def landSignal (b : List Byte) (s : State) : State × Bool :=
  let j := flitField b 1 1 % 64
  if twyHeld s then (s, false)
  else
    let s := slInput { s with twyIn := tput [] s.twyIn j [] } j 0 0 (tget [] s.twyIn j)
    if flitField b 2 1 = 0 then (tmSignal s (rf s (twyReg j 0x90) 28 16) false (flitField b 16 8), true)
    else (tmSignal s (rf s (pgTwy + 0x94) 12 0) true 1, true)

/-- TIDEWAY_SIGNAL (R412). -/
def doTidewaySignal (s : State) (l : Nat) (b : List Byte) : State :=
  rxFlit s l 3 b (fun s => rxNumbered s l b (landSignal b))
def execTidewaySignal (l : Nat) (flit : List Byte) (s : State) : Host.Outcome State Fault Refusal := .next (heldBack (.tidewaySignal l flit) s (doTidewaySignal s l flit))

/-- Blocks in the slack hold, or entering it, whose CTRL.HOLD_WAKE_PARTNER is 1 are woken (R294, R393). -/
def wakePartners (s : State) : State :=
  allPages.foldl (fun s pg =>
    if wakeable s pg (blk s pg) && rb s (pg + 0x10) 6 then setBlk s pg { blk s pg with wake := true } else s) s

/-- TIDEWAY_WAKE (R294). -/
def doTidewayWake (s : State) (l : Nat) (b : List Byte) : State :=
  rxFlit s l 4 b (fun s => rxNumbered s l b (fun s => (wakePartners s, true)))
def execTidewayWake (l : Nat) (flit : List Byte) (s : State) : Host.Outcome State Fault Refusal := .next (heldBack (.tidewayWake l flit) s (doTidewayWake s l flit))

/-- A heartbeat has come from the partner: found where it was down, and the rounds its loss broke off run again (R293, R301). -/
def partnerFound (s : State) : State :=
  if partnerUp s then s
  else
    let s := evtSet (wf s (pgTwy + 0x80) 31 31 1) pgTwy 9
    let s := logAdd s 0x0031 0xFFFF (pageId pgTwy) 0 0
    settle (mirrorResume s) pgTwy

/-- HEARTBEAT (R293). -/
def doHeartbeat (s : State) (l : Nat) (b : List Byte) : State := rxFlit s l 5 b partnerFound
def execHeartbeat (l : Nat) (flit : List Byte) (s : State) : Host.Outcome State Fault Refusal := .next (heldBack (.heartbeat l flit) s (doHeartbeat s l flit))

/-- TIDEWAY_ACK (R412). -/
def doTidewayAck (s : State) (l : Nat) (b : List Byte) : State := rxFlit s l 6 b id
def execTidewayAck (l : Nat) (flit : List Byte) (s : State) : Host.Outcome State Fault Refusal := .next (heldBack (.tidewayAck l flit) s (doTidewayAck s l flit))

/-- The partner could not translate the WRITE of number `n`: the round it belongs to stops at its entry (R301), or the SNAP whose image it
belongs to ends (log 199). -/
def writeRefused (s : State) (l n : Nat) : State :=
  match (getLink s l).unacked.find? (fun e => e.1 = n && e.2.ty = 2) with
  | none => s
  | some (_, f) =>
    let s := dropFlits s (fun g => g.owner = f.owner && g.image = f.image)
    if f.image then
      match s.snaps.find? (fun x => x.job = f.owner && decide (x.phase ≠ .waiting)) with
      | some x => snapEnd s x.queue x.seq { status := stFault, faultKind := 1, detail := f.dest, partialOut := true }
      | none => s
    else match getRound s f.owner with
      | some r => if r.failed then s else mirrorFail s f.owner r.value f.entry
      | none => s

/-- NAK (R412), or the partner's word that it could not translate a WRITE (R301): `refused`, the number of that WRITE. Tideway enters the
slack hold only with every flit acknowledged, and nothing is sent again there (R295, R392). -/
def doNak (s : State) (l : Nat) (b : List Byte) (refused : Option Nat) : State :=
  match refused with
  | none => rxFlit s l 7 b id
  | some n => rxFlit (if rxTakes s l && !twyHeld s && flitGood b && decide (flitTy b = 7) then writeRefused s l n else s) l 7 b id true
def execNak (l : Nat) (flit : NakFlit) (s : State) : Host.Outcome State Fault Refusal :=
  .next (heldBack (.nak l flit) s (doNak s l flit.bytes flit.refused))

/-! ### What a link sends by itself -/

/-- HEARTBEAT_SEND (R293, R412): in the slack hold too (R295). -/
def doHeartbeatSend (s : State) (l : Nat) : State :=
  if up s && (getLink s l).trained && (clocked s pgTwy || twyHeld s) then flitOut s l { ty := 5 } 0 else s
def execHeartbeatSend (l : Nat) (s : State) : Host.Outcome State Fault Refusal := .next (heldBack (.heartbeatSend l) s (doHeartbeatSend s l))

/-- TIDEWAY_ACK_SEND (R412); in the slack hold only heartbeats go out (R295). -/
def doTidewayAckSend (s : State) (l : Nat) : State :=
  if up s && (getLink s l).trained && clocked s pgTwy then flitOut s l { ty := 6 } 0 else s
def execTidewayAckSend (l : Nat) (s : State) : Host.Outcome State Fault Refusal := .next (heldBack (.tidewayAckSend l) s (doTidewayAckSend s l))

/-- REPLAY_TIMEOUT (R412). -/
def doReplayTimeout (s : State) (l : Nat) : State :=
  if up s && (getLink s l).trained && clocked s pgTwy then replayLink s l else s
def execReplayTimeout (l : Nat) (s : State) : Host.Outcome State Fault Refusal := .next (heldBack (.replayTimeout l) s (doReplayTimeout s l))

/-! ### Training (R413) -/

/-- ROLE takes the role in flash: at a training, and as its reset value (R311, R369). -/
def takeRole (s : State) : State := wf s (pgTwy + 0x80) 8 8 (b2n s.flash.role)

/-- PAIR_ID[1:0] as strapped. -/
def pairId (s : State) : Nat := s.hl.pairId % 4

/-- TRAIN_SEND: PAIR_ID, pair role, link number and SERIAL, until the link has received one (R413). -/
def doTrainSend (s : State) (l : Nat) : State :=
  if !up s || (getLink s l).trained || (getLink s l).heard || !clocked s pgTwy || !clocked s (pgLink l) then s
  else
    let s := takeRole s
    let body := [BitVec.ofNat 8 (pairId s + 4 * pairRole s), BitVec.ofNat 8 l] ++ leBytes 6 0 ++ leBytes 8 s.flash.serial.toNat ++
      List.replicate 48 0
    flitOut s l { ty := 1, body := body } 0
def execTrainSend (l : Nat) (s : State) : Host.Outcome State Fault Refusal := .next (heldBack (.trainSend l) s (doTrainSend s l))

/-- A link comes up, numbering from 0. -/
def linkTrained (s : State) (l serial : Nat) : State :=
  let s := setLink s l { trained := true, heard := true, serial := serial }
  let s := wf (wf s (pgLink l + 0x80) 31 31 1) (pgTwy + 0x80) l l 1
  twyRun s

/-- TRAIN: the link comes up only where the partner's PAIR_ID, role and SERIAL match. -/
def doTrain (s : State) (l : Nat) (b : List Byte) : State :=
  if !up s || (getLink s l).trained || !clocked s pgTwy || !clocked s (pgLink l) || !flitGood b || decide (flitTy b ≠ 1) then s
  else
    let s := takeRole s
    let id := flitField b 32 1 % 4
    let role := flitField b 32 1 / 4 % 2
    let serial := flitField b 40 8
    let other := getLink s (1 - l)
    let s := inc64 (wf (wf s (pgTwy + 0x80) 11 10 id) (pgTwy + 0x80) 9 9 role) (pgLink l + 0x90) 64
    if id = pairId s && role ≠ pairRole s && (!other.trained || decide (other.serial = serial)) then linkTrained s l serial
    else errSet (setLink s l { getLink s l with heard := true }) pgTwy 8
def execTrain (l : Nat) (flit : List Byte) (s : State) : Host.Outcome State Fault Refusal := .next (heldBack (.train l flit) s (doTrain s l flit))

/-- A trained link goes down: its unacknowledged flits are to be sent again on the other link (R412; log 31). -/
def linkDrop (s : State) (l : Nat) : State :=
  let x := getLink s l
  let fs := x.unacked.map (·.2)
  let s := setLink s l {}
  let s := wf (wf s (pgLink l + 0x80) 31 31 0) (pgTwy + 0x80) l l 0
  { s with twyQ := fs.filter (fun f => decide (f.ty ≠ 3)) ++ s.twyQ, twySigs := fs.filter (fun f => f.ty = 3) ++ s.twySigs }

/-- It goes down, and they go out where they can. -/
def linkLost (s : State) (l : Nat) : State := twyRun (linkDrop s l)

/-- LINK_DOWN (R312, R412). -/
def doLinkDown (s : State) (l : Nat) : State :=
  if up s && (getLink s l).trained then linkLost (errSet (ckptEvent s 4) (pgLink l) 8) l else s
def execLinkDown (l : Nat) (s : State) : Host.Outcome State Fault Refusal := .next (heldBack (.linkDown l) s (doLinkDown s l))

/-- LINK_RETRAIN (R312): a link that is not trained begins its training anew (R413). -/
def doLinkRetrain (s : State) (l : Nat) : State :=
  ownGuard s (pgLink l) (fun s =>
    if clocked s (pgLink l) then (if (getLink s l).trained then linkLost s l else setLink s l { getLink s l with heard := false }) else s)
def execLinkRetrain (l : Nat) (s : State) : Host.Outcome State Fault Refusal := .next (heldBack (.linkRetrain l) s (doLinkRetrain s l))

/-! ### The partner -/

/-- PARTNER_LOST (R293): rounds are broken off, SNAPs to the partner end as ABSENT (R301, R305). -/
def doPartnerLost (s : State) : State :=
  if !up s || !partnerUp s then s
  else
    let s := evtSet (wf s (pgTwy + 0x80) 31 31 0) pgTwy 8
    let s := logAdd s 0x0030 0xFFFF (pageId pgTwy) 0 0
    let s := dropFlits s (fun f => f.ty = 2 || f.ty = 3)
    let s := (List.range 64).foldl (fun s j => match getRound s j with
      | some r => if r.failed then s else setRound s j (some { r with lost := true })
      | none => s) s
    s.snaps.foldl (fun s x => if x.phase = .waiting then s else snapEnd s x.queue x.seq { status := if x.cancelled then stCancelled else stAbsent, partialOut := true }) s
def execPartnerLost (s : State) : Host.Outcome State Fault Refusal := .next (heldBack .partnerLost s (doPartnerLost s))

/-- A wake request goes to the partner (R294). -/
def wakeOut (s : State) : State := twyRun { s with twyQ := s.twyQ ++ [{ ty := 4 }] }

/-- WAKE_PARTNER. -/
def doWakePartner (s : State) : State := ownGuard s pgTwy (fun s => if clocked s pgTwy then wakeOut s else s)
def execWakePartner (s : State) : Host.Outcome State Fault Refusal := .next (heldBack .wakePartner s (doWakePartner s))

end Sys2Proof.Machine
end

