-- ==== Sys2Proof/Machine/Snap.lean ====
section
/-! DEFINITION. Snapshots (R302 to R306) and their restore (R307). -/

namespace Sys2Proof.Machine

/-! ### What a job owns, in ascending index -/

/-- Indices of a range register of a job (R330). -/
def ownedRange (s : State) (j o : Nat) : List Nat :=
  let k := bk (pgJob + o) j
  (List.range (rf s k 30 16)).map (rf s k 13 0 + ·)

def ownedValleys (s : State) (j : Nat) : List Nat := (List.range 1200).filter (ownsValley s j)

/-- Stage contexts with JOB equal to the job, enabled or not (R304). -/
def stageCtxs (s : State) (j : Nat) : List (Nat × Nat) := allCtxs.filter (fun p => decide (rf s (seqReg p.1 p.2 0x84) 30 25 = j))

/-- Cores behind the valid logical indices of the job's valleys (R304). -/
def jobCores (s : State) (j : Nat) : List Nat :=
  (ownedValleys s j).flatMap (fun v => (List.range s.grade.enabled).filterMap (logical s v))

/-! ### Sections (R304) -/

/-- Bytes up to the next 64-byte boundary. -/
def pad64 (l : List Byte) : List Byte := l ++ List.replicate (cdiv l.length 64 * 64 - l.length) 0

def bytesOf (ws : List Nat) : List Byte := ws.flatMap (leBytes 8)

/-- A stage context's item: its four registers, 8 bytes each (log 32). -/
def seqWords (s : State) (d x : Nat) : List Nat :=
  [rd s (seqReg d x 0x84), rd s (seqReg d x 0x88), rd s (seqReg d x 0x8C), rd s (seqReg d x 0x90) + 2 ^ 32 * rd s (seqReg d x 0x94)]

/-- Bytes of section `k`, unpadded. -/
def sectionBytes (s : State) (j k : Nat) : List Byte :=
  match k with
  | 0 => (ownedRange s j 0x90).flatMap (fun q => bytesOf (queueWords s q))
  | 1 => (ownedRange s j 0x94).flatMap (fun t => leBytes 8 (tmGet s t))
  | 2 => (ownedRange s j 0x98).flatMap (fun n => bytesOf (ringWords s n))
  | 3 => (stageCtxs s j).flatMap (fun p => bytesOf (seqWords s p.1 p.2))
  | 4 => (List.range 4096).flatMap (fun l => (getEsc s j l).words.flatMap (leBytes 4))
  | 5 => (jobCores s j).flatMap (fun c => leBytes 8 (getCore s c).rnd.toNat ++ leBytes 8 (getCore s c).drp.toNat)
  | _ => []

/-- Length of section `k` in an image of the job as it now is, padding included. -/
def sectionLen (s : State) (j k : Nat) : Nat :=
  let n := match k with
    | 0 => 64 * (ownedRange s j 0x90).length
    | 1 => 8 * (ownedRange s j 0x94).length
    | 2 => 32 * (ownedRange s j 0x98).length
    | 3 => 32 * (stageCtxs s j).length
    | 4 => 32 * 4096
    | 5 => 16 * (jobCores s j).length
    | _ => 0
  cdiv n 64 * 64

def partBits (parts : Nat) : List Nat := (List.range 6).filter (bitOf parts)

/-! ### The snapshot list (R304, R306) -/

def eKind (e : Rec) : Nat := wf' e 0 3 0
def eValleys (e : Rec) : List Nat := groupValleys (wf' e 1 3 0) (wf' e 1 7 4) (wf' e 1 11 8) (wf' e 1 15 12) (wf' e 1 19 16)
def eCores (e : Rec) : List Nat := (List.range (wf' e 1 35 28 + 1 - wf' e 1 27 20)).map (wf' e 1 27 20 + ·)
def eBase (e : Rec) : Nat := wf' e 1 53 36

/-- The list's header breaks R304; an export ignores PARTS (R306). -/
def listBad (exp : Bool) (h : Rec) : Bool :=
  decide (wd h 0 ≠ wd h 0 &&& (if exp then 0xFFFF00FF else 0xFFFF003F)) || (h.drop 1).any (· ≠ 0)

/-- An entry breaks R304, or names what the job does not own; an export takes KIND 3 alone (R306). -/
def entryBad (s : State) (j : Nat) (exp : Bool) (e : Rec) : Bool :=
  let k := eKind e
  let va := decide (2 ^ 52 ≤ wd e 1)
  decide (wd e 0 ≠ k) || decide (wd e 3 ≠ 0) || (exp && k ≠ 3) ||
  (match k with
   | 1 => va || decide (wd e 1 % 64 ≠ 0) || wd e 2 = 0 || decide (wd e 2 % 64 ≠ 0)
   | 2 =>
     decide (2 ^ 54 ≤ wd e 1) || wf' e 1 3 0 > 11 || wf' e 1 7 4 > wf' e 1 11 8 || wf' e 1 11 8 > 9 || wf' e 1 15 12 > wf' e 1 19 16 ||
     wf' e 1 19 16 > 9 || wf' e 1 27 20 > wf' e 1 35 28 || decide (wd e 2 % 32 ≠ 0) ||
     decide (eBase e + wd e 2 > 0x28000) || (eValleys e).any (fun v => !ownsValley s j v || (eCores e).any (fun n => (logical s v n).isNone))
   | 3 => va || decide (wd e 1 % 65536 ≠ 0) || wd e 2 = 0 || decide (2 ^ 32 ≤ wd e 2)
   | 4 => va || decide (wd e 1 % 64 ≠ 0) || decide (wd e 2 ≠ 0)
   | _ => true)

/-- Length of an entry's data, padding included. -/
def entryLen (e : Rec) : Nat :=
  let n := match eKind e with
    | 1 => wd e 2
    | 2 => (eValleys e).length * (eCores e).length * wd e 2
    | 3 => 64 * wd e 2
    | 4 => 2048
    | _ => 0
  cdiv n 64 * 64

/-- Reads at Tideway that may fail. -/
abbrev Rd (α : Type) := State × Except CompRec α

def Rd.bind {α β : Type} (r : Rd α) (f : State → α → Rd β) : Rd β :=
  match r.2 with
  | .error e => (r.1, .error e)
  | .ok a => f r.1 a

/-- Bytes at a job's address. -/
def rdBytesAt (s : State) (r : Req) (va n : Nat) : Rd (List Byte) :=
  let g := vread s r va n
  (g.s, match g.failed with | some e => .error e | none => .ok g.bytes)

/-- A list's entries, read and not yet checked. -/
def readList (s : State) (r : Req) (va : Nat) : Rd (Rec × List Rec) :=
  Rd.bind (rdBytesAt s r va 64) (fun s h =>
    let hw := words64 h
    let n := wf' hw 0 31 16
    Rd.bind (rdBytesAt s r (va + 64) (32 * n)) (fun s b =>
      let ws := words64 b
      (s, .ok (hw, (List.range n).map (fun i => (ws.drop (4 * i)).take 4)))))

/-- Bytes of a core range. -/
def coreBytes (s : State) (v n a len : Nat) : Rd (List Byte) :=
  match logical s v n with
  | some c => let g := sramLoad (carry s (.core c) [.io] len) c a len; (g.s, if g.bad.any id then .error { status := stEcc } else .ok g.bytes)
  | none => (s, .ok (List.replicate len 0))

/-- Results of several reads, joined. -/
def joinReads {α : Type} (f : State → α → Rd (List Byte)) : List α → State → Rd (List Byte)
  | [], s => (s, .ok [])
  | a :: l, s => Rd.bind (f s a) (fun s b => Rd.bind (joinReads f l s) (fun s c => (s, .ok (b ++ c))))

/-- An entry's data (R304). -/
def entryBytes (r : Req) (s : State) (e : Rec) : Rd (List Byte) :=
  match eKind e with
  | 1 => rdBytesAt s r (wd e 1) (wd e 2)
  | 2 => joinReads (fun s (p : Nat × Nat) => coreBytes s p.1 p.2 (eBase e) (wd e 2))
      ((eValleys e).flatMap (fun v => (eCores e).map (fun n => (v, n)))) s
  | 3 => joinReads (fun s i => rdBytesAt s r (wd e 1 + 0x10000 * i) 64) (List.range (wd e 2)) s
  | 4 => rdBytesAt s r (wd e 1) 2048
  | _ => (s, .ok [])

/-- EXPORT_FMT's rounding of a master (R306). -/
def exportWord (fmt : Nat) (w : Word32) : List Byte :=
  if fmt = 0 then leBytes 2 (roundNum .bf16 (f32 w)) else if fmt = 1 then leBytes 2 (roundNum .fp16 (f32 w)) else leBytes 4 (roundNum .fp32 (f32 w))

/-- The masters of one block's current copy, converted (R306). -/
def exportBlock (r : Req) (fmt va : Nat) (s : State) : Rd (List Byte) :=
  Rd.bind (rdBytesAt s r va 64) (fun s h =>
    Rd.bind (rdBytesAt s r (va + 0x1000 + 0x8000 * hSel (leNat (h.take 8))) 8192) (fun s m =>
      (s, .ok ((List.range 2048).flatMap (fun p => exportWord fmt (BitVec.ofNat 32 (leNat (slice m (4 * p) 4))))))))

/-! ### The image (R305) -/

def snExport (c : Rec) : Bool := bitOf (wd c 2) 0
def snPartner (c : Rec) : Bool := bitOf (wd c 2) 1
def snFmt (c : Rec) : Nat := wf' c 2 7 4
def snDest (c : Rec) : Nat := wd c 3
def snList (c : Rec) : Nat := wd c 4

/-- The 64-byte image header. -/
def imageHeader (exp : Bool) (parts job entries len time handle list : Nat) : List Byte :=
  bytesOf [1 + b2n exp * 2 ^ 8 + parts * 2 ^ 16 + job * 2 ^ 24, entries, len, time, handle, list, 0, 0]

/-- Items of the job's sections, in order of their PARTS bits. -/
def partCounts (s : State) (j : Nat) : List Nat :=
  [(ownedRange s j 0x90).length, (ownedRange s j 0x94).length, (ownedRange s j 0x98).length, (stageCtxs s j).length, 4096,
   (jobCores s j).length]

/-- What the image of a SNAP counts is known from now on. -/
def imageMark (s : State) (handle job : Nat) : State :=
  { s with images := s.images.filter (fun m => decide (m.handle ≠ handle)) ++ [⟨handle, partCounts s job⟩] }

/-- The image of a SNAP: its header and the rest. -/
def snapImage (s : State) (q seq job : Nat) (c : Rec) : Rd (List Byte × List Byte) :=
  let r := twyReq job (handleOf q seq)
  Rd.bind (readList s r (snList c)) (fun s (l : Rec × List Rec) =>
    if listBad (snExport c) l.1 || l.2.any (entryBad s job (snExport c)) then (s, .error { status := stFault, faultKind := 4 })
    else
      let time := islTime s islIo
      let parts := if snExport c then 0 else wf' l.1 0 5 0
      let head := fun (n : Nat) => imageHeader (snExport c) parts job l.2.length (64 + n) time (handleOf q seq) (snList c)
      if snExport c then
        Rd.bind (joinReads (fun s (e : Rec) =>
            joinReads (fun s i => exportBlock r (snFmt c) (wd e 1 + 0x10000 * i) s) (List.range (wd e 2)) s) l.2 s)
          (fun s b => (s, .ok (head b.length, b)))
      else
        Rd.bind (joinReads (fun s (e : Rec) => Rd.bind (entryBytes r s e) (fun s b => (s, .ok (pad64 b)))) l.2 s)
          (fun s b =>
            let body := (partBits parts).flatMap (fun k => pad64 (sectionBytes s job k)) ++ b
            (imageMark s (handleOf q seq) job, .ok (head body.length, body))))

/-- SNAP (R302): dispatched, it waits for SNAP_WRITE. -/
def doSnap (s : State) (q : Nat) : State :=
  dispatchBy s q opSnap (fun s seq h => longCmd s q seq h false (fun s =>
    settle { s with snaps := s.snaps ++ [{ queue := q, seq := seq, job := (getQ s q).job.toNat }] } pgTwy))
def execSnap (q : Nat) (s : State) : Host.Outcome State Fault Refusal := .next (headBack (.snap q) q s (doSnap s q))

/-- An image into the job's own memory: the header as zero, the rest, the header (R305). -/
def snapLocal (s : State) (x : SnapJob) (c : Rec) (head body : List Byte) : State :=
  let r := twyReq x.job (handleOf x.queue x.seq)
  let a := vwrite s r (snDest c) (List.replicate 64 0)
  let stop := fun (s : State) (va : Nat) (part : Bool) =>
    snapEnd s x.queue x.seq { status := stFault, faultKind := 1, detail := va, partialOut := part }
  match a.fault with
  | some va => stop a.s va false
  | none =>
    let b := vwrite a.s r (snDest c + 64) body
    match b.fault with
    | some va => stop b.s va true
    | none =>
      let d := vwrite b.s r (snDest c) head
      match d.fault with
      | some va => stop d.s va true
      | none => snapEnd d.s x.queue x.seq { status := stOk }

/-- An image to the partner: 4 KiB flits, the last filled with zero bytes. The first, with the header as zero, lands before any other, and
the header goes when all have landed (R305, R411; log 33). -/
def snapRemote (s : State) (x : SnapJob) (c : Rec) (head body : List Byte) : State :=
  let n := cdiv (64 + body.length) 4096
  let whole := List.replicate 64 0 ++ body
  let fs := (List.range n).map (fun i =>
    ({ ty := 2, image := true, job := partnerJob s x.job, owner := x.job, dest := snDest c + 4096 * i, body := slice whole (4096 * i) 4096 } : Flit))
  twyRun { s with snaps := s.snaps.map (fun y => if y.queue = x.queue && y.seq = x.seq then
                    { y with phase := .zero, first := head ++ (slice whole 0 4096).drop 64, rest := fs.drop 1 } else y),
                  twyQ := s.twyQ ++ fs.take 1 }

/-- SNAP_WRITE (R302, R305): the list is read and checked, and the image written, to the job's own memory or to the partner. -/
def doSnapWrite (s : State) (q seq : Nat) : State :=
  match s.snaps.find? (fun x => x.queue = q && x.seq = seq && decide (x.phase = .waiting)), opFind s q seq with
  | some x, some o =>
    let toP := snPartner o.cmd
    if !up s then s
    else if toP && !(working s pgTwy && clocked s pgTwy) then s
    else if toP && (decide (twyMode s x.job = 0) || !partnerUp s) then snapEnd s q seq { status := stAbsent }
    else
      let r := snapImage s q seq x.job o.cmd
      match r.2 with
      | .error e => snapEnd r.1 q seq e
      | .ok (h, b) => if toP then snapRemote r.1 x o.cmd h b else snapLocal r.1 x o.cmd h b
  | _, _ => s
def execSnapWrite (q seq : Nat) (s : State) : Host.Outcome State Fault Refusal := .next (heldBack (.snapWrite q seq) s (doSnapWrite s q seq))

/-- The header of a SNAP's image is on its way to the partner, or beyond. -/
def headerSent (s : State) (x : SnapJob) : Bool :=
  x.phase = .signal || (x.phase = .header && !s.twyQ.any (fun f => f.image && f.owner = x.job))

/-- Cancellation of a SNAP (R303): before step 3 it ends at once; in it, no further write starts, and it ends when those in flight have
landed. Once the header is sent the SNAP completes by itself (R231; log 200). -/
def snapCancel (s : State) (q seq : Nat) : State :=
  match s.snaps.find? (fun x => x.queue = q && x.seq = seq) with
  | some x =>
    if x.phase = .waiting then snapEnd s q seq { status := stCancelled }
    else if headerSent s x then s
    else
      let s := dropFlits s (fun f => f.image && f.owner = x.job)
      twyRun { s with snaps := s.snaps.map (fun y => if y.queue = q && y.seq = seq then { y with cancelled := true } else y) }
  | none => s

/-! ### Restore (R307) -/

def rsKey : Nat := pgTwy + 0xB8

/-- STATUS of TWY_RESTORE_CTRL. -/
def rsStatus (s : State) (st : Nat) : State := wf s rsKey 30 28 st

/-- Refused: STATUS 3 and RESTORE_REFUSED. -/
def rsRefuse (s : State) : State := errSet (rsStatus s 3) pgTwy 10

/-- A fault: STATUS 4, and the address held in TWY_RESTORE_ADDR. -/
def rsFault (s : State) (e : CompRec) : State := wr64 (rsStatus s 4) (pgTwy + 0xB0) (e.detail % 2 ^ 52)

/-- The job has work that forbids a restore. -/
def rsBusy (s : State) (j : Nat) : Bool :=
  jobState s j = 0 || (ownedRange s j 0x90).any (fun q => (getQ s q).enable && !(getQ s q).stopped) ||
  s.ops.any (fun o => o.job = j && opOpen o) || (stageCtxs s j).any (fun p => rb s (seqReg p.1 p.2 0x84) 31)

/-- Length of an image of the job as it now is, with the entries its list gives (log 34). -/
def imageLen (s : State) (j parts : Nat) (es : List Rec) : Nat :=
  64 + ((partBits parts).map (sectionLen s j)).sum + (es.map entryLen).sum

/-- The header does not read IMAGE_VER 1, or is an export's (R307). -/
def headBad (h : Rec) : Bool := decide (wf' h 0 7 0 ≠ 1) || bitOf (wd h 0) 8

/-- The image's header, and with ENTRIES 1 the entries of its list. -/
def rsImage (s : State) (j va : Nat) : Rd (Rec × List Rec) :=
  let r := twyReq j 0
  Rd.bind (rdBytesAt s r va 64) (fun s h =>
    let hw := words64 h
    if headBad hw || wd hw 1 = 0 || !rb s rsKey 8 then (s, .ok (hw, []))
    else Rd.bind (readList s r (wf' hw 5 51 0)) (fun s l => (s, .ok (hw, l.2))))

/-- The counts of an image's sections are not the job's now (R307). No header field holds them: those of an image of this module's SNAP are
known by its handle; of any other its length tells them, which without its list is only known to hold at least the sections (log 34). -/
def imageUnfit (s : State) (j : Nat) (h : Rec) (es : List Rec) : Bool :=
  let parts := wf' h 0 21 16
  let n := imageLen s j parts es
  (match s.images.find? (fun m => decide (m.handle = wd h 4)) with
   | some m => (partBits parts).any (fun k => decide (m.counts.getD k 0 ≠ (partCounts s j).getD k 0))
   | none => false) ||
  (if rb s rsKey 8 || wd h 1 = 0 then decide (wd h 2 ≠ n) else decide (wd h 2 < n))

/-- RESTORE: a START of TWY_RESTORE_CTRL is judged; accepted, STATUS reads running. -/
def restoreStart (s : State) (value : Nat) : State :=
  if rf s rsKey 30 28 = 1 then s
  else
    let s := wr s rsKey (rd s rsKey % 2 ^ 31 / 2 ^ 28 * 2 ^ 28 + (value &&& 0x3F013F))
    let j := bitsOf value 21 16
    if rsBusy s j then rsRefuse s
    else
      let r := rsImage s j (rd64 s (pgTwy + 0xB0))
      match r.2 with
      | .error e => rsFault r.1 e
      | .ok (h, es) =>
        if headBad h || imageUnfit r.1 j h es then rsRefuse r.1
        else settle (rsStatus r.1 1) pgTwy

def doRestore (s : State) (value : Word32) : State :=
  ownGuard s pgTwy (fun s => if clocked s pgTwy && bitOf value.toNat 31 then restoreStart s value.toNat else s)
def execRestore (value : Word32) (s : State) : Host.Outcome State Fault Refusal := .next (heldBack (.restore value) s (doRestore s value))

/-- A queue's context restored: HEAD, NEXT_SEQ, TAINTED, BAD_CMD_MODE, WATCHDOG; stopped with STOP_CAUSE 3. -/
def restoreQueue (x : Queue) (w : Rec) : Queue :=
  { moveHead { x.unwait with skipMode := bitOf (wd w 2) 12 } (wf' w 1 15 0) with
    nextSeq := BitVec.ofNat 50 (wd w 3), tainted := bitOf (wd w 2) 14, watchdog := BitVec.ofNat 16 (wf' w 2 47 32), stopped := true,
    stopCause := 3 }

/-- An escalation entry from its eight staging words, RO fields included (R77, R307). DESIGN CHOICE (log 175): the image does not hold
whether the step of LAST_STEP received a report or was closed; after a restore neither is so, and that step is never judged clean. -/
def restoreEsc (b : List Byte) : Esc :=
  let w := fun i => leNat (slice b (4 * i) 4)
  let high := bitOf (w 0) 28
  { enable := bitOf (w 0) 31, pin := BitVec.ofNat 2 (bitsOf (w 0) 30 29), toE4m3 := high, window := BitVec.ofNat 7 (bitsOf (w 0) 22 16),
    tripLimit := BitVec.ofNat 7 (bitsOf (w 0) 14 8), cleanRun := BitVec.ofNat 16 (bitsOf (w 1) 31 16),
    thresh := BitVec.ofNat 16 (bitsOf (w 1) 15 0), lastStep := BitVec.ofNat 32 (w 2), dispatchStep := BitVec.ofNat 32 (w 3),
    switchStep := BitVec.ofNat 32 (w 4), cleanCount := BitVec.ofNat 16 (bitsOf (w 5) 31 16), switches := BitVec.ofNat 16 (bitsOf (w 5) 15 0),
    history := BitVec.ofNat 64 (w 6 + 2 ^ 32 * w 7), past := if bitsOf (w 5) 15 0 = 0 then [] else [(w 4, high)],
    base := if bitsOf (w 5) 15 0 = 0 then false else !high }

/-- A stage context restored, ENABLE 0. -/
def restoreSeq (s : State) (d x : Nat) (w : Rec) : State :=
  wr (wr (wr (wr (wr s (seqReg d x 0x84) (wd w 0 % 2 ^ 31)) (seqReg d x 0x88) (wd w 1 % 2 ^ 32)) (seqReg d x 0x8C) (wd w 2 % 2 ^ 32))
    (seqReg d x 0x90) (wd w 3 % 2 ^ 32)) (seqReg d x 0x94) (wd w 3 / 2 ^ 32)

/-- Items of a section, in order, each with its bytes. -/
def withBytes {α : Type} (l : List α) (n : Nat) (b : List Byte) : List (α × List Byte) :=
  (List.range l.length).zipWith (fun i a => (a, slice b (n * i) n)) l

/-- A section of an image written into the job (R307). -/
def restorePart (s : State) (j k : Nat) (b : List Byte) : State :=
  match k with
  | 0 => (withBytes (ownedRange s j 0x90) 64 b).foldl (fun s e => setQ s e.1 (restoreQueue (getQ s e.1) (words64 e.2))) s
  | 1 => (withBytes (ownedRange s j 0x94) 8 b).foldl (fun s e => tmPut s e.1 (leNat e.2)) s
  | 2 => (withBytes (ownedRange s j 0x98) 32 b).foldl (fun s e =>
      setRing s e.1 { getRing s e.1 with readIdx := BitVec.ofNat 16 (wf' (words64 e.2) 1 47 32) }) s
  | 3 => (withBytes (stageCtxs s j) 32 b).foldl (fun s e => restoreSeq s e.1.1 e.1.2 (words64 e.2)) s
  | 4 => (withBytes (List.range 4096) 32 b).foldl (fun s e => setEsc s j e.1 (restoreEsc e.2)) s
  | 5 => (withBytes (jobCores s j) 16 b).foldl (fun s e =>
      setCore s e.1 { getCore s e.1 with rnd := BitVec.ofNat 64 (leNat (e.2.take 8)), drp := BitVec.ofNat 64 (leNat (e.2.drop 8)),
                                         rndLeft := [], drpLeft := [] }) s
  | _ => s

/-- Offset of section `k` in an image with PARTS `parts`. -/
def partOffset (s : State) (j parts k : Nat) : Nat := 64 + (((partBits parts).filter (· < k)).map (sectionLen s j)).sum

/-- A write at a job's address. -/
def putBytesAt (s : State) (r : Req) (va : Nat) (b : List Byte) : State × Option CompRec :=
  let w := vwrite s r va b
  (w.s, w.fault.map (fun va => { status := stFault, faultKind := 1, detail := va }))

/-- An entry's data written back (R307): KIND 2 as whole SRAM words, KIND 3 with BUSY 0. -/
def restoreEntry (s : State) (r : Req) (e : Rec) (b : List Byte) : State × Option CompRec :=
  match eKind e with
  | 1 => putBytesAt s r (wd e 1) (b.take (wd e 2))
  | 2 =>
    let ps := (eValleys e).flatMap (fun v => (eCores e).map (fun n => (v, n)))
    ((withBytes ps (wd e 2) b).foldl (fun s p => match logical s p.1.1 p.1.2 with
      | some c => (sramStore (carry s .io [.core c] p.2.length) c (eBase e) p.2).1
      | none => s) s, none)
  | 3 => (withBytes (List.range (wd e 2)) 64 b).foldl (fun (a : State × Option CompRec) p =>
      if a.2.isSome then a
      else putBytesAt a.1 r (wd e 1 + 0x10000 * p.1) (leBytes 8 (hSet (leNat (p.2.take 8)) 52 52 0) ++ p.2.drop 8)) (s, none)
  | _ => putBytesAt s r (wd e 1) (b.take 2048)

/-- Entries' data from `va` on, entry by entry. -/
def restoreEntries (r : Req) : Nat → List Rec → State → State × Option CompRec
  | _, [], s => (s, none)
  | va, e :: l, s =>
    let g := rdBytesAt s r va (entryLen e)
    match g.2 with
    | .error x => (g.1, some x)
    | .ok b =>
      let w := restoreEntry g.1 r e b
      if w.2.isSome then w else restoreEntries r (va + entryLen e) l w.1

/-- The sections selected in both the image's PARTS and the register's. -/
def restoreParts (r : Req) (j va parts sel : Nat) : List Nat → State → State × Option CompRec
  | [], s => (s, none)
  | k :: l, s =>
    if !bitOf sel k then restoreParts r j va parts sel l s
    else
      let g := rdBytesAt s r (va + partOffset s j parts k) (sectionLen s j k)
      match g.2 with
      | .error x => (g.1, some x)
      | .ok b => restoreParts r j va parts sel l (restorePart g.1 j k b)

/-- The running restore writes its sections and entries, and ends as done or fault (R307). -/
def restoreWrite (s : State) : State :=
  let j := rf s rsKey 21 16
  let va := rd64 s (pgTwy + 0xB0)
  let r := twyReq j 0
  let g := rsImage s j va
  match g.2 with
  | .error e => rsFault g.1 e
  | .ok (h, es) =>
    let parts := wf' h 0 21 16
    let a := restoreParts r j va parts (rf s rsKey 5 0) (partBits parts) g.1
    match a.2 with
    | some e => rsFault a.1 e
    | none =>
      let b := if rb s rsKey 8 then restoreEntries r (va + 64 + ((partBits parts).map (sectionLen a.1 j)).sum) es a.1 else (a.1, none)
      match b.2 with
      | some e => rsFault b.1 e
      | none => rsStatus b.1 2

/-- RESTORE_DONE. -/
def restoreRun (s : State) : State := settle (restoreWrite s) pgTwy

def doRestoreDone (s : State) : State :=
  if up s && clocked s pgTwy && decide (rf s rsKey 30 28 = 1) then restoreRun s else s
def execRestoreDone (s : State) : Host.Outcome State Fault Refusal := .next (heldBack .restoreDone s (doRestoreDone s))

end Sys2Proof.Machine
end

