-- ==== Sys2Proof/Machine/Slots.lean ====
section
/-! DEFINITION. Layer slots (R167 to R169, R181, R185, R187): configuration writes, the judgement of a START (R418), a task's run on a core,
its abort (R205) and its completion. -/

namespace Sys2Proof.Machine

/-! ### Configuration writes -/

/-- Words arrive at a slot of a valley (R185): writing CW0 makes an EMPTY or INVALID slot LOADED. -/
def cfgDeliver (s : State) (v l first : Nat) (ws : List Word64) : State :=
  let x := getV s v
  let y := x.slot l
  let st := if first = 0 && !ws.isEmpty && (y.st = .empty || y.st = .invalid) then .loaded else y.st
  setV s v (x.setSlot l { y with words := imagePut y.words first ws, st := st })

/-- Words are sent to the slots of a group; a held valley takes them when it leaves the hold (R392). -/
def cfgSend (s : State) (q seq : Nat) (c : Rec) (first : Nat) (ws : List Word64) : State :=
  (cValleys c).foldl (fun s v =>
    if valleyTakes s v then cfgDeliver s v (cLslot c) first ws
    else let x := getV s v; setV s v { x with inbox := x.inbox ++ [⟨q, seq, cLslot c, first, ws, false, none⟩] }) s

/-- The state GUARD_SEL's entry holds for its step, whose dispatch it is (R174). -/
def escSelect (s : State) (j sel : Nat) : State × Bool :=
  let layer := bitsOf sel 43 32
  let step := bitsOf sel 31 0
  let alt := (getEsc s j layer).stateFor step
  (escDispatch s j layer step, alt)

/-- A dispatched CFG_WRITE (R163, R174). -/
def cfgRun (s : State) (q seq : Nat) (h : Head) : State :=
  let j := (getQ s q).job.toNat
  let c := h.c
  let e := if bitOf (wd c 4) 19 then escSelect s j (wd c 6) else (s, false)
  let s := slCommand e.1 q seq c e.2 false
  let g := nread s j (handleOf q seq) (if e.2 then wd c 5 else wd c 3) (8 * wf' c 4 18 9)
  let r := match g.failed with
    | some r => (g.s, r)
    | none => (cfgSend g.s q seq c (wf' c 4 8 0) (words64 g.bytes), ({} : CompRec))
  signalOf (finishCmd r.1 q seq h r.2) q seq h

/-- CFG_WRITE. -/
def doCfgWrite (s : State) (q : Nat) : State := dispatchBy s q opCfgWrite (fun s seq h => cfgRun s q seq h)
def execCfgWrite (q : Nat) (s : State) : Host.Outcome State Fault Refusal := .next (headBack (.cfgWrite q) q s (doCfgWrite s q))

/-- PATCH (R163). -/
def doPatch (s : State) (q : Nat) : State :=
  dispatchBy s q opPatch (fun s seq h =>
    shortCmd s q seq h (fun s => (cfgSend s q seq h.c (wf' h.c 3 8 0) ((h.c.drop 4).take (wf' h.c 3 11 9)), {})))
def execPatch (q : Nat) (s : State) : Host.Outcome State Fault Refusal := .next (headBack (.patch q) q s (doPatch s q))

/-! ### Regions of a task (R207) -/

/-- Bytes of a tensor in the skewed layout from its base to the end of stored row `row`. -/
def tensorSpan (base nseg row unit : Nat) : Nat × Nat := (base, base + unit * up8 (row + 1) * nseg)

/-- Regions of a tensor: elements, and headers where Pajor. -/
def tensorRegions (t : Tensor) (f row : Nat) : List (Nat × Nat) :=
  tensorSpan t.base t.nseg row 32 :: (if isPajor f then [tensorSpan t.hdr t.nseg row (hdrBytes f)] else [])

/-- Highest stored row a side of a record reads. -/
def sideRow (c : Chain) (s : Side) (mask rank : Nat) : Nat :=
  s.row + (c.repeats - 1) * s.rrow + (if s.across then c.passes * c.len * rank - 1 else topBit mask)

/-- Highest stored row of the results of a record. -/
def outRowMax (c : Chain) : Nat := c.outRow + (c.repeats - 1) * c.outRRow + topBit c.rmask

/-- Input and output regions of a task in the cores of valley `v` that run it. -/
def taskRegions (v : Nat) (m : Image) : List (Nat × Nat) × List (Nat × Nat) :=
  if iKind m = 2 then
    let rows := rRows m - 1
    let gsz := elemBytes (iFmtB m)
    let back := rOp m = 4 || rOp m = 5 || rOp m = 6
    let gam := rOp m = 1 || rOp m = 2 || rOp m = 4 || rOp m = 5
    let cols := if rColsum m && (rOp m = 4 || rOp m = 5) then
      [(rColsumBase m, rColsumBase m + rSeg m * (if rOp m = 4 then 8 else 4))] else []
    (tensorRegions (rX m) (iFmtA m) rows ++ (if back then tensorRegions (rDy m) (iFmtA m) rows else []) ++
      (if gam then [(rGamma m, rGamma m + rSeg m * gsz)] else []) ++
      (if rOp m = 1 then [(rBeta m, rBeta m + rSeg m * gsz)] else []) ++ (if rColInit m then [] else cols),
     (if rOp m ≠ 7 && !iHandOff m then tensorRegions (iTensor m 21) (outFmt (iOutFmt m)) rows else []) ++ cols ++
      (if usesCrest m then [(rCrestBase m, rCrestBase m + rRows m * rCrestK m * 8)] else []))
  else
    let rank := match pairOf (iFmtA m) (iFmtB m) with | some p => p.rank | none => 1
    let cs := chainList m
    let here := fun (x : Side) => decide (sideValley v x = v) &&
      (decide (x.core = 255) || cs.any (fun c => c.drain && decide (c.first ≤ x.core) && decide (x.core ≤ c.last)))
    let ins := cs.flatMap (fun c =>
      (if here c.a then tensorRegions (iTensor m 8) (iFmtA m) (sideRow c c.a c.rmask rank) else []) ++
      (if here c.b then tensorRegions (iTensor m 9) (iFmtB m) (sideRow c c.b c.cmask rank) else []))
    let drains := cs.filter (·.drain)
    let row := drains.foldl (fun a c => max a (outRowMax c)) 0
    let bias := cf m 11 17 0
    let mask := tensorSpan (cf m 11 35 18) (besideSegs m 256) row 32
    let sz := elemBytes (sideFmt (iSideFmt m))
    if drains.isEmpty then (ins, [])
    else
      (ins ++ (if usesSide m then [tensorSpan bias (besideSegs m (segElems (sideFmt (iSideFmt m)))) row 32] else []) ++
        (if iBiasSrc m = 1 then [(bias, bias + resultElems m * sz)] else []) ++
        (if iBiasSrc m = 2 then [(bias, bias + (row + 1) * sz)] else []) ++
        (if iDeriv m = 1 || iDeriv m = 2 then [mask] else []),
       (if iHandOff m then [] else tensorRegions (iTensor m 10) (outFmt (iOutFmt m)) row) ++ (if iMaskEmit m ≠ 0 then [mask] else []))

/-- NONRESTART (R206, R207): an output region overlaps an input region. -/
def taskOverlap (v : Nat) (m : Image) : Bool :=
  let r := taskRegions v m
  r.1.any (fun i => r.2.any (fun o => decide (i.1 < o.2) && decide (o.1 < i.2)))

/-! ### The judgement of a START -/

/-- Update a slot of a valley. -/
def slotMod (s : State) (v l : Nat) (f : Slot → Slot) : State :=
  let x := getV s v
  setV s v (x.setSlot l (f (x.slot l)))

/-- Capture VLY_CFG_ERR while its VALID is 0 (R187). -/
def captureCfg (s : State) (v l word : Nat) (absent : Bool) : State :=
  let k := pgValley v + 0x128
  if rb s k 31 then s else wr s k (2 ^ 31 + b2n absent * 2 ^ 30 + l * 2 ^ 12 + word)

/-- A START that is not run, as R181 and R184 give: logged, slots INVALID, its record written. -/
def startSkip (s : State) (o : Op) (reason status : Nat) : State :=
  let s := logAdd s 0x0010 o.index (pageId pgQm) (o.job + o.opcode * 64 + reason * 2 ^ 14) (handleOf o.queue o.seq)
  let s := (cValleys o.cmd).foldl (fun s v => slotMod s v (cLslot o.cmd) (fun y => { y with st := .invalid })) s
  opEnd s o.queue o.seq { status := status, badReason := reason, index := o.recIndex }

/-- The image a START finds in a valley of its group. -/
def startImage (s : State) (o : Op) (v : Nat) : Image := ((getV s v).slot (cLslot o.cmd)).words

/-- The header of a task, as its first valley holds it. -/
def taskHeader (s : State) (o : Op) : Image := startImage s o ((cValleys o.cmd).headD 0)

/-- The task starts (R168): its slot is ARMED in every valley. -/
def startArm (s : State) (o : Op) : State :=
  let vs := cValleys o.cmd
  let s := vs.foldl (fun s v =>
    let x := getV s v
    let m := startImage s o v
    let t : Task := { queue := o.queue, seq := o.seq, cores := taskCores s v m, nonrestart := taskOverlap v m }
    slotMod (setV s v { x with armed := x.armed + 1 }) v (cLslot o.cmd)
      (fun y => { y with st := .armed, armNo := x.armed + 1, task := some t })) s
  settleValleys s vs

/-- Conditions 2 to 5 of R418. An image that names what the job does not own is not run either (R314; log 201). -/
def startCheck (s : State) (o : Op) : State :=
  let vs := cValleys o.cmd
  let l := cLslot o.cmd
  let inval := vs.filter (fun v => decide (((getV s v).slot l).st = .invalid))
  let bad := vs.filterMap (fun v => if inval.contains v then none else (imageBad s.grade (startImage s o v)).map (fun w => (v, w)))
  if !inval.isEmpty || !bad.isEmpty then
    let s := inval.foldl (fun s v => errSet s (pgValley v) 12) s
    let s := bad.foldl (fun s e => captureCfg (errSet s (pgValley e.1) 11) e.1 l e.2 false) s
    startSkip s o 7 stSkipped
  else if vs.any (fun v => (imageForeign s o.job v (startImage s o v)).isSome) then
    startSkip (vs.foldl (fun s v => match imageForeign s o.job v (startImage s o v) with
      | some w => captureCfg (errSet s (pgValley v) 11) v l w false
      | none => s) s) o 5 stSkipped
  else
    let gone := vs.filterMap (fun v => (imageAbsent s v (startImage s o v)).map (fun w => (v, w)))
    if !gone.isEmpty then
      startSkip (gone.foldl (fun s e => captureCfg (errSet s (pgValley e.1) 13) e.1 l e.2 true) s) o 6 stAbsent
    else
      let m := taskHeader s o
      let r := verCheck s o.job (handleOf o.queue o.seq) (iPbFirst m) (iPbCount m) (iStep m) (iRetain m)
      match r.2 with
      | some rec => opEnd r.1 o.queue o.seq rec
      | none => startArm r.1 o

/-- R418: a pending linked abort comes first. A slot that a skipped write met meanwhile is INVALID once the START has left it (R185). -/
def startJudge (s : State) (o : Op) : State :=
  let vs := cValleys o.cmd
  let l := cLslot o.cmd
  let s := { s with starts := s.starts.filter (fun k => decide (k ≠ (o.queue, o.seq))) }
  match vs.findSome? (fun v => ((getV s v).slot l).linkAbort) with
  | some r =>
    let overlap := vs.any (fun v => (imageBad s.grade (startImage s o v)).isNone && taskOverlap v (startImage s o v))
    let s := vs.foldl (fun s v => slotMod s v l (fun y => { y with linkAbort := none })) s
    vs.foldl (fun s v => slotSpoiled s v l) (opEnd s o.queue o.seq { r with partialOut := false, nonrestart := overlap })
  | none => vs.foldl (fun s v => slotSpoiled s v l) (startCheck s o)

/-- A dispatched START is judged once no valley of its group is in the hold or entering it, nor has an earlier HOLD of its queue to come
(R22, R392). -/
def startTry (s : State) (q seq : Nat) : State :=
  match opFind s q seq with
  | some o =>
    if s.starts.contains (q, seq) && (cValleys o.cmd).all (fun v => valleyTakes s v && !holdAhead s q seq v) then startJudge s o else s
  | none => s

/-- A dispatched START (R168, R174, R187). -/
def startRun (s : State) (q seq : Nat) : State :=
  match opFind s q seq with
  | some o =>
    let m := taskHeader s o
    let s := if iGuardEn m then escDispatch s o.job (iLayer m) (iStep m) else s
    let s := (cValleys o.cmd).foldl (fun s v => slotMod s v (cLslot o.cmd) (fun y =>
      { y with handle := BitVec.ofNat 64 (handleOf q seq) })) s
    startTry { s with starts := s.starts ++ [(q, seq)] } q seq
  | none => s

/-- START. -/
def doStart (s : State) (q : Nat) : State :=
  dispatchBy s q opStart (fun s seq h => longCmd s q seq h false (fun s => startRun s q seq))
def execStart (q : Nat) (s : State) : Host.Outcome State Fault Refusal := .next (headBack (.start q) q s (doStart s q))

/-! ### Tasks -/

/-- The task of a slot. -/
def taskOf (s : State) (v l : Nat) : Option Task := ((getV s v).slot l).task

/-- Update the task of a slot. -/
def taskMod (s : State) (v l : Nat) (f : Task → Task) : State :=
  slotMod s v l (fun y => { y with task := y.task.map f })

/-- Progress of logical core `n` with a task. -/
def Task.run (t : Task) (n : Nat) : CoreRun := tget {} t.runs n
def Task.setRun (t : Task) (n : Nat) (r : CoreRun) : Task := { t with runs := tput {} t.runs n r }

/-- Passes of logical core `n` under an image. -/
def coreTotal (m : Image) (n : Nat) : Nat := if iKind m = 2 then 0 else passTotal (coreChains m n)

/-- Draining passes of logical core `n`. -/
def coreDrains (m : Image) (n : Nat) : Nat :=
  ((coreChains m n).filter (·.drain)).foldl (fun a c => a + c.repeats) 0

/-- A core has issued all it will of a task (R168): its last pass, or its row operations. -/
def Task.issuedAll (t : Task) (m : Image) (n : Nat) : Bool :=
  (t.run n).on && (if iKind m = 2 then t.applied else decide ((t.run n).issued = coreTotal m n))

/-! ### The generators (R66, R114) -/

/-- A seed mixed with the place of a core; a zero result becomes `alt`. -/
def seeded (seed v n alt : Nat) : Word64 :=
  let x := seed ^^^ (v * 256 + n)
  BitVec.ofNat 64 (if x % 2 ^ 64 = 0 then alt else x)

/-- A task with SEED_LOAD loads a core's generators as it begins there, or once an earlier task has performed its last drain there. -/
def seedCore (s : State) (v l n : Nat) : State :=
  let m := ((getV s v).slot l).words
  match taskOf s v l, logical s v n with
  | some t, some c =>
    if iSeedLoad m && !(t.run n).seeded then
      let s := taskMod s v l (fun t => t.setRun n { t.run n with seeded := true })
      setCore s c { getCore s c with rnd := seeded (cw m 1) v n 0x9E3779B97F4A7C15, rndLeft := [],
                                     drp := seeded (cw m 6) v n 0xD1B54A32D192ED03, drpLeft := [] }
    else s
  | _, _ => s

/-- Work of the other slot is outstanding on a core. -/
def otherBusy (s : State) (v l n : Nat) : Bool :=
  match taskOf s v (1 - l) with
  | some t =>
    let m := ((getV s v).slot (1 - l)).words
    t.cores.contains n && (t.run n).on && t.ending.isNone && decide ((t.run n).drained < coreDrains m n)
  | none => false

/-- A core's generators at the end of a task there: the draws left of the latest step are discarded (R66, R114). -/
def endDraws (s : State) (v n : Nat) : State :=
  match logical s v n with
  | some c => setCore s c { getCore s c with rndLeft := [], drpLeft := [] }
  | none => s

/-- Work of the other slot, of an older task, is outstanding on a core. -/
def olderBusy (s : State) (v l n : Nat) : Bool :=
  otherBusy s v l n && decide (((getV s v).slot (1 - l)).armNo < ((getV s v).slot l).armNo)

/-- A task has drained all it will on a core: leftover draws are discarded, and a task that waited for its seeds takes them (R66). -/
def drawsLeave (s : State) (v l n : Nat) : State :=
  let s := endDraws s v n
  match taskOf s v (1 - l) with
  | some o => if o.cores.contains n && (o.run n).on then seedCore s v (1 - l) n else s
  | none => s

/-- A task's generators on a core where it ends early with drains or rows to come: its seeds are loaded, its leftover draws discarded, unless
an older task still drains there (R66, R114). -/
def drawsAbort (s : State) (v l n : Nat) : State :=
  let m := ((getV s v).slot l).words
  match taskOf s v l with
  | some t =>
    let left := if iKind m = 2 then !t.applied else decide ((t.run n).drained < coreDrains m n)
    if (t.run n).on && left && !olderBusy s v l n then drawsLeave (seedCore s v l n) v l n else s
  | none => s

/-- What is left of a task that ends early in one core: issued passes run to their end, nothing else (R205). -/
def Core.dropTask (x : Core) (l : Nat) : Core :=
  let keep := fun (p : Option Panel) => match p with
    | some a => if decide (a.lslot = l) && !(x.inArray.contains (a.lslot, a.pass)) then none else p
    | none => none
  { x with inlet0 := keep x.inlet0, inlet1 := keep x.inlet1, toDrain := x.toDrain.filter (fun p => decide (p.1 ≠ l)),
           group := match x.group with | some g => if g.lslot = l then none else some g | none => none }

/-- The MODE 1 descriptor in progress on an Ebb stream (R198, R199). -/
def handDesc (s : State) (h n : Nat) : Option DescSt :=
  let x := getStream s ⟨.ebb, h⟩ n
  match x.copies with
  | c :: _ => (match c.active with
    | d :: _ => if c.ending.isNone && decide (dMode d.d = 1) && d.opened && !streamKept s x then some d else none
    | [] => none)
  | [] => none

/-- Units on their way to an Ebb stream. -/
def unitsFor (s : State) (h n : Nat) : List HandUnit := s.handoffs.filter (fun u => u.stack = h && u.stream = n)

/-- Units that the descriptor in progress on an Ebb stream has left, those on their way among them (R198). -/
def unitsLeft (s : State) (h n : Nat) : Nat :=
  match handDesc s h n with
  | some d => dCount d.d 1 * dCount d.d 2 - d.units
  | none => 0

/-- A unit on its way for which its stream has no descriptor in progress, or none with units left: it waits at its core (R199). DESIGN CHOICE
(log 212): so does one whose COPY has aborted or been cancelled meanwhile, until the stream's next MODE 1 descriptor. -/
def unitStuck (s : State) (u : HandUnit) : Bool := ((unitsFor s u.stack u.stream).drop (unitsLeft s u.stack u.stream)).contains u

/-- A task ends early in every valley of its group (R205, R230): the first cause decides. A drain that has begun completes: its units that
wait for their stream go on waiting (log 211). -/
def taskAbort (s : State) (q seq : Nat) (r : CompRec) : State :=
  match opFind s q seq with
  | some o =>
    let l := cLslot o.cmd
    (cValleys o.cmd).foldl (fun s v => match taskOf s v l with
      | some t =>
        if decide (t.queue = q) && decide (t.seq = seq) && t.ending.isNone then
          let s := t.cores.foldl (fun s n => drawsAbort s v l n) s
          let s := taskMod s v l (fun t => { t with ending := some r })
          t.cores.foldl (fun s n => match logical s v n with
            | some c => setCore s c ((getCore s c).dropTask l)
            | none => s) s
        else s
      | none => s) s
  | none => s

/-- The task of a slot ends early. -/
def taskStop (s : State) (v l : Nat) (r : CompRec) : State :=
  match taskOf s v l with
  | some t => taskAbort s t.queue t.seq r
  | none => s

/-- A COPY's abort reaches a linked slot (R204): its task aborts, or the next to start there. -/
def linkedAbort (s : State) (v l : Nat) (r : CompRec) : State :=
  if ((getV s v).slot l).st.busy then taskStop s v l r
  else slotMod s v l (fun y => if y.linkAbort.isSome then y else { y with linkAbort := some r })

/-- A valley's cores go on with issued work: its clocks run (R392). -/
def coresRun (s : State) (v : Nat) : Bool := up s && clocked s (pgValley v)

/-- A valley's cores begin new work: it is neither held nor entering the hold. -/
def coresIssue (s : State) (v : Nat) : Bool := coresRun s v && working s (pgValley v)

/-! ### When a slot runs -/

/-- The other slot is ARMED or RUNNING on a core, ahead of this one (R168). -/
def slotBlocked (s : State) (v l n armNo : Nat) : Bool :=
  let y := (getV s v).slot (1 - l)
  match y.task with
  | some t =>
    t.cores.contains n && t.ending.isNone &&
    (if (t.run n).on then !(t.issuedAll y.words n) else decide (y.armNo < armNo))
  | none => false

/-- A slot whose cores have all issued their last pass stands in TAIL (R167). -/
def slotTail (s : State) (v l : Nat) : State :=
  let y := (getV s v).slot l
  match y.task with
  | some t => if t.cores.all (t.issuedAll y.words) then slotMod s v l (fun y => { y with st := .tail }) else s
  | none => s

/-! ### TASK_COMPLETE -/

/-- A unit of a task keeps it from completing: its stream does not take it yet (R199), or will refuse it as stray and abort the task. -/
def unitHolds (s : State) (v : Nat) (t : Task) (u : HandUnit) : Bool :=
  decide (u.valley = v) && decide (u.queue = t.queue) && decide (u.seq = t.seq) &&
    (unitStuck s u || (handDesc s u.stack u.stream).any (fun d => !handOk d.d u))

/-- Every core of a valley is done with a task: its last drain performed, or its issued passes at their end where it ends early; no unit of its
drains waits. -/
def taskDone (s : State) (v l : Nat) : Bool :=
  let y := (getV s v).slot l
  match y.task with
  | some t =>
    if s.handoffs.any (unitHolds s v t) then false
    else if t.ending.isSome then
      t.cores.all (fun n => match logical s v n with
        | some c => !((getCore s c).inArray.any (fun p => decide (p.1 = l)))
        | none => true)
    else if iKind y.words = 2 then t.applied
    else t.cores.all (fun n => (t.run n).on && decide ((t.run n).done = coreTotal y.words n) &&
      decide ((t.run n).drained = coreDrains y.words n))
  | none => false

/-- The task leaves its slots: LOADED again, words unchanged (R169, R205). A task without a drain on a core has loaded its seeds there (R66). -/
def slotFree (s : State) (v l : Nat) : State :=
  match taskOf s v l with
  | some t =>
    let s := t.cores.foldl (fun s n => if t.ending.isNone && (t.run n).on && !otherBusy s v l n then seedCore s v l n else s) s
    slotSpoiled (slotMod s v l (fun y => { y with st := .loaded, armNo := 0, task := none })) v l
  | none => s

/-- The record of a task that ran to its end (R69, R106, R169), and its report. -/
def taskFinish (s : State) (o : Op) (m : Image) (ts : List Task) : State × CompRec :=
  let flags := ts.foldl (fun a t => flOr a t.flags) 0
  let clip := (ts.map (·.clipSum)).sum
  let elems := (ts.map (·.elemSum)).sum
  match (if iGuardEn m then guardJudge s o.job (iLayer m) clip elems else none) with
  | some g => (addReport s o.job (iLayer m) (iStep m) g, { flags := flOr flags (if g then flGuard else 0) })
  | none => (s, { flags := flags })

/-- Valleys of a START's group that hold its task. -/
def taskValleys (s : State) (o : Op) : List Nat :=
  (cValleys o.cmd).filter (fun v => (taskOf s v (cLslot o.cmd)).any (fun t => decide (t.queue = o.queue) && decide (t.seq = o.seq)))

/-- The registers of a valley's slots stand still: it is in the hold, or sounding from it (R38). -/
def valleyStill (s : State) (v : Nat) : Bool := held s (pgValley v) || (blk s (pgValley v)).scope.isSome

/-- A row task leaves the row and Crest units of its valley, where the other slot's does not gather in them already (R132). -/
def rowLeave (s : State) (v l : Nat) : State :=
  let y := (getV s v).slot (1 - l)
  if iKind y.words = 2 && y.task.any (fun t => !t.gathered.isEmpty) then s
  else wf (wr s (pgValley v + 0xC10) 0) (pgValley v + 0xC20) 1 1 0

/-- A task that has ended leaves a slot of a valley, and its row and Crest units (R132, R169). -/
def taskLeaveIn (s : State) (v l : Nat) : State :=
  let row := decide (iKind ((getV s v).slot l).words = 2)
  let s := slotFree s v l
  if row then rowLeave s v l else s

/-- A task that has ended leaves its slots; one in a held valley as that leaves the hold (R38, R392). -/
def taskLeave (s : State) (o : Op) : State :=
  let vs := (taskValleys s o).filter (fun v => !valleyStill s v)
  settleValleys (vs.foldl (fun s v => taskLeaveIn s v (cLslot o.cmd)) s) vs

/-- Tasks that ended while their valley stood in the hold leave its slots. -/
def slotsLeave (s : State) (v : Nat) : State :=
  settleValleys (([0, 1] : List Nat).foldl (fun s l => match taskOf s v l with
    | some t => if opRunning s t.queue t.seq || opKept s t.queue t.seq then s else taskLeaveIn s v l
    | none => s) s) [v]

/-- One completion for a START whose group is done, over the valleys that still hold its task (R169, R205, R248); its slots
are held until the record has a place (R219). -/
def taskComplete (s : State) (o : Op) : State :=
    let q := o.queue
    let seq := o.seq
    let l := cLslot o.cmd
    let vs := taskValleys s o
    let ts := vs.filterMap (fun v => taskOf s v l)
    if ts.isEmpty || !(vs.all (fun v => taskDone s v l)) then s
    else
      let m := ((getV s (vs.headD 0)).slot l).words
      let e := verEnd s o.job (handleOf q seq) (iPbFirst m) (iPbCount m) (iStep m) (iRetain m)
      let wrote := ts.any (·.partialOut)
      let overlap := ts.any (·.nonrestart)
      let r := match ts.findSome? (·.ending), e.2 with
        | some r, _ => (e.1, { r with partialOut := wrote, nonrestart := overlap })
        | none, some r => (e.1, r)
        | none, none => taskFinish e.1 o m ts
      let s := opEnd r.1 q seq r.2
      if opKept s q seq then s else taskLeave s o

/-- TASK_COMPLETE: a completion out of a die whose steward is in reset waits in the relay (R366), and one of a held valley until that leaves
the hold (R38, R392). -/
def doTaskComplete (s : State) (q seq : Nat) : State :=
  match opFind s q seq with
  | some o =>
    if up s && o.opcode = opStart && decide (o.phase = .running) && !s.starts.contains (q, seq) &&
       (cValleys o.cmd).all (fun v => decide (stateOf s (pgSteward (v / 100)) ≠ 1) && !valleyStill s v) then taskComplete s o else s
  | none => s
def execTaskComplete (q seq : Nat) (s : State) : Host.Outcome State Fault Refusal := .next (heldBack (.taskComplete q seq) s (doTaskComplete s q seq))

end Sys2Proof.Machine
end

