-- ==== Sys2Proof/Machine/Array.lean ====
section
/-! DEFINITION. The outer-product array (R79 to R101): filling a panel slot, issuing a pass, and the result of a pass in its tile. -/

namespace Sys2Proof.Machine

/-! ### Panels (R80, R82, R89, R91) -/

/-- A core's SRAM read by another over the plain is refused where its valley is out of service (R150). -/
def valleyRefuses (s : State) (v : Nat) : Bool := stateOf s (pgValley v) = 2 || stateOf s (pgValley v) = 7 || stateOf s (pgValley v) = 8

/-- REFUSED and its count in a valley (R150). -/
def refused (s : State) (v : Nat) : State := incSat (errSet s (pgValley v) 10) (pgValley v + 0xD14) 31 16 1

/-- Plain reads that wait at a bank for word `w` of logical core `n` (R139). -/
def heldFor (s : State) (v n w : Nat) : List HeldRead :=
  (getV s v).reads.filter (fun r => decide (r.core = n) && decide (r.addr / 32 = w))

/-- Plain reads leave the bank. -/
def heldDrop (s : State) (v n w : Nat) : State :=
  let x := getV s v
  setV s v { x with reads := x.reads.filter (fun r => !(decide (r.core = n) && decide (r.addr / 32 = w))) }

/-- What each requester receives of a word (R136, R140). -/
def heldRsp (g : Got) (r : HeldRead) : PlainRsp :=
  let y := wordSeen g.bytes r.upset
  ⟨r.src, y.1, g.bad.any id || decide (y.2 = .bad)⟩

/-- One bank read of word `w`, got as `g`, serves every plain read that waits for it: one packet with every requester as a destination;
`own`: reads that caused the bank read, the others being merged (R139, R140). -/
def serveWith (v n c w own : Nat) (g : Got) : State :=
  let mine := heldFor g.s v n w
  if mine.isEmpty then g.s
  else
    let s := heldDrop g.s v n w
    let s := mine.foldl (fun s r => (transitNote s c w (wordSeen g.bytes r.upset).2).1) s
    let s := inc32 (carry s (.core c) (mine.map (·.src)) 32) (pgValley v + 0xD10) (mine.length - own)
    { s with out := s.out ++ [.plain (mine.map (heldRsp g))] }

/-- A bank's window is open for word `w` of a core of valley `v`: the same word was read for another core's inlets or an engine within
MERGE_WINDOW, and has not been written since (R139). -/
def windowOpen (s : State) (v c w : Nat) : Bool :=
  let t := tget 0 s.bankAt (sramWord c w)
  let win := rf s (pgValley v + 0xD00) 11 8
  decide (0 < t) && decide (0 < win) && decide (s.cycles + 1 ≤ t + win)

/-- One 32-byte word read by an inlet or an engine from logical core `n` of valley `v`, with the plain reads that wait for it. `remote`: it
is a plain read of its own, which the bank holds for its window: a second one meanwhile is served by the first one's bank read
(R139). DESIGN CHOICE (log 214): the bank read that ends the window is made as its first request comes. -/
def bankRead (s : State) (v n c w : Nat) (remote : Bool) : Got :=
  let g := sramRead s c w
  if remote && windowOpen s v c w then { g with s := serveWith v n c w 0 { g with s := inc32 s (pgValley v + 0xD10) 1 } }
  else
    let s := serveWith v n c w 0 g
    let hold := remote && decide (rf s (pgValley v + 0xD00) 11 8 ≠ 0)
    { g with s := if hold then { s with bankAt := tput 0 s.bankAt (sramWord c w) (s.cycles + 1) } else s }

/-- A core at a corner of a valley: its pass ends are those of every other of the valley. -/
def valleyCorner (v : Nat) : Nat := v / 100 * 25600 + v % 100 / 10 * 16 * 160 + v % 10 * 16

/-- The answer to a refused read: poisoned words, from the valley's boundary (R137, R150, R158). -/
def poisonReply (s : State) (v n : Nat) (src : Place) : State :=
  let s := carry s (.core (valleyCorner v)) [src] (32 * n)
  { s with out := s.out ++ [.plain (List.replicate n ⟨src, List.replicate 32 0, true⟩)] }

/-- A plain read that waits in a valley is refused with every word of its packet that waits there (R150). -/
def refusePacket (s : State) (v pkt : Nat) : State :=
  let rs := (getV s v).reads.filter (fun r => decide (r.pkt = pkt))
  let s := setV s v { getV s v with reads := (getV s v).reads.filter (fun r => decide (r.pkt ≠ pkt)) }
  match rs with
  | r :: _ => poisonReply (refused s v) v rs.length r.src
  | [] => s

/-- Plain reads of a valley that takes none any more are refused (R150; log 180). -/
def refuseReads (s : State) (v : Nat) : State :=
  ((getV s v).reads.map (·.pkt)).eraseDups.foldl (fun s p => refusePacket s v p) s

/-- The error a word of a core picks up in transit. -/
def wireErr (errs : List WireErr) (v n w : Nat) : List Byte :=
  match errs.find? (fun e => decide (e.valley = v) && decide (e.core = n) && decide (e.word = w)) with
  | some e => e.upset
  | none => []

/-- Where a side is read: for core `me` of valley `v`, from logical core `n`, at `src`, of valley `u`; with the errors its words pick up on
their way (R136). -/
structure Source where
  v    : Nat
  me   : Nat
  u    : Nat
  n    : Nat
  src  : Option Nat
  errs : List WireErr

/-- One 32-byte word for a panel; a refused read returns a poisoned word (R150). A word of another core is checked as it is consumed, and an
error found then is captured at the core that consumes it (R136, R157). DESIGN CHOICE (log 185): a refused side counts one packet for
each word. -/
def panelRead (s : State) (x : Source) (w : Nat) : Got :=
  match (if decide (x.u ≠ x.v) && valleyRefuses s x.u then none else x.src) with
  | some c =>
    if c = x.me then bankRead s x.u x.n c w false
    else
      let g := bankRead s x.u x.n c w true
      let y := wordSeen g.bytes (wireErr x.errs x.u x.n w)
      let t := transitNote g.s x.me w y.2
      ⟨t.1, y.1, if t.2 then List.replicate 32 true else g.bad⟩
  | none => ⟨refused s x.u, List.replicate 32 0, [true]⟩

/-- One block of a Pajor tensor in a panel: its row and block number. -/
abbrev BlkId := Nat × Nat

/-- What loading a side has found: the words read, elements by inlet, the headers of the blocks met, the sums of R69. -/
structure SideGot where
  s     : State
  bad   : Bool := false
  words : List (Nat × List Byte) := []
  rows  : List (List Num) := []
  seen  : List (BlkId × Nat) := []
  clip  : Nat := 0
  elems : Nat := 0

/-- `n` bytes at address `a` of one word; segments that are the same word are read once (R90). -/
def wordGet (g : SideGot) (x : Source) (a n : Nat) : SideGot × List Byte :=
  match g.words.find? (fun p => decide (p.1 = a / 32)) with
  | some p => (g, slice p.2 (a % 32) n)
  | none =>
    let d := panelRead g.s x (a / 32)
    ({ g with s := d.s, bad := g.bad || d.bad.any id, words := (a / 32, d.bytes) :: g.words }, slice d.bytes (a % 32) n)

/-- The reserved codes of a PJ2 block counted against its ERR field, which takes the count (R68). -/
def pj2Err (s : State) (src : Option Nat) (ha h : Nat) (codes : List Byte) : State :=
  let k := pj2Reserved codes
  let s := if k = 0 then s else evtSet s pgEsc 10
  match src with
  | some c => if bitsOf h 14 8 = k then s else (sramStore s c ha (leBytes 2 (setFld (BitVec.ofNat 16 h) 14 8 k).toNat)).1
  | none => s

/-- The header of the block of element `e` of row `r`, counted once for the panel (R69, R82). -/
def headerGet (g : SideGot) (x : Source) (t : Tensor) (f r e : Nat) : SideGot × Nat :=
  let blk := e / 64
  match g.seen.find? (fun p => decide (p.1 = (r, blk))) with
  | some p => (g, p.2)
  | none =>
    let two := f = fPj2
    let sg := e / segElems f
    let ha := t.hdr + hdrBytes f * skew t.nseg r sg + (if two then 2 * (blk % 2) else 0)
    let d := wordGet g x ha 2
    let h := leNat d.2
    let g := { d.1 with seen := ((r, blk), h) :: d.1.seen }
    if two then
      let c := wordGet g x (skewAddr t.base t.nseg r sg + 16 * (blk % 2)) 16
      ({ c.1 with s := if c.1.bad then c.1.s else pj2Err c.1.s x.src ha h c.2 }, h)
    else ({ g with clip := g.clip + hdrCount h, elems := g.elems + 64 }, h)

/-- The published format of a code of R171. -/
def pubFmt (f : Nat) : FpFmt :=
  if f = fBf16 then .bf16 else if f = fF16 then .fp16 else if f = fE4m3 then .e4m3 else if f = fE5m2 then .e5m2 else .fp32

/-- Element `e` of stored row `r` of a tensor. -/
def elemGet (g : SideGot) (x : Source) (t : Tensor) (f r e : Nat) : SideGot × Num :=
  let k := segElems f
  let i := e % k
  let a := skewAddr t.base t.nseg r (e / k)
  if !isPajor f then
    let d := wordGet g x (a + i * elemBytes f) (elemBytes f)
    (d.1, decodeNum (pubFmt f) (leNat d.2))
  else
    let h := headerGet g x t f r e
    let d := wordGet h.1 x a 32
    let sc := h.2 % 256
    (d.1, if f = fPj4 then pj4Elem sc (nibbleAt d.2 i) else if f = fPj4i then pj4iElem sc (nibbleAt d.2 i) else pj2Elem sc (crumbAt d.2 i))

/-- The panel of one side of a pass in core `n` of valley `v`: L × k reduction elements for each inlet of the mask, none for an inlet
that is not active (R91, R94). -/
def sideLoad (s : State) (v n : Nat) (errs : List WireErr) (p : Pass) (x : Side) (t : Tensor) (f rank mask : Nat) : SideGot :=
  let u := sideValley v x
  let k := if x.core = 255 then n else x.core
  let src : Source := ⟨v, (logical s v n).getD 0, u, k, logical s u k, errs⟩
  let o := p.origin x rank
  (List.range 8).foldl (fun (g : SideGot) i =>
    if !bitOf mask i then { g with rows := g.rows ++ [[]] }
    else
      let r := (List.range (p.chain.len * rank)).foldl (fun (a : SideGot × List Num) k =>
        let y := if x.across then elemGet a.1 src t f (o.1 + k) (o.2 + i) else elemGet a.1 src t f (o.1 + i) (o.2 + k)
        (y.1, a.2 ++ [y.2])) (g, [])
      { r.1 with rows := r.1.rows ++ [r.2] }) { s := s }

/-- The next pass to be filled on a core: of the task it runs, then of the task ARMED behind it (R88, R201). -/
def fillNext (s : State) (v n : Nat) : Option (Nat × Nat) :=
  let try' := fun (l : Nat) (on : Bool) =>
    let y := (getV s v).slot l
    match y.task with
    | some t => if t.cores.contains n && t.ending.isNone && decide ((t.run n).on = on) && decide (iKind y.words ≠ 2) &&
                   decide ((t.run n).filled < coreTotal y.words n) then some (l, (t.run n).filled) else none
    | none => none
  let first := if ((getV s v).slot 0).armNo ≤ ((getV s v).slot 1).armNo then 0 else 1
  match try' first true, try' (1 - first) true, try' first false, try' (1 - first) false with
  | some a, _, _, _ => some a
  | none, some a, _, _ => some a
  | none, none, some a, _ => some a
  | none, none, none, b => b

/-- The panel slot of pass number `k` in a core's inlets. -/
def Core.inlet (x : Core) (k : Nat) : Option Panel := if k % 2 = 0 then x.inlet0 else x.inlet1
def Core.setInlet (x : Core) (k : Nat) (p : Option Panel) : Core := if k % 2 = 0 then { x with inlet0 := p } else { x with inlet1 := p }

/-- The panel slot of pass number `k` is free: empty, or used by a pass that has been issued. DESIGN CHOICE (log 213): the loader fills it no
sooner than its inlet has presented that pass's last step, which may be long before the pass ends in its tile (R86, R88). -/
def Core.slotClear (x : Core) (k : Nat) : Bool := (x.inlet k).all (fun p => x.inArray.contains (p.lslot, p.pass))

/-- A panel in the slot of pass number `k`; the panel there before still feeds its pass. -/
def Core.fill (x : Core) (k : Nat) (p : Panel) : Core := { x.setInlet k (some p) with feeding := x.feeding ++ (x.inlet k).toList }

/-- PANEL_FILL (R88): the loader of a core fills a free panel slot with the next pass's panels. -/
def doPanelFill (s : State) (v n : Nat) (errs : List WireErr) : State :=
  match logical s v n, fillNext s v n with
  | some c, some (l, k) =>
    let m := ((getV s v).slot l).words
    match passAt m n k, pairOf (iFmtA m) (iFmtB m) with
    | some p, some pr =>
      if !coresIssue s v || !(getCore s c).slotClear k then s
      else
        let a := sideLoad s v n errs p p.chain.a (iTensor m 8) (iFmtA m) pr.rank p.chain.rmask
        let b := sideLoad a.s v n errs p p.chain.b (iTensor m 9) (iFmtB m) pr.rank p.chain.cmask
        if a.bad || b.bad then taskStop b.s v l { status := stEcc }
        else
          let pan : Panel := { lslot := l, pass := k, a := a.rows, b := b.rows }
          let s := setCore b.s c ((getCore b.s c).fill k pan)
          taskMod s v l (fun t => { (t.setRun n { t.run n with filled := k + 1 }) with
            clipSum := t.clipSum + a.clip + b.clip, elemSum := t.elemSum + a.elems + b.elems })
    | _, _ => s
  | _, _ => s
def execPanelFill (v : Nat) (c : Wired) (s : State) : Host.Outcome State Fault Refusal := .next (doPanelFill s v c.no c.errs)

/-! ### PASS_ISSUE -/

/-- A panel is that of pass `k` of slot `l`. -/
def Panel.of (p : Panel) (l k : Nat) : Bool := decide (p.lslot = l) && decide (p.pass = k)

/-- The panel of a pass, in its slot or still fed from it. -/
def Core.panel (x : Core) (l k : Nat) : Option Panel := ((x.inlet k).toList ++ x.feeding).find? (fun p => p.of l k)

/-- The panel of a pass that has ended is gone, from its slot unless the next is there already. -/
def Core.unpanel (x : Core) (l k : Nat) : Core :=
  if (x.inlet k).any (fun p => p.of l k) then x.setInlet k none else { x with feeding := x.feeding.filter (fun p => !p.of l k) }

/-- Pass `k` of slot `l` drains tile `tile`. -/
def drainsTile (s : State) (v n l k tile : Nat) : Bool :=
  match passAt ((getV s v).slot l).words n k with
  | some p => p.drains && decide (p.tile = tile)
  | none => false

/-- A drain of the tile waits to hand a unit to its stream: the tile is pending (R199). -/
def tileWaits (s : State) (v n tile : Nat) : Bool :=
  s.handoffs.any (fun u => decide (u.valley = v) && decide (u.core = n) && decide (u.tile = some tile) && unitStuck s u)

/-- PASS_ISSUE (R84): panels complete, no drain of the tile has yet to read its row 0, nor waits to hand off (R199). -/
def doPassIssue (s : State) (v n : Nat) : State :=
  match logical s v n with
  | none => s
  | some c =>
    let x := getCore s c
    let ready := fun (l : Nat) => match taskOf s v l with
      | some t => t.cores.contains n && (t.run n).on && t.ending.isNone && (x.panel l (t.run n).issued).isSome &&
                  !(t.issuedAll ((getV s v).slot l).words n)
      | none => false
    let l := if ready 0 then 0 else 1
    if !coresIssue s v || !ready l then s
    else match taskOf s v l with
      | some t =>
        let k := (t.run n).issued
        match passAt ((getV s v).slot l).words n k with
        | some p =>
          if (x.inArray ++ x.toDrain).any (fun e => drainsTile s v n e.1 e.2 p.tile) || tileWaits s v n p.tile then s
          else
            let s := setCore s c { x with inArray := x.inArray ++ [(l, k)] }
            slotTail (taskMod s v l (fun t => t.setRun n { t.run n with issued := k + 1 })) v l
        | none => s
      | none => s
def execPassIssue (v c : Nat) (s : State) : Host.Outcome State Fault Refusal := .next (doPassIssue s v c)

/-! ### A pass in a tile (R95, R100 to R105) -/

/-- One cell's state while a pass is summed. -/
structure Cell where
  acc    : Word32
  sat    : Bool
  nonfin : Bool

/-- One exact block into an accumulator (R100, R101, R104, R105). `fresh`: the first block under FIRST. -/
def cellBlock (x : Cell) (fresh : Bool) (a b : List Num) : Cell :=
  if (a ++ b).any (fun e => !e.isFin) then { x with acc := f32Nan, nonfin := true }
  else if x.nonfin then x
  else
    let sum := (a.zip b).foldl (fun (t : Num) e => t.add (e.1.mul e.2)) (.fin false 0 0)
    let r := toF32Sat (if fresh then sum else (f32 x.acc).add sum)
    { x with acc := if sum.isZero && fresh then f32Zero else r.1, sat := x.sat || r.2 }

/-- Every block of a pass into one cell. -/
def cellPass (x : Cell) (first : Bool) (blk : Nat) (a b : List Num) : Cell :=
  (List.range (a.length / blk)).foldl (fun x i =>
    cellBlock x (first && decide (i = 0)) ((a.drop (i * blk)).take blk) ((b.drop (i * blk)).take blk)) x

/-- The chain counter and LONG_SUM after `n` blocks; an opening pass starts at its first block (R103). -/
def chainCounter (count : Nat) (long opens : Bool) (n : Nat) : Nat × Bool :=
  let before := if opens then 0 else count
  let adds := if opens then n - 1 else n
  (min 0xFFFF (before + adds), (!opens && long) || decide (0xFFFF < before + adds))

/-- A pass's result in its tile (R95, R101). -/
def tilePass (t : Tile) (p : Pass) (blk : Nat) (pan : Panel) : Tile :=
  let first := p.opening = 0
  let clear := p.opening = 1
  let opens := first || clear
  let base : Tile := if clear then {} else if first then { t with sat := 0, nonfin := 0, longSum := false } else t
  let cells := (List.range 64).foldl (fun (b : Tile) k =>
    if bitOf p.chain.rmask (k / 8) && bitOf p.chain.cmask (k % 8) then
      let r := cellPass ⟨tget f32Zero b.acc k, bit b.sat k, bit b.nonfin k⟩ first blk (pan.a.getD (k / 8) []) (pan.b.getD (k % 8) [])
      { b with acc := tput f32Zero b.acc k r.acc, sat := setBit b.sat k r.sat, nonfin := setBit b.nonfin k r.nonfin }
    else b) base
  let n := chainCounter t.count.toNat t.longSum opens ((pan.a ++ pan.b).foldl (fun a l => max a l.length) 0 / blk)
  { cells with count := BitVec.ofNat 16 n.1, longSum := n.2 }

/-- Elements that fail inlet parity are fed as zero (R98): `parity` names inlet * 1024 + reduction element, inlets 0 to 7 the rows and 8 to
15 the columns. -/
def zeroFed (l : List (List Num)) (base : Nat) (parity : List Nat) : List (List Num) :=
  (List.range l.length).map (fun i => let r := l.getD i []
    (List.range r.length).map (fun k =>
      if parity.contains ((base + i) * 1024 + k) then .fin false 0 0 else r.getD k (.fin false 0 0)))

def Core.tile (x : Core) (t : Nat) : Tile := if t = 0 then x.tile0 else x.tile1
def Core.setTile (x : Core) (t : Nat) (y : Tile) : Core := if t = 0 then { x with tile0 := y } else { x with tile1 := y }

/-- TILE_COMPLETE (R86): the oldest pass in the array ends in its tile; its panel slot is free, where it is not filled anew already (R88). -/
def doTileComplete (s : State) (v n : Nat) (parity : List Nat) : State :=
  match logical s v n with
  | none => s
  | some c =>
    let x := getCore s c
    match x.inArray with
    | [] => s
    | (l, k) :: rest =>
      let m := ((getV s v).slot l).words
      match passAt m n k, pairOf (iFmtA m) (iFmtB m), x.panel l k with
      | some p, some pr, some pan =>
        if !coresRun s v then s
        else
          let pan := { pan with a := zeroFed pan.a 0 parity, b := zeroFed pan.b 8 parity }
          let x := x.setTile p.tile (tilePass (x.tile p.tile) p pr.blk pan)
          let x := x.unpanel l k
          let live := match taskOf s v l with | some t => t.ending.isNone | none => false
          let s := setCore s c { x with inArray := rest,
                                        toDrain := if p.drains && live && parity.isEmpty then x.toDrain ++ [(l, k)] else x.toDrain }
          let s := taskMod s v l (fun t => t.setRun n { t.run n with done := k + 1 })
          if parity.isEmpty then s else taskStop (errSet s (pgValley v) 1) v l { status := stEcc }
      | _, _, _ => s
def execTileComplete (v c : Nat) (parity : List Nat) (s : State) : Host.Outcome State Fault Refusal :=
  .next (doTileComplete s v c parity)

end Sys2Proof.Machine
end

