-- ==== Sys2Proof/Machine/Plain.lean ====
section
/-! DEFINITION. The plain (R138 to R150): packets at a bank, merged reads, scrubbing, pass channels and their training (R146, R158). -/

namespace Sys2Proof.Machine

/-! ### Packets -/

/-- A Flood packet of an epoch older than the valley has been told is dropped at its boundary (R203). -/
def staleEpoch (s : State) (v : Nat) (f : Nat × Nat × Nat) : Bool :=
  let key := streamKey ⟨.flood, f.1⟩ f.2.1
  match (getV s v).epochs.find? (fun e => decide (e.1 = key)) with
  | some e => let d := (e.2.toNat + 256 - f.2.2 % 256) % 256; decide (d ≠ 0) && decide (d < 128)
  | none => false

/-- A read answered from its bank, with every request for the same word (R139, R140); of a core out of service, refused (R150). -/
def serveReads (s : State) (v n w : Nat) : State :=
  match (if valleyRefuses s v then none else logical s v n) with
  | some c => serveWith v n c w 1 (sramRead s c w)
  | none => ((heldFor s v n w).map (·.pkt)).eraseDups.foldl (fun s p => refusePacket s v p) s

/-- The parts of `n` bytes at `a` that lie in one word each: word, offset in it, offset in the bytes, length. -/
def wordParts (a n : Nat) : List (Nat × Nat × Nat × Nat) :=
  (List.range ((a + n + 31) / 32 - a / 32)).map (fun i =>
    let w := a / 32 + i
    let lo := max a (32 * w)
    (w, lo - 32 * w, lo - a, min (a + n) (32 * w + 32) - lo))

/-- Bytes that come over the plain with errors `err` into one word of a core, from `off` in it, are checked as they are stored, and stored;
with them, how many were (R135 to R137). -/
def wireStore (s : State) (c w off : Nat) (bytes err : List Byte) (poison : Bool) : State × Nat :=
  let y := wordSeen (List.replicate off 0 ++ bytes ++ List.replicate (32 - off - bytes.length) 0) err
  let t := transitNote s c w y.2
  sramStore t.1 c (32 * w + off) (slice y.1 off bytes.length) (poison || t.2)

/-- The words of a packet are stored (R135 to R137, R142). -/
def plainWrite (s : State) (c : Nat) (p : PlainPkt) (bytes : List Byte) : State :=
  let s := carry s p.src [.core c] bytes.length
  ((wordParts p.addr bytes.length).zip (List.range 8)).foldl (fun s (x : (Nat × Nat × Nat × Nat) × Nat) =>
    (wireStore s c x.1.1 x.1.2.1 (slice bytes x.1.2.2.1 x.1.2.2.2) (slice p.upset (35 * x.2) 35) p.poison).1) s

/-- The reads of a packet's words, the packet `pkt` of those that wait. -/
def plainReads (p : PlainPkt) (pkt : Nat) : List HeldRead :=
  (List.range p.words).map (fun i => ⟨p.core, if i = 0 then p.addr else 32 * (p.addr / 32 + i), p.src,
    if p.upset.isEmpty then [] else slice p.upset (35 * i) 35, pkt⟩)

/-- The packet lies in a core's SRAM. -/
def plainFits (p : PlainPkt) : Bool :=
  match p.data with
  | some b => decide (p.addr + b.length ≤ sramSize)
  | none => decide (32 * (p.addr / 32 + p.words) ≤ sramSize)

/-- PLAIN_PACKET (R134 to R137, R139 to R142, R150). -/
def doPlainPacket (s : State) (p : PlainPkt) : State :=
  if !up s then s
  else
    let v := p.valley
    if (match p.flood with | some f => staleEpoch s v f | none => false) then s
    else
      match (if valleyRefuses s v || !plainFits p then none else logical s v p.core), p.data with
      | none, some b => refused (carry s p.src [.core (valleyCorner v)] b.length) v
      | none, none => poisonReply (refused s v) v p.words p.src
      | some c, some bytes => plainWrite s c p bytes
      | some _, none =>
        let x := getV s v
        let s := setV s v { x with reads := x.reads ++ plainReads p (x.reads.foldl (fun a r => max a (r.pkt + 1)) 0) }
        if rf s (pgValley v + 0xD00) 11 8 = 0 then
          (List.range p.words).foldl (fun s i => serveReads s v p.core (p.addr / 32 + i)) s
        else s
def execPlainPacket (p : PlainPkt) (s : State) : Host.Outcome State Fault Refusal := .next (doPlainPacket s p)

/-- MERGE_WINDOW_EXPIRY (R139): bank `b` serves word `w` of its core to every request that waits. -/
def doMergeWindowExpiry (s : State) (v n b w : Nat) : State :=
  let k := w * 8 + b
  if up s && (getV s v).reads.any (fun r => decide (r.core = n) && decide (r.addr / 32 = k)) then serveReads s v n k else s
def execMergeWindowExpiry (v c bank word : Nat) (s : State) : Host.Outcome State Fault Refusal :=
  .next (doMergeWindowExpiry s v c bank word)

/-! ### Scrubbing (R138) -/

/-- Steps of the scrubber of bank `b` of core `n` in its valley. -/
def scrubCount (x : Valley) (n b : Nat) : Nat := tget 0 x.scrub (n * 8 + b)

/-- VLY_SCRUB_STATUS: the word of the scrubber that is furthest behind, of those of the valley's cores in service, and its sweeps. -/
def scrubStatus (s : State) (v : Nat) : State :=
  let x := getV s v
  let least := ((List.range s.grade.enabled).filter (fun n => (logical s v n).isSome)).foldl (fun a n =>
    (List.range 8).foldl (fun a b => match a with
      | none => some (scrubCount x n b)
      | some m => some (min m (scrubCount x n b))) a) none
  let m := least.getD 0
  wr s (pgValley v + 0xD0C) (m / 640 % 2 ^ 16 * 2 ^ 16 + m % 640)

/-- SCRUB_STEP: the next word of a bank, which has gathered `upset` since it was written, is checked: corrected and written back, or
marked poisoned. -/
def doScrubStep (s : State) (v n b : Nat) (upset : List Byte) : State :=
  let pg := pgValley v
  match logical s v n with
  | some c =>
    if !up s || !clocked s pg || !rb s (pg + 0xD00) 0 then s
    else
      let x := getV s v
      let i := scrubCount x n b
      let w := i % 640 * 8 + b
      let k := sramWord c w
      let e := xorBytes (slice upset 0 35) (tget [] s.sramUpset k)
      let e := if e.all (· = 0) then [] else e
      let s := setV s v { x with scrub := tput 0 x.scrub (n * 8 + b) (i + 1) }
      let s := { s with sramUpset := tput [] s.sramUpset k e }
      scrubStatus (match eccDecode 3 e with
        | .clean => s
        | .fixed pos val =>
          let seen := xorBytes (memGet s.sram (32 * k) 32) e
          let good := if pos < 32 then listSet seen pos (seen.getD pos 0 ^^^ BitVec.ofNat 8 val) else seen
          let s := { s with sram := memSet s.sram (32 * k) good, sramUpset := tput [] s.sramUpset k [] }
          captureSram (errSet s pg 0) c w true (some pos)
        | .bad => captureSram (errSet (ckptEvent { s with sramPoison := tput false s.sramPoison k true } 0) pg 1) c w true none) v
  | none => s
def execScrubStep (v c bank : Nat) (upset : List Byte) (s : State) : Host.Outcome State Fault Refusal :=
  .next (doScrubStep s v c bank upset)

/-! ### Passes -/

/-- The channels of a pass end that satisfy `f`. -/
def chanCount (s : State) (inst : Nat) (f : Chan → Bool) : Nat :=
  (s.chans.filter (fun e => decide (e.1 / 256 = inst) && f e.2)).length

/-- Spares of a pass end that failed in the place of a channel. -/
def sparesLost (s : State) (inst : Nat) : Nat := ((s.chans.filter (fun e => decide (e.1 / 256 = inst))).map (fun e => e.2.lost)).sum

/-- FAILED counts the channels taken out of use since the last training, SPARES_USED the spares in use; a pass end with more than 8 failed
channels, spares among them, is faulted (R146, R158). -/
def passStatus (s : State) (inst : Nat) : State :=
  let pg := pgPass (inst / 4) (inst % 4)
  let s := wf (wf s (pg + 0x80) 7 0 (chanCount s inst (·.recent))) (pg + 0x80) 15 8 (chanCount s inst (·.spare))
  if 8 < chanCount s inst (·.failed) + sparesLost s inst && decide (stateOf s pg ≠ 7) && decide (stateOf s pg ≠ 8) then setState (ckptEvent s 4) pg 7 else s

/-- A channel, or the spare in its place, is taken out of use (R146). -/
def chanFail (s : State) (inst c : Nat) : State :=
  let key := inst * 256 + c
  let x := tget {} s.chans key
  if x.failed && !x.spare then s
  else passStatus (errSet { s with chans := tput {} s.chans key { x with failed := true, spare := false, lost := x.lost + b2n x.spare, recent := true } } (pgPass (inst / 4) (inst % 4)) 8) inst

/-- Training of a pass end: channels out of use are replaced by spares, while there are any of the 8; those of `bad` fail it (R146). -/
def passTrain (s : State) (inst : Nat) (bad : List Nat) : State :=
  let step := fun (s : State) (k : Nat) =>
    let x := tget {} s.chans k
    let next := x.failed && !x.spare && decide (chanCount s inst (·.spare) + sparesLost s inst < 8)
    { s with chans := tput {} s.chans k { x with spare := x.spare || next, times := [], recent := false } }
  let s := ((s.chans.map (·.1)).filter (fun k => decide (k / 256 = inst))).foldl step s
  bad.foldl (fun s c => chanFail s inst c) (passStatus s inst)

/-- CHANNEL_REPLAY (R146): one replay; a channel with more than 16 in one microsecond is out of use until the next training, and a pass
end with more than 8 such channels is faulted. A pass end that is sounding has stopped its channels (R358). -/
def doChannelReplay (s : State) (die edge chan : Nat) : State :=
  let pg := pgPass die edge
  if !up s || !present s pg || stateOf s pg = 1 || stateOf s pg = 2 || stateOf s pg = 7 then s
  else
    let inst := die * 4 + edge
    let key := inst * 256 + chan
    let x := tget {} s.chans key
    let now := localTime s pg
    let times := (now :: x.times).filter (fun t => decide (now - t < 1000))
    let s := { s with chans := tput {} s.chans key { x with times := times.take 17 } }
    let s := inc32 s (pg + 0x98) 1
    if 16 < times.length then chanFail (errSet s pg 9) inst chan else s
def execChannelReplay (die edge chan : Nat) (s : State) : Host.Outcome State Fault Refusal := .next (doChannelReplay s die edge chan)

end Sys2Proof.Machine
end

