-- ==== Sys2Proof/Machine/Streams.lean ====
section
/-! DEFINITION. Flood and Ebb streams (R188 to R206): descriptors, runs, gates, hand-off, aborts and the draining of cancellations. -/

namespace Sys2Proof.Machine

/-- An engine goes on with reads and runs in flight. -/
def engRun (s : State) (e : Eng) : Bool := up s && clocked s (pgEng e)

/-- An engine starts descriptors and runs: it is neither held nor entering the hold (R392). -/
def engIssue (s : State) (e : Eng) : Bool := engRun s e && working s (pgEng e)

/-- Accesses of an engine for a COPY (R197, R325). -/
def engReq (e : Eng) (c : CopyJob) : Req :=
  { job := c.job, unit := match e.kind with | .flood => 1 | .ebb => 2, handle := handleOf c.queue c.seq, who := .job c.job,
    walker := .base e.stack, data := none }

/-- Update a COPY of a stream. -/
def copyMod (x : Stream) (q seq : Nat) (f : CopyJob → CopyJob) : Stream :=
  { x with copies := x.copies.map (fun c => if c.queue = q && c.seq = seq then f c else c) }

/-- Update a descriptor of a COPY. -/
def descMod (x : Stream) (q seq idx : Nat) (f : DescSt → DescSt) : Stream :=
  copyMod x q seq (fun c => { c with active := c.active.map (fun d => if d.idx = idx then f d else d) })

/-- Valleys named by the descriptors a COPY has in progress. -/
def CopyJob.named (c : CopyJob) : List Nat := c.active.flatMap (fun d => descValleys d.d)

/-- The COPYs of a stream, those at the control input of a held engine among them. -/
def Stream.allCopies (x : Stream) : List CopyJob :=
  x.copies ++ x.input.filterMap (fun m => match m with | .copy c => some c | .cancel _ _ => none)

/-- A COPY leaves its stream. -/
def copyLeave (s : State) (e : Eng) (n q seq : Nat) : State :=
  let x := getStream s e n
  settle (setStream s e n { x with copies := x.copies.filter (fun c => !(c.queue = q && c.seq = seq)) }) (pgEng e)

/-- A COPY ends with a record, and leaves its stream once that has a place (R219). -/
def copyEnd (s : State) (e : Eng) (n : Nat) (c : CopyJob) (r : CompRec) : State :=
  let s := opEnd s c.queue c.seq r
  if opKept s c.queue c.seq then s else copyLeave s e n c.queue c.seq

/-- Every byte of a descriptor is written (R195, R198). -/
def DescSt.full (d : DescSt) : Bool :=
  if dMode d.d = 1 then decide (dCount d.d 1 * dCount d.d 2 ≤ d.units) && d.comb.isEmpty else decide (d.written = dRuns d.d)

/-- COPYs of a stream that have aborted or been cancelled complete once their reads have drained, and the valleys acknowledged (R202,
R204). -/
def streamSettle (s : State) (e : Eng) (n : Nat) : State :=
  let x := getStream s e n
  let gone := fun (c : CopyJob) => c.ending.isSome && !(x.flight.any (fun f => f.queue = c.queue && f.seq = c.seq)) &&
    !(c.cancelling && (!x.acks.isEmpty || x.due.isSome))
  let s := (x.copies.filter (fun c => gone c && opRunning s c.queue c.seq)).foldl (fun s c => match c.ending with
    | some r => copyEnd (if c.cancelling then evtSet s (pgEng e) 8 else s) e n c { r with partialOut := c.wrote }
    | none => s) s
  settle s (pgEng e)

/-- Capture the FAULT registers while VALID is 0 (R211). -/
def captureCopy (s : State) (e : Eng) (n : Nat) (c : CopyJob) (r : CompRec) : State :=
  let pg := pgEng e
  if rb s (pg + 0xA0) 31 then s
  else
    let s := wr64 s (pg + 0x98) r.detail
    let s := wr s (pg + 0xA0) (2 ^ 31 + r.faultKind * 2 ^ 28 + n * 2 ^ 16 + r.index)
    wr64 (wr s (pg + 0xA4) r.faultRun) (pg + 0xA8) (handleOf c.queue c.seq)

/-- A COPY is aborted whole (R204): no further run starts, what is staged is gone, its reads drain; linked slots abort with it. -/
def copyAbort (s : State) (e : Eng) (n q seq : Nat) (r : CompRec) : State :=
  let x := getStream s e n
  match x.copies.find? (fun c => c.queue = q && c.seq = seq) with
  | some c =>
    if c.ending.isSome then s
    else
      let s := setStream s e n (copyMod x q seq (fun c => { c with ending := some r, names := c.named, active := [] }))
      let s := if r.status = stAbsent then s else captureCopy s e n c r
      let s := if r.status = stAbsent then s else c.links.foldl (fun s k => linkedAbort s k.1 k.2 r) s
      streamSettle s e n
  | none => s

/-! ### COPY -/

/-- COPY (R174, R188): a dispatched COPY joins its stream; that of a held engine takes it as the engine leaves the hold (R38, R392). -/
def copyJoin (s : State) (q seq : Nat) (c : Rec) (alt : Bool) : State :=
  match cTarget c with
  | some (.engine e) =>
    let n := wf' c 4 27 16
    let x := getStream s e n
    let k : CopyJob := { queue := q, seq := seq, job := (getQ s q).job.toNat, list := if alt then wd c 5 else wd c 3,
                         count := wf' c 4 15 0 }
    if held s (pgEng e) then setStream s e n { x with input := x.input ++ [.copy k] }
    else settle (setStream s e n { x with copies := x.copies ++ [k] }) (pgEng e)
  | _ => s

def copyRun (s : State) (q seq : Nat) (h : Head) : State :=
  let r := if bitOf (wd h.c 4) 28 then escSelect s (getQ s q).job.toNat (wd h.c 6) else (s, false)
  longCmd r.1 q seq h r.2 (fun s => copyJoin s q seq h.c r.2)

def doCopy (s : State) (q : Nat) : State := dispatchBy s q opCopy (fun s seq h => copyRun s q seq h)
def execCopy (q : Nat) (s : State) : Host.Outcome State Fault Refusal := .next (headBack (.copy q) q s (doCopy s q))

/-! ### DESCRIPTOR_READ -/

/-- The stream takes no new descriptor or run: a valley has yet to be told of its epoch (R203), or an ended COPY holds it (R219). -/
def streamWaits (s : State) (x : Stream) : Bool := !x.acks.isEmpty || x.due.isSome || streamKept s x

/-- Descriptors from the oldest that is not wholly written (R196). -/
def Stream.ahead (x : Stream) : List DescSt := (x.copies.flatMap (·.active)).dropWhile (·.full)

/-- The COPY whose descriptor is read next: the first with descriptors left, every earlier one wholly read. -/
def Stream.reads (x : Stream) : Option CopyJob := x.copies.find? (fun c => c.ending.isNone && decide (c.next < c.count))

/-- A descriptor the engine has read and checked joins its COPY. -/
def descTake (s : State) (e : Eng) (n : Nat) (c : CopyJob) (d : Rec) : State :=
  let links := if dLinkEn d && decide (e.kind = .flood) then (descDests d).map (fun v => (v, dLinkSlot d)) else []
  setStream s e n (copyMod (getStream s e n) c.queue c.seq (fun c =>
    { c with next := c.next + 1, active := c.active ++ [{ idx := c.next, d := d, opened := !dGateEn d }], links := c.links ++ links }))

/-- DESCRIPTOR_READ (R189, R193, R196): the next descriptor is read and checked. -/
def doDescriptorRead (s : State) (e : Eng) (n : Nat) : State :=
  let x := getStream s e n
  let room := match e.kind with | .flood => decide (x.ahead.length < 64) | .ebb => (x.copies.flatMap (·.active)).isEmpty
  match x.reads with
  | some c =>
    if !engIssue s e || streamWaits s x || !room then s
    else
      let g := nread s c.job (handleOf c.queue c.seq) (c.list + 64 * c.next) 64
      match g.failed with
      | some r =>
        let s := if r.status = stFault then errSet g.s (pgEng e) 8 else g.s
        copyAbort s e n c.queue c.seq { r with index := c.next }
      | none =>
        let d := words64 g.bytes
        if descBad (decide (e.kind = .ebb)) d || descForeign g.s c.job d then
          copyAbort (errSet g.s (pgEng e) 9) e n c.queue c.seq { status := stFault, faultKind := 4, index := c.next }
        else if descAbsent g.s d then copyAbort g.s e n c.queue c.seq { status := stAbsent, index := c.next }
        else descTake g.s e n c d
  | none => s
def execDescriptorRead (e : Eng) (stream : Nat) (s : State) : Host.Outcome State Fault Refusal := .next (heldBack (.descriptorRead e stream) s (doDescriptorRead s e stream))

/-! ### Runs -/

/-- Staged and reserved bytes of a stream. -/
def Stream.staging (x : Stream) : Nat :=
  (x.copies.flatMap (fun c => c.active.map (fun d => (d.staged.map (·.bytes.length)).sum))).sum +
  (x.flight.map (·.len)).sum

/-- Staged and reserved bytes of an engine. -/
def engStaging (s : State) (e : Eng) : Nat :=
  ((s.streams.filter (fun k => decide (k.1 / 4096 = streamKey e 0 / 4096))).map (fun k => k.2.staging)).sum

/-- Staging for a run of `len` bytes can be reserved (R196): a run longer than the limit is staged in pieces, once nothing else is held. -/
def stageRoom (s : State) (e : Eng) (x : Stream) (len : Nat) : Bool :=
  let lim := rf s (pgEng e + 0x90) 11 0 * 1024
  (decide (x.staging + len ≤ lim) || decide (x.staging = 0)) && (decide (engStaging s e + len ≤ 2 ^ 21) || decide (engStaging s e = 0))

/-- The base die or I/O die that holds the memory of a run (R197), by the engine's own translation. -/
def memPlace (s : State) (r : Req) (va : Nat) : Place :=
  match (xlate s r va false).2 with
  | .at p _ => p.place
  | .fault _ => .io

/-- A run of a Flood descriptor written into every destination core (R191, R192, R194). The Bools: every write was stored, some byte was.
DESIGN CHOICE (log 185): a valley that refuses the run counts one packet for each of its cores. `errs`: errors its words pick up in transit (R136). -/
def floodWrite (s : State) (q : Req) (d : Rec) (r : Staged) (errs : List WireErr) : State × Bool × Bool :=
  let row := runRow d r.run
  let unit := dUnit d
  let dst := (runCores d r.run).filterMap (fun k => (logical s k.1 k.2).map Place.core)
  let s := carry s (memPlace s q (runAddr d r.run).toNat) dst r.bytes.length
  (runCores d r.run).foldl (fun (a : State × Bool × Bool) k =>
    match (if valleyRefuses a.1 k.1 then none else logical a.1 k.1 k.2) with
    | none => (refused a.1 k.1, a.2)
    | some c =>
      (List.range (r.bytes.length / unit)).foldl (fun (a : State × Bool × Bool) j =>
        let at' := runByte d row (unit * j)
        let q := wireStore a.1 c (at' / 32) (at' % 32) (slice r.bytes (unit * j) unit) (wireErr errs k.1 k.2 (at' / 32))
          (r.poison.getD (unit * j / 32) false)
        (q.1, a.2.1 && decide (q.2 = unit), a.2.2 || decide (0 < q.2))) a) (s, true, false)

/-- A staged run is written; poisoned data, or a dropped partial write, aborts the COPY (R135, R241). -/
def floodStore (s : State) (e : Eng) (n : Nat) (errs : List WireErr) (c : CopyJob) (idx : Nat) (d : Rec) (r : Staged) : State :=
  let w := floodWrite s (engReq e c) d r errs
  let x := copyMod (getStream w.1 e n) c.queue c.seq (fun c => { c with wrote := c.wrote || w.2.2 })
  let s := setStream w.1 e n (descMod x c.queue c.seq idx (fun d => { d with written := d.written + 1 }))
  if r.poison.any id || !w.2.1 then copyAbort s e n c.queue c.seq { status := stEcc, index := idx, faultRun := r.run } else s

/-- The next run of a Flood stream to be read: the first descriptor with runs left. -/
def Stream.nextRun (x : Stream) : Option (CopyJob × DescSt) :=
  x.copies.findSome? (fun c => if c.ending.isSome then none
    else (c.active.find? (fun d => decide (dMode d.d = 0) && decide (d.issued < dRuns d.d))).map (fun d => (c, d)))

/-- A Flood stream issues the read of a run (R196). -/
def floodRead (s : State) (e : Eng) (n : Nat) (x : Stream) : State :=
  match x.nextRun with
  | some (c, d) =>
    if stageRoom s e x (dLen d.d) then
      let x := descMod x c.queue c.seq d.idx (fun d => { d with issued := d.issued + 1 })
      setStream s e n { x with
        flight := x.flight ++ [⟨x.epoch, c.seq, c.queue, d.idx, d.issued, (runAddr d.d d.issued).toNat, dLen d.d⟩] }
    else s
  | none => s

/-- An engine checks a word it consumes: an error picked up in transit is CORR or UNCORR of its page (R34, R136). The Bool: uncorrectable. -/
def engNote (s : State) (e : Eng) (r : EccRes) : State × Bool :=
  match r with
  | .clean => (s, false)
  | .fixed _ _ => (errSet s (pgEng e) 0, false)
  | .bad => (errSet (ckptEvent s 0) (pgEng e) 1, true)

/-- What an Ebb engine has read of a run: the words read once each, with the bytes so far. -/
structure EbbGot where
  s     : State
  words : List (Nat × List Byte × Bool) := []
  bytes : List Byte := []
  bad   : List Bool := []

/-- One word of a run read from physical core `c`, and checked (R136, R139). -/
def ebbWord (g : EbbGot) (e : Eng) (errs : List WireErr) (k : Nat × Nat) (c w : Nat) : EbbGot × List Byte × Bool :=
  match g.words.find? (fun p => decide (p.1 = w)) with
  | some p => (g, p.2)
  | none =>
    let r := bankRead g.s k.1 k.2 c w true
    let y := wordSeen r.bytes (wireErr errs k.1 k.2 w)
    let t := engNote r.s e y.2
    let p := (y.1, r.bad.any id || t.2)
    ({ g with s := t.1, words := g.words ++ [(w, p)] }, p)

/-- A run an Ebb engine reads from core SRAM: its bytes, and which of its 32-byte words are poisoned. DESIGN CHOICE (log 185): a valley that
refuses it counts one packet. -/
def ebbFetch (s : State) (e : Eng) (errs : List WireErr) (d : Rec) (n : Nat) : Got :=
  let row := runRow d n
  let unit := dUnit d
  match runCores d n with
  | k :: _ =>
    (match (if valleyRefuses s k.1 then none else logical s k.1 k.2) with
     | none => ⟨refused s k.1, List.replicate (dLen d) 0, List.replicate (dLen d) true⟩
     | some c =>
       let g := (List.range (dLen d / unit)).foldl (fun (g : EbbGot) j =>
         let a := runByte d row (unit * j)
         let r := ebbWord g e errs k c (a / 32)
         { r.1 with bytes := r.1.bytes ++ slice r.2.1 (a % 32) unit, bad := r.1.bad ++ List.replicate unit r.2.2 }) { s := s }
       ⟨g.s, g.bytes, g.bad⟩)
  | [] => ⟨s, [], []⟩

/-- Parts of a run to be written: whole where nothing is poisoned, else its clean words (R137). -/
def cleanParts (len : Nat) (bad : List Bool) : List (Nat × Nat) :=
  if bad.any id then
    (List.range (cdiv len 32)).filterMap (fun i =>
      let n := min 32 (len - 32 * i)
      if ((bad.drop (32 * i)).take n).any id then none else some (32 * i, n))
  else [(0, len)]

/-- An Ebb stream performs one run: core SRAM to memory (R191, R195). -/
def ebbRun (s : State) (e : Eng) (n : Nat) (errs : List WireErr) (x : Stream) : State :=
  match x.copies with
  | c :: _ =>
    (match c.active with
     | d :: _ =>
       if c.ending.isSome || decide (dMode d.d ≠ 0) || !d.opened || decide (dRuns d.d ≤ d.issued) then s
       else
         let k := d.issued
         let va := (runAddr d.d k).toNat
         let g := ebbFetch s e errs d.d k
         let src := match runCores d.d k with | p :: _ => (logical s p.1 p.2).map Place.core | [] => none
         let s := match src with | some p => carry g.s p [memPlace g.s (engReq e c) va] g.bytes.length | none => g.s
         let w := (cleanParts (dLen d.d) g.bad).foldl (fun (a : VPut) part =>
           if a.fault.isSome then a
           else
             let p := vwrite a.s (engReq e c) (va + part.1) (slice g.bytes part.1 part.2)
             ⟨p.s, p.fault, a.dropped || p.dropped, a.stored || p.stored⟩) ⟨s, none, false, false⟩
         let y := copyMod (getStream w.s e n) c.queue c.seq (fun c => { c with wrote := c.wrote || w.stored })
         let s := setStream w.s e n (descMod y c.queue c.seq d.idx (fun d => { d with issued := k + 1, written := d.written + 1 }))
         match w.fault with
         | some f => copyAbort (errSet s (pgEng e) 8) e n c.queue c.seq
             { status := stFault, faultKind := 1, detail := f, index := d.idx, faultRun := k }
         | none =>
           if g.bad.any id || w.dropped then
             copyAbort s e n c.queue c.seq { status := stEcc, index := d.idx, faultRun := k }
           else s
     | [] => s)
  | [] => s

/-- A stream has a run that its engine may take now (R195, R196). -/
def runReady (s : State) (e : Eng) (x : Stream) : Bool :=
  !streamWaits s x &&
  (match e.kind with
   | .flood => x.nextRun.any (fun p => stageRoom s e x (dLen p.2.d))
   | .ebb => (match x.copies with
     | c :: _ => (match c.active with
       | d :: _ => c.ending.isNone && decide (dMode d.d = 0) && d.opened && decide (d.issued < dRuns d.d)
       | [] => false)
     | [] => false))

/-- Streams of an engine, by number. -/
def engStreams (s : State) (e : Eng) : List (Nat × Stream) :=
  s.streams.filterMap (fun k => if k.1 / 4096 = streamKey e 0 / 4096 then some (k.1 % 4096, k.2) else none)

/-- Stream `n` is the next of its engine's ready streams in turn, round-robin from the one served last (R188; log 186). -/
def runTurn (s : State) (e : Eng) (n : Nat) : Bool :=
  let last := tget 4095 s.engTurn (streamKey e 0 / 4096)
  let dist := fun (k : Nat) => (k + 4095 - last) % 4096
  (engStreams s e).all (fun k => !runReady s e k.2 || decide (dist n ≤ dist k.1))

/-- RUN_READ (R188, R191, R196): the stream whose turn it is performs one run. -/
def doRunRead (s : State) (e : Eng) (n : Nat) (errs : List WireErr) : State :=
  let x := getStream s e n
  if !engIssue s e || !runReady s e x || !runTurn s e n then s
  else
    let s := { s with engTurn := tput 4095 s.engTurn (streamKey e 0 / 4096) n }
    match e.kind with
    | .flood => floodRead s e n x
    | .ebb => ebbRun s e n errs x
def execRunRead (e : Eng) (stream : Wired) (s : State) : Host.Outcome State Fault Refusal :=
  .next (heldBack (.runRead e stream) s (doRunRead s e stream.no stream.errs))

/-- The valleys are told of the stream's new epoch once no read of it is in flight (R202, R203). -/
def epochAdvance (s : State) (e : Eng) (n : Nat) : State :=
  let x := getStream s e n
  match x.due with
  | some vs =>
    if x.flight.any (fun f => f.epoch = x.epoch + 1) then s
    else streamSettle (setStream s e n { x with epoch := x.epoch + 1, due := none, acks := x.acks ++ vs.filter (fun v => !x.acks.contains v) }) e n
  | none => s

/-- The data of a returned run: staged, or written at once where its gate is open. -/
def runStage (s : State) (e : Eng) (n : Nat) (errs : List WireErr) (c : CopyJob) (d : DescSt) (f : Flight) (g : VGot) : State :=
  let r : Staged := { run := f.run, bytes := g.bytes, poison := (List.range (cdiv (dLen d.d) 32)).map (fun i =>
    ((g.bad.drop (32 * i)).take 32).any id) }
  let host := slOn s c.job && decide (memPlace s (engReq e c) (runAddr d.d f.run).toNat = .io)
  let s := if host then setStream s e n (descMod (getStream s e n) c.queue c.seq d.idx (fun d =>
    { d with host := d.host ++ [(f.run, g.bytes)] })) else s
  if d.opened then floodStore s e n errs c d.idx d.d r
  else setStream s e n (descMod (getStream s e n) c.queue c.seq d.idx (fun d => { d with staged := d.staged ++ [r] }))

/-- READ_RETURN (R196, R202): the oldest read of a Flood stream completes at the memory and returns; one of an old epoch, or of an ended
COPY, is dropped. DESIGN CHOICE (log 187): of the orders R195 allows, reads return in the order of their issue and a run is written whole. -/
def doReadReturn (s : State) (e : Eng) (n : Nat) (errs : List WireErr) : State :=
  let x := getStream s e n
  match x.flight with
  | f :: rest =>
    if !engRun s e then s
    else
      let s := setStream s e n { x with flight := rest }
      let s := match x.copies.find? (fun c => c.queue = f.queue && c.seq = f.seq) with
        | some c =>
          let g := vread s (engReq e c) f.va f.len
          (match c.active.find? (fun d => d.idx = f.desc) with
           | some d =>
             if f.epoch ≠ x.epoch || c.ending.isSome then g.s
             else match g.fault with
               | some va => copyAbort (errSet g.s (pgEng e) 8) e n c.queue c.seq
                   { status := stFault, faultKind := 1, detail := va, index := d.idx, faultRun := f.run }
               | none => runStage g.s e n errs c d f g
           | none => g.s)
        | none => s
      streamSettle (epochAdvance s e n) e n
  | [] => s
def execReadReturn (e : Eng) (stream : Wired) (s : State) : Host.Outcome State Fault Refusal :=
  .next (heldBack (.readReturn e stream) s (doReadReturn s e stream.no stream.errs))

/-! ### Gates, DONE and completion (R195) -/

/-- The gate of a descriptor is open: its tidemark has reached its value. -/
def gateMet (s : State) (d : Rec) : Bool := decide (dGateVal d ≤ tmGet s (dGateTm d))

/-- The first descriptor of a stream whose gate waits and is met. -/
def Stream.gated (s : State) (x : Stream) : Option (CopyJob × DescSt) :=
  x.copies.findSome? (fun c => if c.ending.isSome then none else (c.active.find? (fun d => !d.opened && gateMet s d.d)).map (fun d => (c, d)))

/-- GATE_OPEN: what is staged of a gated descriptor is written. -/
def doGateOpen (s : State) (e : Eng) (n : Nat) (errs : List WireErr) : State :=
  let x := getStream s e n
  match x.gated s with
  | some (c, d) =>
    if engIssue s e && !streamKept s x then
      let s := setStream s e n (descMod x c.queue c.seq d.idx (fun d => { d with opened := true, staged := [] }))
      d.staged.foldl (fun s r =>
        let live := (getStream s e n).copies.any (fun k => k.queue = c.queue && k.seq = c.seq && k.ending.isNone)
        if live then floodStore s e n errs c d.idx d.d r else s) s
    else s
  | none => s
def execGateOpen (e : Eng) (stream : Wired) (s : State) : Host.Outcome State Fault Refusal :=
  .next (heldBack (.gateOpen e stream) s (doGateOpen s e stream.no stream.errs))

/-- The strandline entry of a completed Flood descriptor that read host memory (R372). -/
def slDesc (s : State) (c : CopyJob) (d : DescSt) : State :=
  if d.host.isEmpty then s
  else slInput s c.job (handleOf c.queue c.seq) d.idx
    ((List.range (dRuns d.d)).flatMap (fun i => match d.host.find? (fun r => r.1 = i) with | some r => r.2 | none => []))

/-- DESCRIPTOR_DONE: the oldest descriptor of a stream is wholly written and performs its DONE signal. -/
def doDescriptorDone (s : State) (e : Eng) (n : Nat) : State :=
  let x := getStream s e n
  match x.copies.find? (fun c => c.ending.isNone && !c.active.isEmpty) with
  | some c =>
    (match c.active with
     | d :: rest =>
       let ahead := (x.copies.takeWhile (fun k => !(k.queue = c.queue && k.seq = c.seq))).any (fun k => k.ending.isNone)
       if !engRun s e || !d.full || ahead || streamKept s x then s
       else
         let s := slDesc s c d
         let s := if dDoneEn d.d && decide (c.doneTo ≤ d.idx) then tmSignal s (dDoneTm d.d) true 1 else s
         setStream s e n (copyMod (getStream s e n) c.queue c.seq (fun c => { c with active := rest, doneTo := max c.doneTo (d.idx + 1) }))
     | [] => s)
  | none => s
def execDescriptorDone (e : Eng) (stream : Nat) (s : State) : Host.Outcome State Fault Refusal := .next (heldBack (.descriptorDone e stream) s (doDescriptorDone s e stream))

/-- COPY_COMPLETE: the oldest COPY of a stream has done all its descriptors. -/
def doCopyComplete (s : State) (e : Eng) (n : Nat) : State :=
  let x := getStream s e n
  match x.copies with
  | c :: _ =>
    if engRun s e && c.ending.isNone && decide (c.next = c.count) && c.active.isEmpty && opRunning s c.queue c.seq then
      copyEnd s e n c {}
    else s
  | [] => s
def execCopyComplete (e : Eng) (stream : Nat) (s : State) : Host.Outcome State Fault Refusal := .next (heldBack (.copyComplete e stream) s (doCopyComplete s e stream))

/-! ### Cancellation (R202) -/

/-- A COPY of a stream is cancelled now: it issues nothing more, staged data of the stream is discarded, the epoch advances and the destination
valleys of its descriptors in progress are told. The other COPYs of a Flood stream, whose reads and staged data go with it, begin anew at
their oldest descriptor that is not wholly written; an Ebb stream has none (log 188). -/
def copyCancelNow (s : State) (e : Eng) (n q seq : Nat) : State :=
  let x := getStream s e n
  match x.copies.find? (fun c => c.queue = q && c.seq = seq) with
  | some c =>
    if c.ending.isSome then s
    else
      let again := fun (k : CopyJob) =>
        let done := k.active.takeWhile (·.full)
        if e.kind = .ebb then k
        else { k with active := done, next := match k.active.dropWhile (·.full) with | d :: _ => d.idx | [] => k.next }
      let copies := x.copies.map (fun k =>
        if k.queue = q && k.seq = seq then { k with ending := some { status := stCancelled }, names := k.named, active := [], cancelling := true } else again k)
      let told := match e.kind with
        | .flood => (c.active.flatMap (fun d => descDests d.d)).eraseDups
        | .ebb => []
      let due := match x.due with | some vs => vs ++ told | none => told
      streamSettle (epochAdvance (setStream s e n { x with copies := copies, due := some due }) e n) e n
  | none => s

/-- A COPY of a stream is cancelled; a held engine learns of it as it leaves the hold (R392). -/
def copyCancel (s : State) (e : Eng) (n q seq : Nat) : State :=
  if held s (pgEng e) then setStream s e n { getStream s e n with input := (getStream s e n).input ++ [.cancel q seq] }
  else copyCancelNow s e n q seq

/-- What came to the control input of a stream while its engine was held takes effect, in order (R392); COPYs whose records found their place
meanwhile leave it. -/
def streamInput (s : State) (e : Eng) (n : Nat) : State :=
  let x := getStream s e n
  let here := x.copies.filter (fun c => opRunning s c.queue c.seq || opKept s c.queue c.seq)
  x.input.foldl (fun s m => match m with
    | .copy c => let y := getStream s e n; setStream s e n { y with copies := y.copies ++ [c] }
    | .cancel q seq => copyCancelNow s e n q seq) (setStream s e n { x with copies := here, input := [] })

/-- EPOCH_ACK (R202, R203): a valley has been told of the stream's epoch. -/
def doEpochAck (s : State) (e : Eng) (n v : Nat) : State :=
  let x := getStream s e n
  if engRun s e && x.acks.contains v then
    let y := getV s v
    let s := setV s v { y with epochs := tins (streamKey e n) x.epoch y.epochs }
    streamSettle (setStream s e n { x with acks := x.acks.filter (· ≠ v) }) e n
  else s
def execEpochAck (e : Eng) (stream v : Nat) (s : State) : Host.Outcome State Fault Refusal := .next (heldBack (.epochAck e stream v) s (doEpochAck s e stream v))

/-! ### Hand-off (R198, R199) -/

/-- Bytes laid in a combining store, inactive positions left out (R96). DESIGN CHOICE (log 189): the store does not fill up. -/
def combPut (t : Tbl Byte) (a : Nat) (bytes : List (Option Byte)) : Tbl Byte :=
  (List.range bytes.length).foldl (fun t i => match bytes.getD i none with | some b => tins (a + i) b t | none => t) t

/-- Runs of consecutive addresses of a combining store, up to 256 bytes within one line. -/
def combRuns (t : Tbl Byte) : List (Nat × List Byte) :=
  t.foldl (fun (l : List (Nat × List Byte)) b => match l.reverse with
    | (a, bs) :: r => if a + bs.length = b.1 && a / 256 = b.1 / 256 then (r.reverse ++ [(a, bs ++ [b.2])]) else l ++ [(b.1, [b.2])]
    | [] => [(b.1, [b.2])]) []

/-- Lines of the combining store that are whole, or all of it at the descriptor's end, are written (R198). -/
def combFlush (s : State) (e : Eng) (n : Nat) (c : CopyJob) (idx : Nat) (all : Bool) : State :=
  match ((getStream s e n).copies.find? (fun k => k.queue = c.queue && k.seq = c.seq)).bind (fun k => k.active.find? (fun d => d.idx = idx)) with
  | some d =>
    let go := (combRuns d.comb).filter (fun r => all || decide (r.2.length = 256))
    let keep := d.comb.filter (fun b => !(go.any (fun r => decide (r.1 ≤ b.1) && decide (b.1 < r.1 + r.2.length))))
    let s := setStream s e n (descMod (getStream s e n) c.queue c.seq idx (fun d => { d with comb := keep }))
    let w := go.foldl (fun (a : VPut) r =>
      if a.fault.isSome then a
      else let p := vwrite a.s (engReq e c) r.1 r.2; ⟨p.s, p.fault, a.dropped || p.dropped, a.stored || p.stored⟩) ⟨s, none, false, false⟩
    let s := if !w.stored then w.s else setStream w.s e n (copyMod (getStream w.s e n) c.queue c.seq (fun c => { c with wrote := true }))
    match w.fault with
    | some va => copyAbort (errSet s (pgEng e) 8) e n c.queue c.seq { status := stFault, faultKind := 1, detail := va, index := idx }
    | none => if w.dropped then copyAbort s e n c.queue c.seq { status := stEcc, index := idx } else s
  | none => s

/-- Where a unit goes: the address of its block or row, and of its header (R198). -/
def handAddr (d : Rec) (u : HandUnit) : Int × Int :=
  let a := (u.valley % 10 - dVx0 d : Nat) * dStride d 2 + (u.valley % 100 / 10 - dVy0 d : Nat) * dStride d 3 + (u.row : Int) * dStride d 1 +
           (u.elem * u.size2 / 2 : Nat)
  ((dBase d : Int) + a, (dHdrBase d : Int) + 2 * (a / 32))

/-- HANDOFF_UNIT: the oldest unit handed to a stream is placed in the combining store, or refused as stray (R199). HDR_BASE is judged
with the first unit that has a header (R190, R198; log 190). -/
def doHandoffUnit (s : State) (h n : Nat) : State :=
  let e : Eng := ⟨.ebb, h⟩
  let x := getStream s e n
  match s.handoffs.find? (fun u => u.stack = h && u.stream = n), x.copies.head? with
  | some u, some c =>
    (match c.active.head? with
     | some d =>
       if !engRun s e || streamKept s x || c.ending.isSome || decide (dMode d.d ≠ 1) || !d.opened ||
          decide (dCount d.d 1 * dCount d.d 2 ≤ d.units) then s
       else
         let s := { s with handoffs := s.handoffs.erase u }
         let a := handAddr d.d u
         if !handOk d.d u then taskAbort (errSet s (pgEng e) 10) u.queue u.seq { status := stFault, faultKind := 2 }
         else if u.header.isSome && decide (dHdrBase d.d % 64 ≠ 0) then
           copyAbort (errSet s (pgEng e) 9) e n c.queue c.seq { status := stFault, faultKind := 4, index := d.idx }
         else if a.1 < 0 || (u.header.isSome && a.2 < 0) then
           copyAbort (errSet s (pgEng e) 8) e n c.queue c.seq { status := stFault, faultKind := 1, index := d.idx }
         else
           let src := match logical s u.valley u.core with | some k => [Place.core k] | none => []
           let s := src.foldl (fun s p => carry s p [memPlace s (engReq e c) a.1.toNat] (u.data.filterMap id).length) s
           let t := combPut d.comb a.1.toNat u.data
           let t := match u.header with | some w => combPut t a.2.toNat ((leBytes 2 w).map some) | none => t
           let s := setStream s e n (descMod (getStream s e n) c.queue c.seq d.idx (fun d => { d with comb := t, units := d.units + 1 }))
           combFlush s e n c d.idx (decide (dCount d.d 1 * dCount d.d 2 ≤ d.units + 1))
     | none => s)
  | _, _ => s
def execHandoffUnit (stack stream : Nat) (s : State) : Host.Outcome State Fault Refusal := .next (heldBack (.handoffUnit stack stream) s (doHandoffUnit s stack stream))

end Sys2Proof.Machine
end

