-- ==== Sys2Proof/Machine/Cancel.lean ====
section
/-! DEFINITION. Cancellation (R230, R231) and queue reset (R233). -/

namespace Sys2Proof.Machine

/-- Where a COPY runs: its engine and stream. -/
def copyPlace (c : Rec) : Option (Eng × Nat) := match cTarget c with | some (.engine e) => some (e, wf' c 4 27 16) | _ => none

/-- A START in progress is cancelled: one not yet judged ends at once, another once its cores have run out (R205, R230). -/
def startCancel (s : State) (q seq : Nat) : State :=
  if s.starts.contains (q, seq) then
    let g := opFind s q seq
    let s := opEnd { s with starts := s.starts.filter (fun k => decide (k ≠ (q, seq))) } q seq { status := stCancelled }
    match g with
    | some o => (cValleys o.cmd).foldl (fun s v => slotSpoiled s v (cLslot o.cmd)) s
    | none => s
  else taskAbort s q seq { status := stCancelled }

/-- A HOLD waits for no block. -/
def HoldOp.over (h : HoldOp) : Bool := h.pages.isEmpty && h.late.isEmpty

/-- HOLDs that wait for no block complete (R391, R394). -/
def holdSettle (s : State) : State :=
  let hs := s.holdOps
  (hs.filter (·.over)).foldl (fun s h =>
    opEnd s h.queue h.seq { status := if h.cancelled then stCancelled else stOk,
                            detail := if h.cancelled then 0 else h.held + 2 ^ 32 * h.unarmed })
    { s with holdOps := hs.filter (fun h => !h.over) }

/-- A cancelled HOLD wakes each of its blocks that has not entered, and completes once they have left (R394). -/
def holdCancel (s : State) (q seq : Nat) : State :=
  match s.holdOps.find? (fun h => h.queue = q && h.seq = seq) with
  | some h =>
    holdSettle { s with
      holdOps := s.holdOps.map (fun x => if x.queue = q && x.seq = seq then { x with cancelled := true, late := [] } else x),
      blks := s.blks.map (fun (e : Nat × Blk) => (e.1, if h.pages.contains e.1 then { e.2 with wake := true } else e.2)) }
  | none => s

/-- A long command other than a CALL_CHART, dispatched and running, is cancelled in its engine (R230). A SMALL in its line buffer has no
engine to stop it. -/
def leafCancel (s : State) (o : Op) : State :=
  if decide (o.phase ≠ .running) then s
  else if o.opcode = opStart then startCancel s o.queue o.seq
  else if o.opcode = opCopy then
    (match copyPlace o.cmd with | some (e, n) => copyCancel s e n o.queue o.seq | none => s)
  else if o.opcode = opReduce then reduceCancel s o.queue o.seq
  else if o.opcode = opUpdate then updCancel s (updStack o.cmd) o.queue o.seq
  else if o.opcode = opSnap then snapCancel s o.queue o.seq
  else if o.opcode = opHold then holdCancel s o.queue o.seq
  else s

/-- The head command's wait is over without its dispatch; a SNAP that waited lifts its pause (R302, R303). -/
def unwait (s : State) (q : Nat) : State :=
  pauseOff (setQ s q (getQ s q).unwait) q

/-- A CALL_CHART in progress is cancelled: its replay dispatches nothing more, and its running commands are cancelled (R230, R231). -/
def chartCancel (s : State) (o : Op) : State :=
  if decide (o.phase ≠ .running) then s
  else
    let q := o.queue
    let s := opMod s q o.seq (fun o => { o with comp := { o.comp with status := stCancelled } })
    let s := match (getQ s q).replay with
      | some r =>
        if r.seq = o.seq then
          let s := unwait s q
          holdSignal (setQ s q { getQ s q with replay := none }) q o.seq o.cmd true none
        else s
      | none => s
    let kids := s.ops.filter (fun p => p.queue = q && p.parent = some o.seq)
    chartSettle (kids.foldl leafCancel s) q

/-- A dispatched long command is cancelled. -/
def opCancelled (s : State) (o : Op) : State := if o.opcode = opCallChart then chartCancel s o else leafCancel s o

/-- What a CANCEL does to the command of a handle (R230). -/
def cancelAct (s : State) (handle : Nat) : State :=
  let q := handle / 2 ^ 50
  let n := handle % 2 ^ 50
  let x := getQ s q
  if x.nextSeq.toNat ≤ n then (if x.cancels.contains n then s else setQ s q { x with cancels := x.cancels ++ [n] })
  else match opFind s q n with
    | some o => opCancelled s o
    | none => s

/-- CANCEL (R230). -/
def doCancel (s : State) (q : Nat) : State :=
  dispatchBy s q opCancel (fun s seq h => shortCmd s q seq h (fun s => (cancelAct s (wd h.c 2), {})))
def execCancel (q : Nat) (s : State) : Host.Outcome State Fault Refusal := .next (headBack (.cancel q) q s (doCancel s q))

/-! ### Queue reset (R233) -/

/-- Perform a queue's held signals while their rule is met. -/
def signalAll : Nat → Nat → State → State
  | 0, _, s => s
  | n + 1, q, s => signalAll n q (trySignal s q)

/-- Step 4: the CANCELLED records are written; numbering starts again. -/
def queueFresh (s : State) (q : Nat) : State :=
  let s := signalAll (getQ s q).sigs.length q s
  let x := getQ s q
  settle (setQ s q { x.unwait with nextSeq := 0, head := x.tail, tainted := false, stopped := false, stopCause := 0, cancels := [],
                                   sigs := [], loads := [], fetched := [], fetchBad := none, resetting := false }) pgQm

/-- A queue in reset whose long commands are all reported goes to step 4. -/
def queueSettle (s : State) (q : Nat) : State :=
  if (getQ s q).resetting && !(s.ops.any (fun o => o.queue = q)) then queueFresh s q else s

/-- Every queue in reset. -/
def queuesSettle (s : State) : State :=
  ((s.queues.filter (fun e => e.2.resetting)).map (·.1)).foldl queueSettle s

/-- Steps 1 and 2: dispatch stops, what runs is cancelled, what waits is dropped. Configuration on its way to a held valley no longer
holds a signal of the queue. -/
def queueBreak (s : State) (q : Nat) : State :=
  if (getQ s q).resetting then s
  else
    let s := unwait s q
    let s := (s.ops.filter (fun o => o.queue = q && o.opcode = opCallChart)).foldl opCancelled s
    let s := (s.ops.filter (fun o => o.queue = q && decide (o.opcode ≠ opCallChart))).foldl opCancelled s
    let s := { s with valleys := s.valleys.map (fun (e : Nat × Valley) =>
      (e.1, { e.2 with inbox := e.2.inbox.map (fun m => if m.queue = q then { m with queue := 2 ^ 14 } else m) })) }
    queueSettle (settle (setQ s q { getQ s q with resetting := true, loads := [], fetched := [], fetchBad := none, replay := none }) pgQm) q

/-- QUEUE_RESET. -/
def doQueueReset (s : State) (fn q : Nat) : State :=
  guarded s fn (qctxAddr q + 0x30) (fun j => ownsQueue s j q) (fun s => queueBreak s q)
def execQueueReset (fn q : Nat) (s : State) : Host.Outcome State Fault Refusal := .next (heldBack (.queueReset fn q) s (doQueueReset s fn q))

end Sys2Proof.Machine
end

