-- ==== Sys2Proof/Machine/Rings.lean ====
section
/-! DEFINITION. Completion rings (R218, R219): the pending store's records written, and the completions that engines keep for a place in it. -/

namespace Sys2Proof.Machine

/-- The completion of a job that was kept at its engine first (R219). -/
def firstEnded (s : State) (j : Nat) : Option Op :=
  (s.ops.filter (fun o => o.job = j && decide (o.phase = .ended))).foldl (fun a o => match a with
    | some b => if o.endNo < b.endNo then some o else a
    | none => some o) none

/-- A command whose record has a place frees what it held at its engine: a layer slot, a stream, a place in a Berm unit; a bucket context is
freed with the record itself (R219, R287). What a held block holds it frees as it leaves the hold (R38). -/
def engineFree (s : State) (o : Op) : State :=
  if o.opcode = opStart then taskLeave s o
  else if o.opcode = opCopy then
    (match copyPlace o.cmd with | some (e, n) => if held s (pgEng e) then s else copyLeave s e n o.queue o.seq | none => s)
  else if o.opcode = opUpdate then
    if held s (pgBerm (updStack o.cmd)) then s else bermSettle (updLeave s (updStack o.cmd) o.queue o.seq) (updStack o.cmd)
  else s

/-- A place of a job's pending store is free: the completion kept first at its engine takes it (R219; log 69); where records of commands
that are not long hold more than the 64 places, none is free yet (log 48). -/
def freePlace (s : State) (j : Nat) : State :=
  match firstEnded s j with
  | some o =>
    let s := opStore s o.queue o.seq
    if opKept s o.queue o.seq then s else engineFree (chartSettle s o.queue) o
  | none => s

/-- A record is in its ring: its place is free, its command reported, its message sent (R219, R372). -/
def ringDone (s : State) (n : Nat) (r : Ring) (p : Pend) : State :=
  let w := r.writeIdx + 1
  let s := setRing s n { r with writeIdx := w, records := r.records + 1,
                                phase := if w.toNat % 2 ^ r.sizeLog2.toNat = 0 then !r.phase else r.phase }
  let s := { s with pends := s.pends.erase p }
  let s := match p.op with
    | some k => ctxFree { s with ops := s.ops.filter (fun o => !(o.queue = k.1 && o.seq = k.2)) }
    | none => s
  let s := slAdd s p.job 2 (bytes64 (withPhase p.words r.phase))
  let s := if r.irqEn then msg s (if vfEn s r.job.toNat then r.job.toNat + 1 else 0) r.irqVector.toNat else s
  freePlace s p.job

/-- The record that waits longest for a ring is written, where the ring takes it (R219). DESIGN CHOICE (log 209): while ENABLE is 0 it goes
on waiting in the pending store. -/
def ringWrite (s : State) (n : Nat) : State :=
  let r := getRing s n
  match s.pends.find? (fun p => p.ring = n) with
  | none => s
  | some p =>
    if !r.enable || r.fault || ringFull r then s
    else
      let va := r.base.toNat * 4096 + 32 * (r.writeIdx.toNat % 2 ^ r.sizeLog2.toNat)
      let req := narReq r.job.toNat (p.words.getD 0 0).toNat
      let fail := fun (s : State) => errSet (setRing s n { getRing s n with fault := true }) pgQm 12
      match translate s req va true with
      | (s, none) => fail s
      | (s, some a) =>
        let w := physStore (lineFlush s a 32) a (bytes64 (withPhase p.words r.phase)) req.who
        if w.2 = 32 then ringDone w.1 n r p else fail w.1

/-- FAULT of a ring cleared; the ring retries its waiting record first (R219). -/
def ringRetry (s : State) (n : Nat) : State := ringWrite (setRing s n { getRing s n with fault := false }) n

/-- A write of the bits `mask` of word `k` of a ring context (R218, R416). Clearing FAULT retries the waiting record (R219). -/
def ringWriteCtx (s : State) (n k mask value : Nat) : State :=
  let r := getRing s n
  let old := (ringWords s n).getD k 0
  let w := mixWord old mask value
  match k with
  | 0 =>
    if decide (mask &&& (15 * 2 ^ 56) ≠ 0) && decide (bitsOf w 59 56 < 4) then badContext s
    else if r.enable then
      (if bitsOf w 59 56 ≠ bitsOf old 59 56 || bitsOf w 51 12 ≠ bitsOf old 51 12 then badContext s else s)
    else setRing s n { r with sizeLog2 := BitVec.ofNat 4 (bitsOf w 59 56), base := BitVec.ofNat 40 (bitsOf w 51 12) }
  | 1 => setRing s n { r with readIdx := BitVec.ofNat 16 (bitsOf w 47 32) }
  | 2 =>
    if bitOf w 0 && decide (r.sizeLog2.toNat < 4) then badContext s
    else
      let s := setRing s n { r with irqVector := BitVec.ofNat 11 (bitsOf w 26 16), irqEn := bitOf w 1, enable := bitOf w 0,
                                    records := if bitOf w 0 && !r.enable then 0 else r.records }
      if bitOf (value &&& mask) 3 && r.fault then ringRetry s n else s
  | _ => s

end Sys2Proof.Machine
end

