-- ==== Sys2Proof/Machine/Blocks.lean ====
section
/-! DEFINITION. Blocks as a whole: the slack hold (R391 to R394), sounding and retirement (R35, R358 to R362), island resets
(R31, R388, R390). -/

namespace Sys2Proof.Machine

/-! ### What a block holds -/

/-- A task loses valley `v` to a reset: it is cancelled in the others, or, where none is left, ends now (R388). -/
def taskLost (s : State) (v l : Nat) : State :=
  let y := (getV s v).slot l
  match y.task with
  | none => s
  | some t =>
    (match opFind s t.queue t.seq with
     | none => slotMod s v l (fun _ => {})
     | some o =>
       let others := (cValleys o.cmd).filter (fun w => decide (w ≠ v) &&
         (taskOf s w l).any (fun u => decide (u.queue = t.queue) && decide (u.seq = t.seq)))
       let s := slotMod s v l (fun _ => {})
       match others with
       | [] =>
         let m := y.words
         let e := verEnd s o.job (handleOf t.queue t.seq) (iPbFirst m) (iPbCount m) (iStep m) (iRetain m)
         opEnd e.1 t.queue t.seq { t.ending.getD { status := stCancelled } with partialOut := t.partialOut, nonrestart := t.nonrestart }
       | w :: _ =>
         taskMod (taskAbort s t.queue t.seq { status := stCancelled }) w l (fun u =>
           { u with partialOut := u.partialOut || t.partialOut, nonrestart := u.nonrestart || t.nonrestart }))

/-- Dispatched STARTs not yet judged in a valley are cancelled. -/
def startsLost (s : State) (v : Nat) : State :=
  s.starts.foldl (fun s k => match opFind s k.1 k.2 with
    | some o => if (cValleys o.cmd).contains v then startCancel s k.1 k.2 else s
    | none => s) s

/-- A core whose inlets and tiles have been tested, its generators untouched. -/
def Core.untiled (x : Core) : Core :=
  { x with tile0 := {}, tile1 := {}, inlet0 := none, inlet1 := none, feeding := [], inArray := [], toDrain := [], group := none }

/-- Panels of a slot's task that were filled and not issued are filled again. -/
def Slot.refill (y : Slot) : Slot :=
  { y with task := y.task.map (fun t => { t with runs := t.runs.map (fun (e : Nat × CoreRun) => (e.1, { e.2 with filled := e.2.issued })) }) }

/-- A valley's SRAM, tiles, inlets; with `logic` its sequencer, generators and configuration on its way too (R97, R358, R390). -/
def valleyInit (s : State) (v : Nat) (logic : Bool) : State :=
  let s := zeroValley (refuseReads s v) v
  let mine := fun (c : Nat) => decide (valleyOf c = v)
  if logic then
    let s := startsLost (taskLost (taskLost s v 0) v 1) v
    let s := { s with cores := tfilter (fun c => !mine c) s.cores, handoffs := s.handoffs.filter (fun u => decide (u.valley ≠ v)) }
    settle (setV s v { epochs := (getV s v).epochs }) (pgSteward (v / 100))
  else
    let s := { s with cores := s.cores.filterMap (fun (e : Nat × Core) =>
      if mine e.1 then (if e.2.untiled = {} then none else some (e.1, e.2.untiled)) else some e) }
    let x := getV s v
    setV s v { x with slot0 := x.slot0.refill, slot1 := x.slot1.refill }

/-- A COPY in an engine that loses its state is cancelled. -/
def copyLost (s : State) (c : CopyJob) : State := opEnd s c.queue c.seq { status := stCancelled, partialOut := c.wrote }

/-- A translating unit that is reset holds no translation (R326, R387). -/
def xlatsLose (s : State) (unit stack : Nat) : State :=
  { s with xlats := s.xlats.filter (fun x => !(decide (x.unit = unit) && decide (x.stack = stack))) }

/-- The streams of an engine: with `logic` their COPYs are cancelled and the streams empty, else what is staged reads as zero (R358). -/
def engineInit (s : State) (e : Eng) (logic : Bool) : State :=
  let mine := fun (k : Nat) => decide (k / 4096 = streamKey e 0 / 4096)
  let xs := s.streams.filter (fun p => mine p.1)
  if logic then
    let s := xlatsLose s (match e.kind with | .flood => 1 | .ebb => 2) e.stack
    let s := { s with streams := s.streams.filterMap (fun (p : Nat × Stream) =>
      if mine p.1 then (if p.2.epoch = 0 then none else some (p.1, { epoch := p.2.epoch })) else some p) }
    let s := (xs.flatMap (fun p => p.2.allCopies)).foldl copyLost s
    if e.kind = .ebb then { s with handoffs := s.handoffs.filter (fun u => decide (u.stack ≠ e.stack)) } else s
  else
    let clean := fun (d : DescSt) => { d with comb := [], staged := d.staged.map (fun r =>
      { r with bytes := List.replicate r.bytes.length 0, poison := List.replicate r.poison.length false }) }
    { s with streams := s.streams.map (fun (p : Nat × Stream) =>
      if mine p.1 then (p.1, { p.2 with copies := p.2.copies.map (fun c => { c with active := c.active.map clean }) }) else p) }

/-- A Berm unit in reset: claimed blocks stop, UPDATEs are cancelled (R250, R388). -/
def bermInit (s : State) (h : Nat) : State :=
  let us := bermList s h
  let s := us.foldl (fun s u => u.claimed.foldl (fun s e =>
    stopBlock s h u e.1 (hSel e.2) (if hStash e.2 then 1 - hVer e.2 else hVer e.2) id) s) s
  us.foldl (fun s u => updEnd s h u { status := stCancelled, partialOut := u.touched || !u.claimed.isEmpty }) s

/-- Estuary in reset: REDUCEs are cancelled; contexts, early store and flows are empty. -/
def estuaryInit (s : State) : State :=
  let cs := s.ctxs.filter (fun e => e.2.live)
  let ws := s.estWait
  let s := { s with ctxs := [], estWait := [], early := [], estLast := [], estSelf := [], txFlows := [], rxFlows := [], portTurns := [] }
  let s := portsSettle s
  let s := cs.foldl (fun s e => opEnd s e.2.queue e.2.seq { status := stCancelled, partialOut := e.2.partialOut }) s
  ws.foldl (fun s k => opEnd s k.1 k.2 { status := stCancelled }) s

/-- Tideway in reset: both links go down, rounds and images in progress are given up. -/
def tidewayInit (s : State) : State :=
  let xs := s.snaps
  let s := { s with twyQ := [], twySigs := [], twyIn := [], rounds := [], twyTurn := 0, links := [] }
  let s := bothLinks.foldl (fun s l => settle (wf s (pgLink l + 0x80) 31 31 0) (pgLink l)) s
  xs.foldl (fun s x => snapEnd s x.queue x.seq { status := stCancelled, partialOut := decide (x.phase ≠ .waiting) }) s

/-- A stack's contents are lost: every byte reads as one never written (R388, R390; log 3). -/
def stackLost (s : State) (h : Nat) : State :=
  { s with hbm := s.hbm.filter (fun e => decide (e.1 / 2 ^ 36 ≠ h)), hbmPoison := tfilter (fun u => decide (u / 2 ^ 30 ≠ h)) s.hbmPoison,
           hbmUpset := tfilter (fun u => decide (u / 2 ^ 30 ≠ h)) s.hbmUpset }

/-- A controller in reset: long commands in its island are cancelled, and the stack's contents lost (R365, R388). -/
def controllerInit (s : State) (h : Nat) : State :=
  let s := s.streams.foldl (fun s p =>
    if p.1 / 4096 = h then p.2.allCopies.foldl (fun s c => copyCancel s ⟨.flood, h⟩ (p.1 % 4096) c.queue c.seq) s
    else if p.1 / 4096 = 8 + h then p.2.allCopies.foldl (fun s c => copyCancel s ⟨.ebb, h⟩ (p.1 % 4096) c.queue c.seq) s
    else s) s
  let s := (bermList s h).foldl (fun s u => updCancel s h u.queue u.seq) s
  let s := stackLost { s with patrols := tdel h s.patrols } h
  wf s (pgHbm h + 0xA0) 7 0 (rf s (pgHbm h + 0xA0) 7 0 + 1)

/-- The contents of a block in reset. -/
def blockInit (s : State) (p : Page) : State :=
  match p.kind with
  | .valley => valleyInit s p.inst true
  | .flood => engineInit s ⟨.flood, p.inst⟩ true
  | .ebb => engineInit s ⟨.ebb, p.inst⟩ true
  | .berm => bermInit s p.inst
  | .narrows => xlatsLose s 3 0
  | .estuary => estuaryInit s
  | .tideway => tidewayInit s
  | .hbmCtl => controllerInit s p.inst
  | .port => linkSet s p.inst 0
  | .twyLink => if (getLink s p.inst).trained then linkLost s p.inst else s
  | _ => s

/-- The registers of a page return to their reset values; `keep` names offsets that do not. -/
def pageClear (s : State) (pg : Nat) (keep : Nat → Bool) : State :=
  { s with regs := tfilter (fun k => decide (k % 2 ^ 26 / 0x1000 ≠ pg / 0x1000) || keep (k % 0x1000)) s.regs }

/-- The registers a reset of a block's page keeps or takes with it: HBM_REG_SHARE and HBM_EPOCH stay, a steward's stage contexts and a
controller's regulators return (R390, R415); the count of a steward's reloads stays (R376). -/
def blockClear (s : State) (p : Page) (pg : Nat) : State :=
  match p.kind with
  | .hbmCtl =>
    pageClear (pageClear s pg (fun o => o = 0xA0)) (pgReg p.inst) (fun o => decide (0x100 ≤ o) && decide (o < 0x200))
  | .steward =>
    let n := rf s (pg + 0x80) 23 16
    wf (pageClear (pageClear s pg (fun _ => false)) (pgSeq p.inst) (fun o => decide (o < 0x80))) (pg + 0x80) 23 16 n
  | .tideway => takeRole (pageClear s pg (fun _ => false))
  | _ => pageClear s pg (fun _ => false)

/-- HOLDs no longer wait for a block: one with none left to wait for completes (R391, R394). As a block enters the hold, a cancelled HOLD
waits on, for it to leave (R394). -/
def holdDrop (s : State) (pg : Nat) (enters : Bool) : State :=
  holdSettle { s with holdOps := s.holdOps.map (fun h =>
    if h.pages.contains pg && !(enters && h.cancelled) then { h with pages := h.pages.filter (· ≠ pg), held := if enters then h.held + 1 else h.held } else h) }

/-- The block of a page is an island of its own clock (R23). -/
def ownIsland (p : Page) : Bool := p.kind = .valley || p.kind = .steward

/-- A block takes an island reset (R31, R388, R390, R394): it stands in init, and its hold or sounding is over. -/
def islandReset (s : State) (pg : Nat) : State :=
  match pageOf pg with
  | none => s
  | some p =>
    let s := setBlk s pg { inReset := true, reload := (blk s pg).reload }
    let s := blockClear (blockInit s p) p pg
    let s := wr (wr (wr s (pg + 0xC) 1) (pg + 0x28) 0) (pg + 0x34) 0
    let s := wf (wf s (pg + 0x10) 1 1 1) (pg + 0x30) 4 4 (b2n s.flash.retireOnFail)
    holdDrop (if ownIsland p then restartClk s (islandOf p) else s) pg false

/-- CTRL.RESET_REQ of a page (R31, R37). -/
def resetRequest (s : State) (pg : Nat) : State :=
  match pageOf pg with
  | none => s
  | some p => if !present s pg then s else if canReset p.kind then islandReset s pg else badWrite s pg

/-- A page is reached whenever the module is up: in init its header behaves as in ready (R39). -/
def pageUp (s : State) (pg : Nat) : Bool := decide (s.hl.boot = .up) && (pageOf pg).isSome

def doResetReq (s : State) (pg : Nat) : State := if pageUp s pg then resetRequest s pg else s
def execResetReq (page : Nat) (s : State) : Host.Outcome State Fault Refusal := .next (heldBack (.resetReq page) s (doResetReq s page))

/-- COUNT_CLR (R34, R37). -/
def countClear (s : State) (pg : Nat) : State := if present s pg then wr (wr s (pg + 0x20) 0) (pg + 0x24) 0 else s
def doCountClr (s : State) (pg : Nat) : State := if pageUp s pg then countClear s pg else s
def execCountClr (page : Nat) (s : State) : Host.Outcome State Fault Refusal := .next (doCountClr s page)

/-! ### The slack hold -/

/-- A tidemark that already stands at its value wakes a block (R393). -/
def wakeLevel (s : State) (pg : Nat) : State :=
  let b := blk s pg
  if tmWakes s b.wakeTm (tmGet s b.wakeTm) pg b then setBlk s pg { b with wake := true } else s

/-- HOLD_ARM of a page. -/
def armedHold (s : State) (pg : Nat) : Bool := rb s (pg + 0x10) 4

/-- A HOLD reaches a block: it begins entry where it is armed and neither held nor entering (R391, R392). -/
def holdBegin (c : Rec) (s : State) (pg : Nat) : State :=
  let b := blk s pg
  if held s pg || b.entering || (b.scope.isSome && b.fromHold) || !armedHold s pg then s
  else wakeLevel (setBlk s pg { b with entering := true, wake := false, wakeTm := wf' c 3 12 0, wakeVal := c.getD 4 0 }) pg

/-- A HOLD reaches blocks of its target: it counts those held and those not armed, and waits for the others. -/
def holdReach (s : State) (c : Rec) (h : HoldOp) (pgs : List Nat) : State × HoldOp :=
  let there := fun (pg : Nat) => held s pg || ((blk s pg).scope.isSome && (blk s pg).fromHold)
  (pgs.foldl (holdBegin c) s,
   { h with pages := h.pages ++ pgs.filter (fun pg => !there pg && armedHold s pg), held := h.held + (pgs.filter there).length,
            unarmed := h.unarmed + (pgs.filter (fun pg => !there pg && !armedHold s pg)).length })

/-- The page is a valley of a die whose steward is being reset, to which nothing new is dispatched (R366). -/
def stewardless (s : State) (pg : Nat) : Bool :=
  match pageOf pg with
  | some p => decide (p.kind = .valley) && decide (stateOf s (pgSteward (p.inst / 100)) = 1)
  | none => false

/-- A dispatched HOLD (R391). -/
def holdRun (s : State) (q seq : Nat) (c : Rec) : State :=
  let r := holdReach s c { queue := q, seq := seq, pages := [], held := 0, unarmed := 0, late := (cPages c).filter (stewardless s) }
    ((cPages c).filter (fun pg => !stewardless s pg))
  if r.2.over then opEnd r.1 q seq { detail := r.2.held + 2 ^ 32 * r.2.unarmed } else { r.1 with holdOps := r.1.holdOps ++ [r.2] }

/-- A steward works again: HOLDs that waited for it reach its die's valleys (R366). -/
def holdLate (s : State) : State :=
  let r := s.holdOps.foldl (fun (a : State × List HoldOp) h =>
    let now := h.late.filter (fun pg => !stewardless a.1 pg)
    match opFind a.1 h.queue h.seq with
    | some o =>
      let g := holdReach a.1 o.cmd { h with late := h.late.filter (stewardless a.1) } now
      (g.1, a.2 ++ [g.2])
    | none => (a.1, a.2 ++ [h])) (s, [])
  holdSettle { r.1 with holdOps := r.2 }

/-- HOLD. -/
def doHold (s : State) (q : Nat) : State :=
  dispatchBy s q opHold (fun s seq h => longCmd s q seq h false (fun s => holdRun s q seq h.c))
def execHold (q : Nat) (s : State) : Host.Outcome State Fault Refusal := .next (doHold s q)

/-- RELEASE (R393): it wakes each block held or entering the hold, whatever the hold mode bits say. -/
def releaseRun (s : State) (c : Rec) : State :=
  (cPages c).foldl (fun s pg => if wakeable s pg (blk s pg) then setBlk s pg { blk s pg with wake := true } else s) s

def doRelease (s : State) (q : Nat) : State :=
  dispatchBy s q opRelease (fun s seq h => shortCmd s q seq h (fun s => (releaseRun s h.c, {})))
def execRelease (q : Nat) (s : State) : Host.Outcome State Fault Refusal := .next (doRelease s q)

/-- Work in flight of a block has ended (R392): issued passes and their drains, reads, claimed blocks, flits sent and not acknowledged. -/
def quiet (s : State) (p : Page) : Bool :=
  match p.kind with
  | .valley => !(s.cores.any (fun e => decide (valleyOf e.1 = p.inst) && (!e.2.inArray.isEmpty || !e.2.toDrain.isEmpty)))
  | .flood => !(s.streams.any (fun e => decide (e.1 / 4096 = p.inst) && !e.2.flight.isEmpty))
  | .berm => (bermList s p.inst).all (fun u => u.claimed.isEmpty)
  | .tideway => bothLinks.all (fun l => (getLink s l).unacked.isEmpty)
  | _ => true

/-- HOLD_ENTERED (R392, R393): a wake latched during entry still stands. -/
def doHoldEntered (s : State) (pg : Nat) : State :=
  match pageOf pg with
  | none => s
  | some p =>
    if up s && (blk s pg).entering && clocked s pg && quiet s p then
      let b := blk s pg
      let s := setBlk s pg { b with entering := false, back := stateOf s pg }
      let s := evtSet (setState s pg 5) pg 1
      let s := wf s (pg + 0x10) 4 4 0
      wakeLevel (holdDrop (if ownIsland p then haltClk s (islandOf p) else s) pg true) pg
    else s
def execHoldEntered (page : Nat) (s : State) : Host.Outcome State Fault Refusal := .next (doHoldEntered s page)

/-- Configuration that a valley could not take is taken, in order, up to what follows a HOLD yet to come (R22, R366, R392). -/
def inboxTake (s : State) (v : Nat) : State :=
  if valleyTakes s v then
    let x := getV s v
    let now := x.inbox.takeWhile (fun m => !holdAhead s m.queue m.seq v)
    now.foldl (fun s m => if m.inval then slotInvalid s v m.lslot m.after else cfgDeliver s v m.lslot m.first m.words)
      (setV s v { x with inbox := x.inbox.drop now.length })
  else s

/-- Dispatched STARTs that their valleys can take now are judged, after the configuration sent before them (R22). -/
def startsTry (s : State) : State := s.starts.foldl (fun s k => startTry s k.1 k.2) s

/-- The valleys of a die take what waited for them, then its STARTs. -/
def dieTake (s : State) (d : Nat) : State := startsTry ((List.range 100).foldl (fun s i => inboxTake s (d * 100 + i)) s)

/-- The streams of an engine take what waited at its control input. -/
def engInput (s : State) (e : Eng) : State := settle ((engStreams s e).foldl (fun s k => streamInput s e k.1) s) (pgEng e)

/-- UPDATEs of a unit whose records found their place while it was held leave it. -/
def bermLeave (s : State) (h : Nat) : State :=
  ((bermList s h).filter (fun u => !(opRunning s u.queue u.seq || opKept s u.queue u.seq))).foldl (fun s u => updLeave s h u.queue u.seq) s

/-- A block works again: what waited at it goes on, in the order in which each queue sent it (R22). -/
def catchUp (s : State) (p : Page) : State :=
  match p.kind with
  | .valley => startsTry (inboxTake (slotsLeave s p.inst) p.inst)
  | .steward => dieTake (holdLate (dieTake s p.inst)) p.inst
  | .flood => engInput s ⟨.flood, p.inst⟩
  | .ebb => engInput s ⟨.ebb, p.inst⟩
  | .berm => bermSettle (bermLeave s p.inst) p.inst
  | .tideway => mirrorResume (twyRun s)
  | _ => s

/-- HOLD_LEFT (R393): STATE returns to the state before the hold, or to low water while the mode lasts (R383). -/
def doHoldLeft (s : State) (pg : Nat) : State :=
  match pageOf pg with
  | none => s
  | some p =>
    let b := blk s pg
    if up s && held s pg && b.wake then
      let s := setBlk s pg {}
      let s := if ownIsland p then resumeClk s (islandOf p) else s
      let s := setState s pg (if lowWater s then 6 else if b.back = 6 then idleState s (holdsWork s p) else b.back)
      let s := holdSettle { s with holdOps := s.holdOps.map (fun h => if h.cancelled then { h with pages := h.pages.filter (· ≠ pg) } else h) }
      settle (catchUp (evtSet s pg 2) p) pg
    else s
def execHoldLeft (page : Nat) (s : State) : Host.Outcome State Fault Refusal := .next (heldBack (.holdLeft page) s (doHoldLeft s page))

/-! ### Sounding -/

/-- HEARTBEAT (R376): bits [15:0] of DS_FW_STATUS hold it while the firmware does not run, and while it runs what the island's
milliseconds are added to. The firmware runs in every state but init, sounding, faulted and retired; in the hold its clock stands. -/
def beatShown (s : State) (d : Nat) : Nat :=
  let x := rf s (pgSteward d + 0x80) 15 0
  if clocked s (pgSteward d) || held s (pgSteward d) then (x + islTime s (islSteward d) / 1000000) % 2 ^ 16 else x

/-- The firmware stops, or starts again: the heartbeat stands, or goes on from where it stood. -/
def beatStop (s : State) (d : Nat) : State := wf s (pgSteward d + 0x80) 15 0 (beatShown s d)

def beatStart (s : State) (d : Nat) : State :=
  if clocked s (pgSteward d) || held s (pgSteward d) then
    wf s (pgSteward d + 0x80) 15 0 ((rf s (pgSteward d + 0x80) 15 0 + 2 ^ 16 - islTime s (islSteward d) / 1000000 % 2 ^ 16) % 2 ^ 16)
  else s

/-- SOUND_CTRL.START (R35, R358): accepted, the block stands in sounding, isolated. -/
def soundBegin (s : State) (p : Page) (pg scope : Nat) : State :=
  let st := stateOf s pg
  let ok := canSound p.kind && decide (scope ≤ 2) && (st = 3 || st = 5 || (st = 6 && !holdsWork s p))
  if ok then
    let s := setBlk s pg { blk s pg with scope := some scope, fromHold := decide (st = 5) }
    let s := match p.kind with
      | .port => linkSet s p.inst 0
      | .twyLink => if (getLink s p.inst).trained then linkLost s p.inst else s
      | .valley => refuseReads s p.inst
      | .steward => beatStop s p.inst
      | _ => s
    wf (setState s pg 2) (pg + 0x34) 2 0 1
  else wf s (pg + 0x34) 2 0 4

/-- A write of SOUND_CTRL. -/
def soundWrite (s : State) (pg value : Nat) : State :=
  match pageOf pg with
  | none => s
  | some p =>
    if !present s pg then s
    else
      let s := wr s (pg + 0x30) (value &&& 0x1E)
      if bitOf value 0 then soundBegin s p pg (bitsOf value 3 1) else s

def doSoundStart (s : State) (pg : Nat) (value : Word32) : State := if pageUp s pg then soundWrite s pg value.toNat else s
def execSoundStart (page : Nat) (value : Word32) (s : State) : Host.Outcome State Fault Refusal := .next (doSoundStart s page value)

/-! ### Retirement (R361, R362) -/

/-- Log a retirement in flash: the latest 512. -/
def retireNote (s : State) (id unit : Nat) : State :=
  { s with flash := { s.flash with retireLog := ({ id := id, unit := unit, hours := s.flash.hours } :: s.flash.retireLog).take 512 } }

/-- A valley has an index with no working core behind it (R46). -/
def belowGrade (s : State) (v : Nat) : Bool := (List.range s.grade.enabled).any (fun n => !bitOf (mapEntry s v n) 15)

/-- Take position `pos` of a valley out of use: its index moves to the lowest spare, or reads VALID 0 (R19, R46, R99). -/
def retireCore (s : State) (v pos : Nat) (hole : Bool) : State :=
  let core := coreAt v pos
  let ix := (List.range s.grade.enabled).find? (fun n => mapEntry s v n % 256 = pos && bitOf (mapEntry s v n) 15)
  let was := belowGrade s v
  let isNew := !s.flash.coresRetired.contains core
  let s := if isNew then { s with flash := { s.flash with coresRetired := core :: s.flash.coresRetired } } else s
  let s := if isNew then ckptEvent s 2 else s
  let s := match ix with
    | some n => (match spares s v with
      | p :: _ => setMapEntry { zeroCore s (coreAt v p) with cores := tdel (coreAt v p) s.cores } v n (0xC000 + p)
      | [] => setMapEntry s v n (mapEntry s v n % 0x8000))
    | none => s
  let s := logAdd s 0x0040 0xFFFF (pageId (pgValley v)) (ix.getD 255 + 256 * b2n hole) core
  if belowGrade s v && !was then logAdd s 0x0041 0xFFFF (pageId (pgValley v)) 0 v else s

/-- Holes of a valley, by position. -/
def valleyHoles (s : State) (v : Nat) : List Nat := (List.range 256).filter (fun p => s.flash.holes.contains (coreAt v p))

/-- More than 8 holes, or two that touch (R149). -/
def holesBreak (l : List Nat) : Bool :=
  decide (8 < l.length) || l.any (fun a => l.any (fun b => decide (a ≠ b) &&
    decide (a / 16 ≤ b / 16 + 1) && decide (b / 16 ≤ a / 16 + 1) && decide (a % 16 ≤ b % 16 + 1) && decide (b % 16 ≤ a % 16 + 1)))

/-- A valley out of service for good: all its logical indices invalid (R361). -/
def retireValley (s : State) (v unit : Nat) : State :=
  let s := retireNote { s with flash := { s.flash with valleysRetired := v :: s.flash.valleysRetired } } v unit
  let s := (List.range s.grade.enabled).foldl (fun s n => setMapEntry s v n (mapEntry s v n % 0x8000)) s
  setState (logAdd s 0x0041 0xFFFF (pageId (pgValley v)) 1 v) (pgValley v) 8

/-- UNIT of DS_SOUND_FAIL (R376). -/
def soundUnit : SoundFault → Nat
  | .core _ bank => if bank then 1 else 0
  | .router _ => 2
  | .sequencer => 3
  | .rowUnit => 4
  | .crest => 5
  | .block | .channel _ => 7

/-- A fault found in a valley, captured while VALID is 0 (R361, R376). -/
def captureSound (s : State) (v : Nat) (f : SoundFault) : State :=
  let k := pgSteward (v / 100) + 0x98
  let core := match f with | .core p _ => coreAt v p | .router p => coreAt v p | _ => coreAt v 0
  if rb s k 31 then s else wr s k (2 ^ 31 + soundUnit f * 2 ^ 24 + core)

/-- A fault in a unit that the page's block has. -/
def faultFits (s : State) (p : Page) (f : SoundFault) : Bool :=
  match f with
  | .core i _ | .router i => p.kind = .valley && decide (i < 256)
  | .sequencer | .rowUnit => p.kind = .valley
  | .crest => p.kind = .valley && s.grade.crest
  | .block => decide (p.kind ≠ .valley)
  | .channel _ => false

/-- The channels of a pass end that fail the training that ends a sounding or a boot (R146). -/
def badChannels (p : Page) (l : List SoundFault) : List Nat :=
  l.filterMap (fun f => match f with | .channel c => if p.kind = .passEnd && decide (c < 168) then some c else none | _ => none)

/-- A sounding of scope `sc` tests the unit: SCOPE 1 no SRAM bank, SCOPE 2 no logic without storage of its own (R359). -/
def inScope (sc : Nat) : SoundFault → Bool
  | .core _ bank => !bank || decide (sc ≠ 1)
  | .router _ | .sequencer | .rowUnit | .crest => decide (sc ≠ 2)
  | .block | .channel _ => true

/-- What follows a fault (R361); a block that is retired or faulted takes STATE 8 or 7. -/
def soundFailure (s : State) (p : Page) (pg : Nat) (retire : Bool) (f : SoundFault) : State :=
  if decide (stateOf s pg = 8) then s
  else match f with
    | .core i bank =>
      if retire then retireCore (retireNote s (coreAt p.inst i) (if bank then 1 else 0)) p.inst i false else s
    | .router i =>
      if retire then
        let c := coreAt p.inst i
        let s := { s with flash := { s.flash with holes := if s.flash.holes.contains c then s.flash.holes else c :: s.flash.holes } }
        let s := retireCore (retireNote s c 2) p.inst i true
        if holesBreak (valleyHoles s p.inst) then setState s pg 7 else s
      else s
    | .sequencer | .rowUnit => if retire then retireValley s p.inst (soundUnit f) else setState s pg 7
    | .crest =>
      if retire then retireNote { s with flash := { s.flash with crestRetired := p.inst :: s.flash.crestRetired } } p.inst 5 else s
    | .block =>
      if retire then
        setState (retireNote { s with flash := { s.flash with blocksRetired := pageId pg :: s.flash.blocksRetired } } (pageId pg) 7) pg 8
      else setState s pg 7
    | .channel _ => s

/-- A valley with too many holes, or holes that touch, is faulted (R149). -/
def holesFault (s : State) (v : Nat) : State :=
  if holesBreak (valleyHoles s v) && decide (stateOf s (pgValley v) ≠ 8) then setState s (pgValley v) 7 else s

/-- Step 4 of R358: what was tested is written with its reset value; the registers of the block's own page stay (log 179). -/
def soundInit (s : State) (p : Page) (pg scope : Nat) : State :=
  let logic := decide (scope ≠ 2)
  match p.kind with
  | .valley =>
    let n := (getV s p.inst).scrub
    let s := valleyInit s p.inst logic
    setV s p.inst { getV s p.inst with scrub := n }
  | .flood => engineInit s ⟨.flood, p.inst⟩ logic
  | .ebb => engineInit s ⟨.ebb, p.inst⟩ logic
  | .berm => if logic then bermInit s p.inst else s
  | .estuary => estuaryInit s
  | .hbmCtl => if logic then pageClear { s with patrols := tdel p.inst s.patrols } (pgReg p.inst) (fun o => decide (o < 0x80)) else s
  | .steward => wf s (pg + 0x80) 15 0 0
  | _ => s

/-- A pass end trains as its sounding ends, holes a valley has kept fault it, and a steward's firmware runs anew (R146, R149, R376). -/
def soundAfter (s : State) (p : Page) (bad : List Nat) : State :=
  match p.kind with
  | .passEnd => passTrain s p.inst bad
  | .valley => holesFault s p.inst
  | .steward => beatStart s p.inst
  | _ => s

/-- Steps 4 and 5 of R358 (R361). -/
def soundEnd (s : State) (p : Page) (pg scope : Nat) (faults : List SoundFault) : State :=
  let b := blk s pg
  let rep := soundReport p.kind scope
  let fs := if rep.2 = 0 then [] else faults.filter (fun f => faultFits s p f && inScope scope f)
  let s := soundInit s p pg scope
  let s := wr s (pg + 0x34) (rep.2 * 2 ^ 16 + rep.1 * 2 ^ 8 + (if fs.isEmpty then 2 else 3))
  let s := if fs.isEmpty then s else errSet s pg 3
  let s := if p.kind = .valley then fs.foldl (fun s f => captureSound s p.inst f) s else s
  let s := evtSet s pg 3
  let s := fs.foldl (fun s f => soundFailure s p pg (rb s (pg + 0x30) 4) f) s
  let s := setBlk s pg { b with scope := none, fromHold := false }
  let s := if stateOf s pg = 2 then setState s pg (if b.fromHold then 5 else idleState s (holdsWork s p)) else holdDrop s pg false
  soundAfter s p (badChannels p faults)

/-- SOUND_DONE. -/
def doSoundDone (s : State) (pg : Nat) (faults : List SoundFault) : State :=
  match pageOf pg with
  | none => s
  | some p =>
    match (blk s pg).scope with
    | some sc => if up s && stateOf s pg = 2 then soundEnd s p pg sc faults else s
    | none => s
def execSoundDone (page : Nat) (faults : List SoundFault) (s : State) : Host.Outcome State Fault Refusal :=
  .next (heldBack (.soundDone page faults) s (doSoundDone s page faults))

end Sys2Proof.Machine
end

