-- ==== Sys2Proof/Machine/Strandline.lean ====
section
/-! DEFINITION. Strandline records: the ring's writer, its header, SL_EN and FLUSH (R372 to R375, R377). -/

namespace Sys2Proof.Machine

/-- Physical address of a job's ring (R377). -/
def slBase (s : State) (j : Nat) : Nat := rd64 s (slReg j 0x108) % 2 ^ 39

/-- A write of the ring, charged to the job (R373). -/
def slStore (s : State) (j pa : Nat) (bytes : List Byte) : State :=
  if isHbm s.grade pa && isHbm s.grade (pa + bytes.length - 1) then
    (hbmStore (carryMem s (some .io) true (hbmPlace pa) bytes.length) pa bytes (some (.job j))).1 else s

/-- The ring header: MAGIC, JOB, SL_SIZE and the total bytes written (R373; log 24). -/
def slHeader (s : State) (j : Nat) : List Byte :=
  leBytes 4 0x4B534C31 ++ leBytes 4 j ++ leBytes 8 (rf s (slReg j 0x110) 11 0) ++ leBytes 8 (rd64 s (slReg j 0x120))

/-- The header's total is rewritten. -/
def slHead (s : State) (j : Nat) : State := slStore s j (slBase s j) (slHeader s j)

/-- The first `n` staged bytes go to the ring, wrapping at its end. -/
def slPut (s : State) (j n : Nat) : State :=
  let x := strand s j
  let cap := slCap s j
  let at' := slBase s j + 4096 + x.place
  let first := min n (cap - x.place)
  let s := if first = 0 then s else slStore s j at' (x.staged.take first)
  let s := if n ≤ first then s else slStore s j (slBase s j + 4096) ((x.staged.take n).drop first)
  let s := wr64 s (slReg j 0x120) ((rd64 s (slReg j 0x120) + n) % 2 ^ 64)
  setStrand s j { x with staged := x.staged.drop n, place := (x.place + n) % cap }

/-- Room has returned: a LOST entry counts what was dropped (R373, R368). -/
def slLost (s : State) (j : Nat) : State :=
  let x := strand s j
  if x.dropped = 0 || decide (x.staged.length + 32 > 2 ^ 18) then s
  else
    let s := slAdd (setStrand s j { x with dropped := 0 }) j 8 (leBytes 8 x.dropped ++ leBytes 8 0)
    logAdd s 0x0070 0xFFFF (pageId pgJob) j x.dropped

/-- A gathered 4 KiB line is written. -/
def slLine (s : State) (j : Nat) : State :=
  let x := strand s j
  let n := 4096 - x.place % 4096
  if x.staged.length < n then s else slLost (slPut s j n) j

def doSlLineWrite (s : State) (j : Nat) : State := if up s then slLine s j else s
def execSlLineWrite (job : Nat) (s : State) : Host.Outcome State Fault Refusal := .next (heldBack (.slLineWrite job) s (doSlLineWrite s job))

def doSlHeaderRewrite (s : State) (j : Nat) : State := if up s && slOn s j then slHead s j else s
def execSlHeaderRewrite (job : Nat) (s : State) : Host.Outcome State Fault Refusal := .next (heldBack (.slHeaderRewrite job) s (doSlHeaderRewrite s job))

/-- A MARK entry (R372). -/
def slMark (s : State) (j : Nat) : State := slAdd s j 9 (leBytes 16 0)

/-- FLUSH: a MARK, the staged lines and the header (R377). -/
def slFlush (s : State) (j : Nat) : State :=
  if slOn s j then
    let s := slMark s j
    slHead (slLost (slPut s j (strand s j).staged.length) j) j
  else s

def doFlush (s : State) (j : Nat) : State := ownReach s pgJob (fun s => slFlush s j)
def execFlush (job : Nat) (s : State) : Host.Outcome State Fault Refusal := .next (heldBack (.flush job) s (doFlush s job))

/-- A header at the ring's base with this job and size: its total, from which the record goes on (R374). -/
def slResume (s : State) (j : Nat) : State × Nat :=
  if !isHbm s.grade (slBase s j) then (s, 0)
  else
    let g := hbmLoad (carryMem s (some .io) false (hbmPlace (slBase s j)) 24) (slBase s j) 24 (some (.job j))
    if g.bad.any id || decide (leNat (g.bytes.take 4) ≠ 0x4B534C31) || decide (leNat (slice g.bytes 4 4) ≠ j) ||
       decide (leNat (slice g.bytes 8 8) ≠ rf s (slReg j 0x110) 11 0) then (g.s, 0)
    else (g.s, leNat (slice g.bytes 16 8))

/-- SL_EN is set: the ring header and a MARK (R377); a ring of the same base goes on where it ended (R374). -/
def slBegin (s : State) (j : Nat) : State :=
  let r := slResume s j
  let s := wr64 r.1 (slReg j 0x120) r.2
  let s := setStrand s j { place := r.2 % slCap s j }
  slMark (slHead s j) j

/-- A write of QM_SL_CTRL (R377). -/
def slControl (s : State) (j v : Nat) : State :=
  let was := slOn s j
  let s := wf (wf s (slReg j 0x100) 31 31 (bitsOf v 31 31)) (slReg j 0x100) 30 30 (bitsOf v 30 30)
  let s := if bitOf v 31 && !was then slBegin s j else s
  if bitOf v 29 then slFlush s j else s

def doSlEnable (s : State) (j : Nat) (value : Word32) : State := ownReach s pgJob (fun s => slControl s j value.toNat)
def execSlEnable (job : Nat) (value : Word32) (s : State) : Host.Outcome State Fault Refusal := .next (heldBack (.slEnable job value) s (doSlEnable s job value))

end Sys2Proof.Machine
end

