-- ==== Sys2Proof/Machine/Jobs.lean ====
section
/-! DEFINITION. Jobs (R314 to R320, R326), their valleys (R316), stage contexts (R266), completion rings (R219), function-level, hot and
device resets (R321, R388, R407) and the end of a reset (R31). -/

namespace Sys2Proof.Machine

/-! ### Stage contexts (R266) -/

/-- The counters are a pair that R263 reaches: of the first f + b positions of a step, f are forward. -/
def seqReached (k : Counts) : Bool :=
  decide (k.f + k.b < 2 * k.mb) && decide (((List.range k.mb).filter (fun i => decide (posF k i < k.f + k.b))).length = k.f)

/-- A context may not take ENABLE 1 with DS_SEQ_CTRL `v`. R266 names a queue or tidemark that belongs to another job; that one which belongs
to no job is refused too is the MODEL's choice (log 216). -/
def bindBad (s : State) (d x v : Nat) : Bool :=
  let f := rf s (seqReg d x 0x88) 13 0
  let b := rf s (seqReg d x 0x88) 29 16
  let j := bitsOf v 30 25
  let k := seqCounts (wr s (seqReg d x 0x84) v) d x
  decide (f = b) || (boundTo s f).isSome || (boundTo s b).isSome || !ownsQueue s j f || !ownsQueue s j b ||
  !ownsTm s j (rf s (seqReg d x 0x8C) 12 0) || k.mb = 0 || decide (4096 < k.mb) || !seqReached k

/-- A write of DS_SEQ_CTRL. -/
def seqWrite (s : State) (d x v : Nat) : State :=
  let k := seqReg d x 0x84
  if rb s k 31 then wf s k 31 31 (bitsOf v 31 31)
  else if bitOf v 31 && bindBad s d x v then errSet s (pgSeq d) 8
  else wr s k v

def doSeqEnable (s : State) (d x : Nat) (value : Word32) : State := ownReach s (pgSeq d) (fun s => seqWrite s d x value.toNat)
def execSeqEnable (die ctx : Nat) (value : Word32) (s : State) : Host.Outcome State Fault Refusal := .next (doSeqEnable s die ctx value)

/-! ### Job commands -/

/-- The latest refusal of a job, with BAD_JOB_CMD (R317, R330). -/
def jobRefuse (s : State) (j why : Nat) : State := errSet (wf s (jobCtl j) 11 8 why) pgJob 8

/-- A range of job `j` overlaps one of another existing job (R315, R317). -/
def rangeClash (s : State) (j : Nat) : Bool :=
  ([0x90, 0x94, 0x98, 0x9C] : List Nat).any (fun o =>
    let k := bk (pgJob + o) j
    let a := rf s k 13 0
    let n := rf s k 30 16
    (List.range 64).any (fun i =>
      let m := bk (pgJob + o) i
      decide (i ≠ j) && decide (jobState s i ≠ 0) && decide (0 < n) && decide (0 < rf s m 30 16) &&
      decide (a < rf s m 13 0 + rf s m 30 16) && decide (rf s m 13 0 < a + n)))

/-- PT_ROOT is not a table in fitted memory (R317). -/
def rootBad (s : State) (j : Nat) : Bool :=
  let r := rd64 s (bk (pgJob + 0x88) j)
  decide (r % 2 ^ 16 ≠ 0) || !isHbm s.grade r || !isHbm s.grade (r + 0xFFFF)

/-- Tidemarks and escalation entries of a job at 0 (R317, R318). -/
def jobZero (s : State) (j : Nat) : State :=
  let k := bk (pgJob + 0x94) j
  let lo := rf s k 13 0
  let n := rf s k 30 16
  { s with tms := tfilter (fun t => !(decide (lo ≤ t) && decide (t < lo + n))) s.tms,
           escs := tfilter (fun e => decide (e / 4096 ≠ j)) s.escs, reports := s.reports.filter (fun r => decide (r.job ≠ j)) }

/-- CREATE (R317). -/
def jobCreate (s : State) (j : Nat) (vf : Bool) : State :=
  let s := wf s (jobCtl j) 7 7 (b2n vf)
  if jobState s j ≠ 0 then jobRefuse s j 1
  else if rangeClash s j then jobRefuse s j 2
  else if rootBad s j then jobRefuse s j 3
  else
    let s := (ownedRange s j 0x90).foldl (fun s q => setQ s q { job := BitVec.ofNat 6 j }) s
    let s := (ownedRange s j 0x98).foldl (fun s n => setRing s n { job := BitVec.ofNat 6 j }) s
    wf (jobZero s j) (jobCtl j) 2 0 1

/-- Every stage context of a job with ENABLE 0 (R318). -/
def jobUnbind (s : State) (j : Nat) : State := (stageCtxs s j).foldl (fun s p => wf s (seqReg p.1 p.2 0x84) 31 31 0) s

/-- DESTROY once its valleys are reset (R319). What Estuary holds of the job ends with it: LAST_STEP, early packets (log 39). -/
def jobFree (s : State) (j : Nat) : State :=
  let s := xlatsDrop s j
  let s := { s with estLast := s.estLast.filter (fun e => decide (e.1 / 65536 ≠ j)), early := s.early.filter (fun e => decide (e.job ≠ j)) }
  let s := { s with owners := s.owners.filter (fun e => decide (e.2 ≠ j + 1)), releasing := s.releasing.filter (fun v => !ownsValley s j v) }
  let s := wf (wf s (estReg j 0x88) 31 31 0) (twyReg j 0x8C) 1 0 0
  let s := slControl s j (rd s (slReg j 0x100) % 2 ^ 31)
  let s := ([0x88, 0x8C, 0x90, 0x94, 0x98, 0x9C] : List Nat).foldl (fun s o => wr s (bk (pgJob + o) j) 0) (setRound s j none)
  evtSet (wf (wf s (jobCtl j) 7 7 0) (jobCtl j) 2 0 0) pgJob 8

/-- A job command moves on; the Bool: it is over (R318 to R320). -/
def jobAdvance (s : State) (c : JobCmd) : State × Option JobCmd :=
  let j := c.job
  match c.kind, c.phase with
  | .create vf, _ => (jobCreate s j vf, none)
  | _, 0 =>
    if jobState s j = 0 then (s, none)
    else
      let s := wf s (jobCtl j) 2 0 (if c.kind = .reset then 2 else 3)
      ((ownedRange s j 0x90).foldl queueBreak s, some { c with phase := 1 })
  | _, 1 =>
    if (ownedRange s j 0x90).any (fun q => (getQ s q).resetting) then (s, some c)
    else
      let vs := (ownedValleys s j).filter (fun v => present s (pgValley v))
      (vs.foldl (fun s v => islandReset s (pgValley v)) (jobUnbind s j), some { c with phase := 2, valleys := vs })
  | _, _ =>
    if c.valleys.any (fun v => (blk s (pgValley v)).inReset) then (s, some c)
    else if c.kind = .destroy then (jobFree (jobZero s j) j, none)
    else (wf (slMark (jobZero s j) j) (jobCtl j) 2 0 1, none)

/-- Job commands, one at a time in order of arrival (R320). -/
def jobPump : Nat → State → State
  | 0, s => s
  | n + 1, s =>
    match s.jobCmds with
    | [] => s
    | c :: rest =>
      let r := jobAdvance s c
      match r.2 with
      | none => jobPump n (settle { r.1 with jobCmds := rest } pgJob)
      | some d => if d = c then s else jobPump n { r.1 with jobCmds := d :: rest }

/-- Queue resets whose records are written, and the job commands that wait for them, go on. -/
def resetPump (s : State) : State := let s := queuesSettle s; jobPump (4 * s.jobCmds.length + 4) s

/-- A job command arrives. -/
def jobCommand (s : State) (k : JobKind) (j : Nat) : State :=
  resetPump (settle { s with jobCmds := s.jobCmds ++ [{ kind := k, job := j }] } pgJob)

def doCreate (s : State) (j : Nat) (vf : Bool) : State := ownReach s pgJob (fun s => jobCommand s (.create vf) j)
def execCreate (job : Nat) (vfEn : Bool) (s : State) : Host.Outcome State Fault Refusal := .next (heldBack (.create job vfEn) s (doCreate s job vfEn))

def doDestroy (s : State) (j : Nat) : State := ownReach s pgJob (fun s => jobCommand s .destroy j)
def execDestroy (job : Nat) (s : State) : Host.Outcome State Fault Refusal := .next (heldBack (.destroy job) s (doDestroy s job))

def doJobReset (s : State) (j : Nat) : State := ownReach s pgJob (fun s => jobCommand s .reset j)
def execJobReset (job : Nat) (s : State) : Host.Outcome State Fault Refusal := .next (heldBack (.jobReset job) s (doJobReset s job))

/-- INVAL (R326): the job's translations are gone from every unit. INVAL_BUSY reads 1 while a walk in progress has still to end, which it does
with the block's next idle cycle (log 136). -/
def jobInval (s : State) (j : Nat) (walking : Bool) : State :=
  let s := xlatsDrop s j
  if walking && !s.invalBusy.contains j then { s with invalBusy := s.invalBusy ++ [j] } else s
def doInval (s : State) (j : Nat) (walking : Bool) : State := ownReach s pgJob (fun s => jobInval s j walking)
def execInval (job : Nat) (walkInProgress : Bool) (s : State) : Host.Outcome State Fault Refusal := .next (doInval s job walkInProgress)

/-! ### Valleys of jobs (R316) -/

/-- Descriptors of a COPY that its engine has still to read, as they stand in memory. -/
def copyAhead (s : State) (c : CopyJob) : List Rec :=
  let ws := words64 (vread s (narReq c.job 0) (c.list + 64 * c.next) (64 * (c.count - c.next))).bytes
  (List.range (c.count - c.next)).map (fun i => (ws.drop (8 * i)).take 8)

/-- Valleys that a SNAP's list names, as it stands in memory: those of its entries of KIND 2 (R304). -/
def snapValleys (s : State) (x : SnapJob) : List Nat :=
  match opFind s x.queue x.seq with
  | some o =>
    (match (readList s (twyReq x.job 0) (snList o.cmd)).2 with
     | .ok l => (l.2.filter (fun e => eKind e = 2)).flatMap eValleys
     | .error _ => [])
  | none => []

/-- A COPY names a valley: in a descriptor read or still to be read, or, once it has ended, in one it had in progress, until it leaves its
stream. -/
def copyNames (s : State) (c : CopyJob) (v : Nat) : Bool :=
  if c.ending.isSome then c.names.contains v
  else c.named.contains v || (copyAhead s c).any (fun d => (descValleys d).contains v)

/-- A valley that may not change hands: a task pending or running, or a transfer that names it, in a descriptor read or still to be read
or in a snapshot list (R316). -/
def valleyBound (s : State) (v : Nat) : Bool :=
  slotTaken s v 0 || slotTaken s v 1 ||
  s.streams.any (fun e => e.2.allCopies.any (fun c => copyNames s c v)) ||
  s.snaps.any (fun x => (snapValleys s x).contains v)

/-- ASSIGN. -/
def valleyGive (s : State) (j v : Nat) : State :=
  if jobState s j ≠ 1 then jobRefuse s j 1
  else if tget 0 s.owners v ≠ 0 then jobRefuse s j 5
  else if valleyBound s v then jobRefuse s j 4
  else { s with owners := tput 0 s.owners v (j + 1) }

def doAssign (s : State) (j v : Nat) : State := ownReach s pgJob (fun s => valleyGive s j v)
def execAssign (job valley : Nat) (s : State) : Host.Outcome State Fault Refusal := .next (doAssign s job valley)

/-- RELEASE of a valley: its reset begins, and OWNED reads 0 once it has ended. -/
def valleyTake (s : State) (j v : Nat) : State :=
  if !ownsValley s j v then jobRefuse s j 5
  else if valleyBound s v then jobRefuse s j 4
  else if !present s (pgValley v) then { s with owners := tput 0 s.owners v 0 }
  else islandReset (settle { s with releasing := if s.releasing.contains v then s.releasing else s.releasing ++ [v] } pgJob) (pgValley v)

def doValleyRelease (s : State) (j v : Nat) : State := ownReach s pgJob (fun s => valleyTake s j v)
def execValleyRelease (job valley : Nat) (s : State) : Host.Outcome State Fault Refusal := .next (heldBack (.valleyRelease job valley) s (doValleyRelease s job valley))

/-! ### Completion rings (R219) -/

/-- COMPLETION_WRITE: a written record may end a queue reset (R233). -/
def doCompletionWrite (s : State) (n : Nat) : State := if up s then resetPump (ringWrite s n) else s
def execCompletionWrite (ring : Nat) (s : State) : Host.Outcome State Fault Refusal := .next (heldBack (.completionWrite ring) s (doCompletionWrite s ring))

def doRingFaultRetry (s : State) (fn n : Nat) : State :=
  guarded s fn (rctxAddr n + 0x10) (fun j => ownsRing s j n) (fun s => resetPump (ringRetry s n))
def execRingFaultRetry (fn ring : Nat) (s : State) : Host.Outcome State Fault Refusal := .next (heldBack (.ringFaultRetry fn ring) s (doRingFaultRetry s fn ring))

/-! ### Device reset (R388, R390) -/

/-- Pages of Headland and the power page. -/
def keptPage (k : Nat) : Bool := let n := k % 2 ^ 26 / 0x1000; decide (n < 3) || n = 8

/-- HBM_EPOCH of every fitted stack one further: the base-die islands leave reset (R245). -/
def epochsOn (s t : State) : State :=
  (List.range s.grade.stacks).foldl (fun t h => wf t (pgHbm h + 0xA0) 7 0 (rf s (pgHbm h + 0xA0) 7 0 + 1)) t

/-- The state of everything outside Headland, the power page and the host returned to reset values; `hbm`: HBM keeps its contents. -/
def outsideReset (s : State) (hbm : Bool) : State :=
  takeRole {
    pending := s.pending, grade := s.grade, regs := tfilter keptPage s.regs, latch := s.latch.filter (fun e => keptPage e.2.1),
    cycles := s.cycles, clks := tfilter (fun i => i = islHeadland) s.clks, clkBase := s.cycles, devInit := true, sounded := false,
    devPolicy := s.flash.retireOnFail, hbm := if hbm then s.hbm else [], hbmPoison := if hbm then s.hbmPoison else [],
    hbmUpset := if hbm then s.hbmUpset else [], chans := s.chans, images := s.images, host := s.host, flash := s.flash, hl := s.hl, hostWait := s.hostWait,
    freeCount := s.freeCount, out := s.out }

/-- A device reset: with HBM_PRESERVE the strandline records are marked and written out first (R372, R374). -/
def deviceBreak (s : State) : State :=
  let keep := rb s (pgPwr + 0x98) 0
  let s := if keep then (List.range 64).foldl (fun s j => if slOn s j then slFlush s j else s) s else s
  epochsOn s { outsideReset s keep with hostWait := false }

/-- DEVICE_RESET. -/
def doDeviceReset (s : State) : State := if s.hl.boot = .up then deviceBreak s else s
def execDeviceReset (s : State) : Host.Outcome State Fault Refusal := .next (doDeviceReset s)

/-- A function-level reset (R318, R321): a device reset for the physical function, a job reset for a virtual function; its configuration
space returns to reset values. -/
def doFunctionLevelReset (s : State) (fn : Nat) : State :=
  if s.hl.boot ≠ .up then s
  else if fn = 0 then
    deviceBreak { s with hl := s.hl.cfgReset }
  else
    let exposed := up s && vfUp s (fn - 1)
    let s := { s with hl := { s.hl with busMaster := s.hl.busMaster.filter (· ≠ fn), d3hot := s.hl.d3hot.filter (· ≠ fn) } }
    if exposed then jobCommand s .reset (fn - 1) else s
def execFunctionLevelReset (fn : Nat) (s : State) : Host.Outcome State Fault Refusal := .next (heldBack (.functionLevelReset fn) s (doFunctionLevelReset s fn))

/-- HOT_RESET (R407): the configuration space of every function returns to its reset values. -/
def doHotReset (s : State) : State := { s with hl := s.hl.cfgReset }
def execHotReset (s : State) : Host.Outcome State Fault Refusal := .next (doHotReset s)

/-! ### The end of a reset -/

/-- The passes train and holes kept in flash fault their valleys, as the blocks outside Headland leave reset (R146, R149, R362). -/
def passesUp (s : State) : State :=
  let s := ((s.chans.map (·.1 / 256)).eraseDups).foldl (fun s i => passTrain s i []) s
  ((s.flash.holes.map valleyOf).eraseDups).foldl holesFault s

/-- The device reset ends: every island starts counting, every block outside Headland stands ready (R23, R30, R388). -/
def deviceUp (s : State) : State :=
  passesUp { s with devInit := false, clkBase := s.cycles, regs := s.regs.filter (fun e => keptPage e.1 || decide (e.1 % 0x1000 ≠ 0xC)) }

/-- What a block does on leaving reset, besides its STATE. -/
def leftReset (s : State) (p : Page) : State :=
  let s := match p.kind with
    | .valley =>
      if s.releasing.contains p.inst then
        settle { s with releasing := s.releasing.filter (· ≠ p.inst), owners := tput 0 s.owners p.inst 0 } pgJob else s
    | _ => s
  let s := match p.kind with
    | .passEnd => passTrain s p.inst []
    | .valley => holesFault s p.inst
    | _ => s
  resetPump (catchUp s p)

/-- A steward's firmware is loaded: RELOADS counts, FROM_FLASH and BUILD_ID tell which image (R366, R376). -/
def stewardLoaded (s : State) (pg : Nat) (flash : Bool) : State :=
  let s := incSat s (pg + 0x80) 23 16 1
  let b := leNat (slice s.flash.image 0x10 8)
  let s := if flash then wr64 (wf s (pg + 0x80) 30 30 1) (pg + 0x88) b else s
  let s := evtSet s pg 8
  if flash then logAdd s 0x0050 0xFFFF (pageId pg) 2 b else s

/-- The block of a page leaves init (R31): RESET_REQ clears and STATE takes ready, or low water while the mode lasts. -/
def blockUp (s : State) (p : Page) (pg : Nat) : State :=
  let r := (blk s pg).reload
  let s := setBlk s pg { blk s pg with inReset := false, reload := none }
  let s := setState (wf s (pg + 0x10) 1 1 0) pg (idleState s false)
  let s := match r with | some f => stewardLoaded s pg f | none => s
  leftReset (if ownIsland p then restartClk s (islandOf p) else s) p

/-- RESET_COMPLETE. -/
def doResetComplete (s : State) (pg : Nat) : State :=
  if s.hl.boot ≠ .up then s
  else if s.devInit then
    let s := deviceUp s
    if lowWater s then allPages.foldl (fun s pg => if stateOf s pg = 3 && !keptPage pg then wr s (pg + 0xC) 0x10016 else s) s else s
  else match pageOf pg with
    | some p => if (blk s pg).inReset then blockUp s p pg else s
    | none => s
def execResetComplete (page : Nat) (s : State) : Host.Outcome State Fault Refusal := .next (heldBack (.resetComplete page) s (doResetComplete s page))

end Sys2Proof.Machine
end

