-- ==== Sys2Proof/Machine/Access.lean ====
section
/-! DEFINITION. What a read of a register page delivers (R9, R26, R28, R36 to R39, R43): stored registers, registers that follow the
state, registers that show a selected record; and reads of BAR0 as a whole (R41). -/

namespace Sys2Proof.Machine

/-- The bank a register of a page shows: the job, context or nothing that the page's selection register names (R267, R291, R311, R330). -/
def pageBank (s : State) (p : Page) (pg off : Nat) : Nat :=
  match p.kind with
  | .jobTable =>
    if (decide (0x84 ≤ off) && decide (off < 0xA0)) || (decide (0xB0 ≤ off) && decide (off < 0x130)) then rf s (pg + 0x80) 5 0 else 0
  | .seq => if 0x84 ≤ off then rf s (pg + 0x80) 2 0 else 0
  | .estuary => if off = 0x88 || off = 0x8C || off = 0x90 then rf s (pg + 0x84) 5 0 else 0
  | .tideway =>
    if off = 0x8C || off = 0x90 || (decide (0x98 ≤ off) && decide (off < 0xA8)) then rf s (pg + 0x88) 5 0 else 0
  | _ => 0

/-- The half of a 64-bit value at offset `off` of a register whose low half lies at `lo`. -/
def half (v lo off : Nat) : Nat := if off = lo then v % 2 ^ 32 else v / 2 ^ 32 % 2 ^ 32

/-! ### The running image and the settings -/

/-- BUILD_ID of an image header (R336). -/
def imgBuild (h : List Byte) : Nat := leNat (slice h 0x10 8)
/-- SEC_VERSION of an image header. -/
def imgSec (h : List Byte) : Nat := leNat (slice h 8 4)
/-- BODY_LEN of an image header. -/
def imgBody (h : List Byte) : Nat := leNat (slice h 0xC 4)

/-- STATE of HDL_BOOT_STATUS (R357). A module reset in progress starts the other components; a module held after a loss of REFCLK100 stands
stopped. -/
def bootState : BootSt → Nat
  | .off => 0 | .starting => 2 | .up => 4 | .recovery => 5 | .stopped => 6 | .clockLost => 6

def viewBoot (s : State) : Nat := s.hl.fail % 256 * 256 + bootState s.hl.boot

/-- SVN: the steps blown; a step is blown by either of its two fuses (R334, R335). -/
def Flash.svn (f : Flash) : Nat := (f.svnFuses.filter (fun p => p.1 || p.2)).length

/-- HDL_SVN. -/
def viewSvn (s : State) : Nat := imgSec s.hl.running % 256 * 2 ^ 16 + s.flash.secVersion % 256 * 2 ^ 8 + s.flash.svn % 256

/-- HDL_GRADE_ID. -/
def viewGradeId (s : State) : Nat := rd s (pgGrade + 0x80)

/-- Valleys below grade (R4, R46). -/
def gradeValleys (s : State) : List Nat :=
  (s.flash.coreMap.map (fun (e : Nat × Nat) => e.1 / 256)).eraseDups.filter (belowGrade s)

/-- Registers of the grade page (R45). -/
def viewGrade (s : State) (off : Nat) : Nat :=
  let v := rd s (pgGrade + off)
  match off with
  | 0x084 => v + (gradeValleys s).length * 2 ^ 16
  | 0x08C => if s.hl.boot = .up then v + 4 else v
  | _ => v

/-- Registers of the identity page (R356). -/
def viewIdent (s : State) (off : Nat) : Nat :=
  if off = 0x80 || off = 0x84 then half s.flash.serial.toNat 0x80 off
  else if off = 0x88 || off = 0x8C then half (imgBuild s.hl.running) 0x88 off
  else if off = 0x90 then b2n s.flash.idLock
  else if 0x100 ≤ off && off < 0x130 then leNat (slice s.flash.rsaKeyHash (off - 0x100) 4)
  else if 0x130 ≤ off && off < 0x160 then leNat (slice s.flash.slhKeyHash (off - 0x130) 4)
  else 0

/-- Events of a kind in the window, with those since the last store (R310). -/
def ckptCount (s : State) (k : Nat) : Nat := s.flash.ckptCounts.getD k 0 + s.hl.ckptNow.getD k 0

/-- Registers of the Headland page (R313, R357). -/
def viewHeadland (s : State) (off : Nat) : Nat :=
  if off = 0x80 then viewBoot s
  else if off = 0x84 then viewSvn s
  else if off = 0xC00 then s.flash.ckptCost
  else if off = 0xC04 then s.flash.ckptMax * 2 ^ 16 + s.flash.ckptMin
  else if off = 0xC08 then s.flash.ckptHours % 2 ^ 10 * 2 ^ 16 +
    (if s.flash.ckptHours < 24 || s.flash.ckptCost = 0 then 3600 else rf s (pgHeadland + 0xC08) 15 0)
  else if 0xC10 ≤ off && off < 0xC30 then s.flash.ckptWeights.getD ((off - 0xC10) / 4) 0
  else if 0xC30 ≤ off && off < 0xC50 then min 0xFFFF (ckptCount s ((off - 0xC30) / 4))
  else rd s (pgHeadland + off)

/-! ### Dies and valleys -/

/-- The steward's firmware runs: its heartbeat is current. In the hold the page shows what it showed before (R38, R376). -/
def stewardRuns (s : State) (d : Nat) : Bool := clocked s (pgSteward d) || held s (pgSteward d)

/-- Cores of a die in a list of global core IDs. -/
def ofDie (l : List Nat) (d : Nat) : Nat := (l.filter (fun c => decide (c / 25600 = d))).length

/-- Registers of a die steward (R376). -/
def viewSteward (s : State) (d pg off : Nat) : Nat :=
  match off with
  | 0x080 => b2n (stewardRuns s d) * 2 ^ 31 + rf s (pg + 0x80) 30 16 * 2 ^ 16 + beatShown s d
  | 0x088 | 0x08C => if rb s (pg + 0x80) 30 then rd s (pg + off) else half (imgBuild s.hl.running) 0x88 off
  | 0x0A0 => min 0xFFFF (ofDie s.flash.holes d) * 2 ^ 16 + min 0xFFFF (ofDie s.flash.coresRetired d)
  | _ => rd s (pg + off)

/-- Codes of R167. -/
def SlotSt.code : SlotSt → Nat
  | .empty => 0 | .loaded => 1 | .armed => 2 | .running => 3 | .tail => 4 | .invalid => 5

/-- VLY_SLOT_STATUS (R187): of two slots that run, the one armed first issues. -/
def viewSlots (x : Valley) : Nat :=
  let one := x.slot1.st = .running && (decide (x.slot0.st ≠ .running) || decide (x.slot1.armNo < x.slot0.armNo))
  b2n one * 256 + x.slot1.st.code * 16 + x.slot0.st.code

/-- Registers of a valley (R45, R46, R132, R157, R187). -/
def viewValley (s : State) (v pg off : Nat) : Nat :=
  let x := getV s v
  if off = 0x80 then
    b2n (belowGrade s v) * 2 ^ 24 + (spares s v).length * 2 ^ 16 +
      ((List.range s.grade.enabled).filter (fun n => bitOf (mapEntry s v n) 15)).length
  else if off = 0x100 then viewSlots x
  else if off = 0x108 || off = 0x10C then half x.slot0.handle.toNat 0x108 off
  else if off = 0x110 || off = 0x114 then half x.slot1.handle.toNat 0x110 off
  else if off = 0x120 || off = 0x124 then
    half (tget 0 (x.slot (rf s (pg + 0x118) 12 12)).words (rf s (pg + 0x118) 8 0)).toNat 0x120 off
  else if 0x400 ≤ off && off < 0x800 then mapEntry s v ((off - 0x400) / 4)
  else if off = 0xC20 then (if s.grade.crest then rd s (pg + off) + 1 else 0)
  else if off = 0xD08 then min 0xFFFF (s.sramPoison.filter (fun e => decide (valleyOf (e.1 / 5120) = v))).length
  else if off = 0xD14 then rd s (pg + off) + min 8 (valleyHoles s v).length
  else if 0xD20 ≤ off && off < 0xD40 then
    (match (valleyHoles s v)[(off - 0xD20) / 4]? with | some p => 0x8000 + p | none => 0)
  else rd s (pg + off)

/-! ### Engines and units -/

/-- STREAM_STATUS of a stream (R211): gated where its oldest descriptor not wholly written waits at its gate. -/
def viewStream (x : Stream) : Nat :=
  let st := if x.copies.any (·.cancelling) then 3 else if x.copies.isEmpty then 0
            else match x.ahead.head? with | some d => if d.opened then 1 else 2 | none => 1
  let n := (x.ahead.filter (fun d => decide (0 < d.issued) || !d.staged.isEmpty)).length
  st * 2 ^ 30 + x.epoch.toNat * 2 ^ 16 + min 127 n * 2 ^ 8

/-- Registers of a Flood or Ebb engine (R211). -/
def viewEng (s : State) (e : Eng) (pg off : Nat) : Nat :=
  let x := getStream s e (rf s (pg + 0x80) 11 0)
  if off = 0x84 then viewStream x
  else if off = 0x88 || off = 0x8C then
    (match x.copies.head? with | some c => half (handleOf c.queue c.seq) 0x88 off | none => 0)
  else if off = 0x90 && e.kind = .ebb then 0
  else if off = 0x94 then min 0xFFF (cdiv (engStaging s e) 1024)
  else rd s (pg + off)

/-- Registers of a Berm unit (R259). -/
def viewBerm (s : State) (h pg off : Nat) : Nat :=
  let us := (bermList s h).filter (·.started)
  if off = 0x80 then
    min 15 us.length * 2 ^ 8 + b2n (us.any (fun u => !u.normOk)) * 2 ^ 7 + min 127 (us.map (·.waiting.length)).sum
  else if off = 0x88 || off = 0x8C then
    (match us.head? with | some u => half (handleOf u.queue u.seq) 0x88 off | none => 0)
  else rd s (pg + off)

/-- QM_VALLEY_OWNER (R330). -/
def viewOwner (s : State) : Nat :=
  let o := tget 0 s.owners (rf s (pgJob + 0xA0) 10 0)
  (if o = 0 then 0 else (o - 1) % 64 * 2 ^ 16 + 2 ^ 15) +
    (s.owners.filter (fun e => e.2 = rf s (pgJob + 0x80) 5 0 + 1)).length

/-- Registers of a stall report (R229). -/
def viewStall (s : State) (off : Nat) : Nat :=
  let t : Stall := tget {} s.stalls (rf s (pgQm + 0x80) 5 0)
  let e := t.entries[rf s (pgQm + 0x80) 24 16]?
  match off, e with
  | 0x084, _ => b2n t.valid * 2 ^ 31 + b2n t.truncated * 2 ^ 30 + t.entries.length * 2 ^ 20 + t.trigger
  | 0x0A0, _ => t.missed
  | 0x088, some x => x.tm * 2 ^ 18 + b2n x.stopped * 2 ^ 17 + x.waitKind * 2 ^ 14 + x.queue
  | 0x08C, some x => x.waitedMs
  | 0x090, some x => x.await.toNat % 2 ^ 32
  | 0x094, some x => x.await.toNat / 2 ^ 32
  | 0x098, some x => x.seen.toNat % 2 ^ 32
  | 0x09C, some x => x.seen.toNat / 2 ^ 32
  | _, _ => 0

/-- DS_SEQ_NEXT of a context (R267). -/
def viewNext (s : State) (d x : Nat) : Nat :=
  let k := seqCounts s d x
  b2n (nextIsB k && decide (k.mb ≠ 0)) * 2 ^ 31 + (k.f + k.b) % 2 ^ 13

/-- EST_STATUS (R291). -/
def viewEst (s : State) : Nat := cdiv (earlyBytes s.early) 1024 * 2 ^ 16 + s.ctxs.length

/-- Registers of the Tideway page that follow straps and flash (R293, R311). -/
def viewPair (s : State) : Nat := rd s (pgTwy + 0x80) + s.hl.pairId % 4 * 16

/-- The page at the other end of a pass, where that end is a die's (R42). -/
def passPeer (i : Nat) : Option Nat :=
  let d := i / 4
  match i % 4 with
  | 0 => if d % 4 = 0 then none else some (pgPass (d - 1) 1)
  | 1 => some (pgPass (d + 1) 0)
  | 2 => if d < 4 then none else some (pgPass (d - 4) 3)
  | _ => if 8 ≤ d then none else some (pgPass (d + 4) 2)

/-- LINK_UP of a pass end (R158): both its ends run. -/
def passUp (s : State) (i pg : Nat) : Bool :=
  clocked s pg && (match passPeer i with | some q => clocked s q | none => true)

/-- A register of the block's own (0x080 to 0xFFC) as a read sees it. -/
def viewOwn (s : State) (p : Page) (pg off : Nat) : Nat :=
  match p.kind with
  | .identity => viewIdent s off
  | .grade => viewGrade s off
  | .headland => viewHeadland s off
  | .qm => if off = 0x80 then rd s (pg + off) else viewStall s off
  | .jobTable =>
    if off = 0xA4 then viewOwner s
    else if off = 0x84 then
      rd s (bk (pg + off) (pageBank s p pg off)) + b2n (s.invalBusy.contains (pageBank s p pg off)) * 2 ^ 16
    else rd s (bk (pg + off) (pageBank s p pg off))
  | .seq =>
    if off = 0x98 then viewNext s p.inst (pageBank s p pg off) else rd s (bk (pg + off) (pageBank s p pg off))
  | .steward => viewSteward s p.inst pg off
  | .valley => viewValley s p.inst pg off
  | .flood => viewEng s ⟨.flood, p.inst⟩ pg off
  | .ebb => viewEng s ⟨.ebb, p.inst⟩ pg off
  | .berm => viewBerm s p.inst pg off
  | .estuary => if off = 0x98 then viewEst s else rd s (bk (pg + off) (pageBank s p pg off))
  | .passEnd => if off = 0x80 then rd s (pg + off) % 2 ^ 31 + b2n (passUp s p.inst pg) * 2 ^ 31 else rd s (pg + off)
  | .port =>
    if off = 0x88 || off = 0x8C then half ((s.hl.mac + 2 * p.inst) % 2 ^ 48) 0x88 off else rd s (pg + off)
  | .tideway => if off = 0x80 then viewPair s else rd s (bk (pg + off) (pageBank s p pg off))
  | _ => rd s (bk (pg + off) (pageBank s p pg off))

/-- A 32-bit register at a multiple of 4, as a read sees it (R28, R37, R39). -/
def view (s : State) (p : Page) (pg off : Nat) : Nat :=
  let there := present s pg
  if off = 0x000 || off = 0x004 || off = 0x00C then rd s (pg + off)
  else if !there then 0
  else if off = 0x038 || off = 0x03C then half (localTime s pg) 0x38 off
  else if off < 0x040 then rd s (pg + off)
  else if off < 0x080 then 0
  else if stateOf s pg = 1 then 0
  else if (regSpec p.kind off).isNone then 0
  else viewOwn s p pg off

/-- Low halves of the 64-bit registers whose 32-bit reads latch (R36). -/
def latches (k : PageKind) (off : Nat) : Bool :=
  off = 0x38 ||
  (match k with
   | .identity => [0x80, 0x88]
   | .qm => [0x88, 0x90, 0x98]
   | .jobTable => [0x88, 0xB8, 0xC0, 0x108, 0x118, 0x120, 0x128]
   | .tmCtl => [0x90]
   | .narrows => [0x88, 0x90]
   | .power => [0xA0]
   | .steward => [0x88]
   | .seq => [0x90, 0xA0]
   | .passEnd => [0x88, 0x90]
   | .valley => [0x108, 0x110, 0x120]
   | .hbmCtl => [0x90, 0xA8]
   | .hbmReg => [0x80, 0x88]
   | .berm => [0x88, 0x90, 0x98]
   | .flood | .ebb => [0x88, 0x98, 0xA8]
   | .estuary => [0xA0, 0xA8, 0xB0, 0xB8]
   | .port => [0xA0, 0xA8, 0xB0, 0xB8, 0xC0, 0xC8]
   | .tideway => [0x98, 0xA0, 0xB0]
   | .twyLink => [0x88, 0x90]
   | _ => ([] : List Nat)).contains off ||
  (k = .hbmReg && decide (0x200 ≤ off) && decide (off < 0x600) && decide (off % 8 = 0))

/-- A 32-bit read of a register by a function: its value, and the latch it sets or uses up (R36). -/
def read32 (s : State) (fn : Nat) (p : Page) (pg off : Nat) : State × Nat :=
  let v := view s p pg off
  if latches p.kind off then
    ({ s with latch := s.latch.filter (fun e => decide (e.1 ≠ fn) || decide (e.2.1 ≠ pg + off)) ++
                       [(fn, pg + off, BitVec.ofNat 32 (view s p pg (off + 4)))] }, v)
  else if off % 8 = 4 && latches p.kind (off - 4) then
    match s.latch.find? (fun e => decide (e.1 = fn) && decide (e.2.1 = pg + off - 4)) with
    | some e => ({ s with latch := s.latch.filter (fun e => decide (e.1 ≠ fn) || decide (e.2.1 ≠ pg + off - 4)) }, e.2.2.toNat)
    | none => (s, v)
  else (s, v)

/-- A read of a page by a function (R26): `width` is 8, 16, 32 or 64, a 64-bit read at a multiple of 8. -/
def readPage (s : State) (fn : Nat) (p : Page) (pg off width : Nat) : State × Nat :=
  if width < 32 then (s, view s p pg (off / 4 * 4) / 2 ^ (8 * (off % 4)) % 2 ^ width)
  else if off % 4 ≠ 0 then (s, 0)
  else if width = 32 then read32 s fn p pg off
  else if latches p.kind off then (s, view s p pg off + 2 ^ 32 * view s p pg (off + 4))
  else
    let a := read32 s fn p pg off
    let b := read32 a.1 fn p pg (off + 4)
    (b.1, a.2 + 2 ^ 32 * b.2)

/-- Part of a record of 64-bit words: narrow reads give the addressed bytes, an address that is no multiple of 4 gives 0 (R416). -/
def recordRead (ws : List Nat) (o width : Nat) : Nat :=
  if 32 ≤ width && o % 4 ≠ 0 then 0 else ws.getD (o / 8) 0 / 2 ^ (8 * (o % 8)) % 2 ^ width

/-- A read of BAR0 that one record or register answers. -/
def barRead1 (s : State) (fn a width : Nat) : State × Nat :=
  if 0x10000 ≤ a && a < 0x20000 then
    let n := (a - 0x10000) / 8
    (s, if fnOk s fn (fun j => ownsTm s j n) then tmGet s n / 2 ^ (8 * (a % 8)) % 2 ^ width else 0)
  else if 0x100000 ≤ a && a < 0x200000 then
    let q := (a - 0x100000) / 0x40
    (s, if fnOk s fn (fun j => ownsQueue s j q) then recordRead [(getQ s q).tail.toNat] (a % 0x40) width else 0)
  else if 0x200000 ≤ a && a < 0x300000 then
    let q := (a - 0x200000) / 0x40
    (s, if fnOk s fn (fun j => ownsQueue s j q) then recordRead (queueWords s q) (a % 0x40) width else 0)
  else if 0x300000 ≤ a && a < 0x310000 then
    let n := (a - 0x300000) / 0x20
    (s, if fnOk s fn (fun j => ownsRing s j n) then recordRead (ringWords s n) (a % 0x20) width else 0)
  else match pageOf a with
    | some p => if fn = 0 then readPage s fn p (a / 0x1000 * 0x1000) (a % 0x1000) width else (s, 0)
    | none => (s, 0)

/-- A read of BAR0 by a function (R41, R43): records to their owners and the physical function, pages to the physical function. A
64-bit read at a multiple of 4 but not of 8 is two reads in ascending order (R26, R416). -/
def barRead (s : State) (fn a width : Nat) : State × Nat :=
  if width = 64 && a % 8 = 4 then
    let x := barRead1 s fn a 32
    let y := barRead1 x.1 fn (a + 4) 32
    (y.1, x.2 + 2 ^ 32 * y.2)
  else barRead1 s fn a width

/-- A read of a page of BAR0 at an offset: LOCAL_TIME with its latch, and every other register. -/
def doLocalTimeRead (s : State) (fn page off width : Nat) : State := answer s fn (barRead s fn (page + off) width)
def execLocalTimeRead (fn page off width : Nat) (s : State) : Host.Outcome State Fault Refusal := .next (doLocalTimeRead s fn page off width)

end Sys2Proof.Machine
end

