-- ==== Sys2Proof/Machine/Transcend.lean ====
section
/-! DEFINITION. The functions of R113 and R124 by what the manual binds of them: the exact result, computed in fixed point far beyond FP32,
and a fixed mapping that lies within 2 units in the last place of it, 1 for rsqrt, and is otherwise free (log 10). -/

namespace Sys2Proof.Machine

/-- Fractional bits of the fixed-point arithmetic. -/
def fxBits : Nat := 512

/-- 1.0 in fixed point. -/
def fxOne : Int := (2 ^ fxBits : Nat)

def fxMul (a b : Int) : Int := a * b / fxOne
def fxDiv (a b : Int) : Int := a * fxOne / b

/-- A finite FP32 value in fixed point, held within ±lim, beyond which the function no longer changes in FP32. -/
def fxOf (lim : Nat) (x : Word32) : Int :=
  match f32 x with
  | .fin s m e =>
    let a : Nat := m * 2 ^ (e + fxBits).toNat
    sgn s (min a (lim * 2 ^ fxBits))
  | .inf s => sgn s (lim * 2 ^ fxBits)
  | .nan => 0

/-- The sum of a series whose next term follows from the last one and its number. -/
def fxSeries (next : Nat → Int → Int) : Nat → Nat → Int → Int
  | 0, _, _ => 0
  | k + 1, n, t => t + fxSeries next k (n + 1) (next (n + 1) t)

/-- e^x for x ≥ 0: the series at x / 256, squared eight times. -/
def fxExpUp (x : Int) : Int :=
  let y := fxSeries (fun n t => fxMul t (x / 256) / (n : Int)) 110 0 fxOne
  (List.range 8).foldl (fun a _ => fxMul a a) y

/-- e^x. -/
def fxExp (x : Int) : Int := if x < 0 then fxDiv fxOne (fxExpUp (-x)) else fxExpUp x

/-- arctan(1/n) in fixed point. -/
def fxArctan (n : Int) : Int :=
  (List.range 260).foldl (fun a k => a + (if k % 2 = 0 then 1 else -1) * (fxOne / (n ^ (2 * k + 1) * (2 * k + 1 : Nat)))) 0

/-- π, by Machin's formula. -/
def fxPi : Int := 16 * fxArctan 5 - 4 * fxArctan 239

/-- The square root of a positive fixed-point number. -/
def fxSqrt (x : Int) : Int := (isqrtLoop (x.toNat * 2 ^ fxBits) (fxBits + 8) 0 : Nat)

/-- The standard normal density. -/
def fxDensity (x : Int) : Int := fxDiv (fxExp (-(fxMul x x / 2))) (fxSqrt (2 * fxPi))

/-- The standard normal distribution Φ(x) = (1 + erf(x / √2)) / 2. -/
def fxNormal (x : Int) : Int :=
  fxOne / 2 + fxMul (fxDensity x) (fxSeries (fun n t => fxMul t (fxMul x x) / ((2 * n + 1 : Nat) : Int)) 900 0 x)

/-- The logistic function. -/
def fxSigmoid (x : Int) : Int :=
  let c : Int := 200 * fxOne
  fxDiv fxOne (fxOne + fxExp (-(max (-c) (min c x))))

/-- √(2/π). -/
def fxRoot : Int := fxSqrt (fxDiv (2 * fxOne) fxPi)

/-- Twice the argument of tanh in the tanh form of GELU. -/
def fxInner (x : Int) : Int := 2 * fxMul fxRoot (x + fxMul (fxMul x x) x * 44715 / 1000000)

/-- The exact result of each function of R111, R112 and R125, in fixed point. -/
def fxFn (f : Config.Fn) (w : Word32) : Int :=
  let x := fxOf (2 ^ 130) w
  match f with
  | .geluErf => let y := fxOf 16 w; fxMul (if x < 0 then y else x) (fxNormal y)
  | .geluTanh => fxMul x (fxSigmoid (fxInner (fxOf 64 w)))
  | .silu => fxMul x (fxSigmoid x)
  | .sigmoid => fxSigmoid x
  | .tanh => let e := fxExp (-2 * (fxOf 100 w).natAbs); (if x < 0 then -1 else 1) * fxDiv (fxOne - e) (fxOne + e)
  | .dGeluErf => let y := fxOf 16 w; fxNormal y + fxMul y (fxDensity y)
  | .dGeluTanh =>
    let y := fxOf 64 w
    let k := fxSigmoid (fxInner y)
    let slope := 2 * fxMul fxRoot (fxOne + fxMul y y * 134145 / 1000000)
    k + fxMul (fxMul y (fxMul k (fxOne - k))) slope
  | .dSilu => let y := fxOf 300 w; let k := fxSigmoid y; fxMul k (fxOne + fxMul y (fxOne - k))
  | .dSigmoid => let k := fxSigmoid x; fxMul k (fxSigmoid (-x))
  | .dTanh => let e := fxExp (-2 * (fxOf 100 w).natAbs); fxDiv (4 * e) (fxMul (fxOne + e) (fxOne + e))
  | .exp => fxExp (fxOf 200 w)

/-- The place of an FP32 magnitude of `k` codes above (below, where negative) zero, in units of 2^-fxBits. -/
def fxCode (k : Int) : Int :=
  match decodeNum .fp32 k.natAbs with
  | .fin _ m e => (if k < 0 then -1 else 1) * ((m * 2 ^ (e + fxBits).toNat : Nat) : Int)
  | _ => 0

/-- The unit in the last place of an FP32 result of exact magnitude `a`. -/
def fxUlp (a : Nat) : Nat := if a = 0 then 2 ^ (fxBits - 149) else 2 ^ (max (Nat.log2 a - 23) (fxBits - 149))

/-- An FP32 result at most `lim` units in the last place away from the exact value `a`: `choice` moves it from the nearest one by up to
`lim` codes where that stays within the bound, and gives a zero its sign. -/
def fxPick (lim choice : Nat) (a : Int) : Word32 :=
  let near := nearMag .fp32 a.natAbs (-(fxBits : Int))
  if 0x7F7FFFFF < near then toF32 (.inf (decide (a < 0)))
  else
    let k : Int := if a < 0 then -(near : Int) else near
    let d : Int := (choice % (2 * lim + 1) : Nat) - (lim : Int)
    let c := k + d
    let ok := decide (c.natAbs ≤ 0x7F7FFFFF) && decide ((fxCode c - a).natAbs ≤ lim * fxUlp a.natAbs)
    let r := if ok then c else k
    let neg := if r = 0 then decide (choice / (2 * lim + 1) % 2 = 1) else decide (r < 0)
    BitVec.ofNat 32 (withSign .fp32 neg r.natAbs)

/-- A function of R113 at a finite input. -/
def fnFinite (f : Config.Fn) (x : Word32) : Word32 := fxPick 2 (Config.fnChoice f x) (fxFn f x)

/-- rsqrt at a positive finite input m * 2^e (R124). -/
def rsqrtFinite (x : Word32) (m : Nat) (e : Int) : Word32 :=
  let odd : Nat := (e % 2).toNat
  let r := isqrtLoop (2 ^ 256 / (m * 2 ^ odd)) 130 0
  let sh : Int := -((e - odd) / 2) - 128 + fxBits
  fxPick 1 (Config.rsqrtChoice x) (((r * 2 ^ sh.toNat : Nat) : Int) / ((2 ^ (-sh).toNat : Nat) : Int))

end Sys2Proof.Machine
end

