-- ==== Sys2Proof/Machine/DrainPath.lean ====
section
/-! DEFINITION. The drain path (R108 to R120): scale and bias, activations and derivatives, dropout, mask planes, conversion, writes and
hand-off; the generators of stochastic rounding and dropout (R66, R114). -/

namespace Sys2Proof.Machine

/-! ### Generators -/

/-- One step of a generator (R66). -/
def genStep (x : Word64) : Word64 :=
  let x := x ^^^ (x <<< 13)
  let x := x ^^^ (x >>> 7)
  x ^^^ (x <<< 17)

/-- A generator: its state and the draws left of its latest step. -/
structure Gen where
  x    : Word64
  left : List Nat

/-- The next 16-bit draw (R66). -/
def Gen.draw (g : Gen) : Gen × Nat :=
  match g.left with
  | a :: r => ({ g with left := r }, a)
  | [] => let y := genStep g.x; (⟨y, [fld y 31 16, fld y 47 32, fld y 63 48]⟩, fld y 15 0)

/-- `n` draws in order. -/
def Gen.draws (g : Gen) (n : Nat) : Gen × List Nat :=
  (List.range n).foldl (fun (a : Gen × List Nat) _ => let d := a.1.draw; (d.1, a.2 ++ [d.2])) (g, [])

/-! ### Stages 1 to 3 -/

/-- The scale C of R109, and whether it saturated. -/
def scaleC (m : Image) : Word32 × Bool :=
  let mulSat := fun (a : Word32 × Bool) (b : Word32) => let r := toF32Sat ((f32 a.1).mul (f32 b)); (r.1, a.2 || r.2)
  let a : Word32 × Bool := (f32One, false)
  let a := if is8 (iFmtA m) then (iF32 m 2 0, false) else a
  let a := if is8 (iFmtB m) then (if is8 (iFmtA m) then mulSat a (iF32 m 2 32) else (iF32 m 2 32, false)) else a
  if is8 (iFmtA m) || is8 (iFmtB m) then mulSat a (iF32 m 3 0) else (iF32 m 3 0, false)

/-- Limits of a function of R113 at the infinities. -/
def fnLimit (f : Config.Fn) (neg : Bool) : Word32 :=
  match f with
  | .geluErf | .geluTanh | .silu => if neg then f32Zero else f32PosInf
  | .sigmoid => if neg then f32Zero else f32One
  | .tanh => if neg then 0xBF800000 else f32One
  | .dGeluErf | .dGeluTanh | .dSilu => if neg then f32Zero else f32One
  | .dSigmoid | .dTanh => f32Zero
  | .exp => if neg then f32Zero else f32PosInf

/-- A function of R113: the canonical NaN, a limit, or the fixed mapping. -/
def fnApply (f : Config.Fn) (x : Word32) : Word32 :=
  match f32 x with
  | .nan => f32Nan
  | .inf n => fnLimit f n
  | .fin _ _ _ => fnFinite f x

/-- A value and whether some step of it saturated. -/
abbrev Sat32 := Word32 × Bool

/-- Multiplication with one rounding, saturating where finite factors overflow (R116). -/
def mulFlag (a b : Word32) : Sat32 := toF32Sat ((f32 a).mul (f32 b))

/-- ACT of R111. -/
def actApply (act : Nat) (alpha v : Word32) : Sat32 :=
  let pos := flt f32Zero v
  if f32 v = .nan then (f32Nan, false)
  else if act = 1 then (if pos then v else f32Zero, false)
  else if act = 2 then (if pos then (v, false) else mulFlag v alpha)
  else if act = 3 then (fnApply .geluErf v, false)
  else if act = 4 then (fnApply .geluTanh v, false)
  else if act = 5 then (fnApply .silu v, false)
  else if act = 6 then (fnApply .sigmoid v, false)
  else if act = 7 then (fnApply .tanh v, false)
  else (v, false)

/-- DERIV of R112 on gradient `g`: `on` the mask bit, `x` the pre-activation. -/
def derivApply (der : Nat) (alpha g : Word32) (on : Bool) (x : Word32) : Sat32 :=
  if der = 1 then (if on then g else if isFinite32 g then f32Zero else f32Nan, false)
  else if der = 2 then (if on then (g, false) else mulFlag g alpha)
  else if der = 3 then mulFlag g (fnApply .dGeluErf x)
  else if der = 4 then mulFlag g (fnApply .dGeluTanh x)
  else if der = 5 then mulFlag g (fnApply .dSilu x)
  else if der = 6 then mulFlag g (fnApply .dSigmoid x)
  else if der = 7 then mulFlag g (fnApply .dTanh x)
  else (g, false)

/-- What a value is given on its way: accumulator, bias, side element, mask bit. -/
structure DrainIn where
  acc  : Word32
  bias : Word32
  side : Word32
  on   : Bool

/-- What leaves stage 3: the value, its mask bit, whether it saturated, the dropout generator. -/
structure DrainOut where
  val : Word32
  bit : Bool
  sat : Bool
  gen : Gen

/-- Stages 1 to 3 on one value (R109 to R116). -/
def drainValue (m : Image) (c : Word32) (g : Gen) (x : DrainIn) : DrainOut :=
  let v1 := toF32Sat (((f32 x.acc).mul (f32 c)).add (f32 x.bias))
  let v2 := if iDeriv m ≠ 0 then derivApply (iDeriv m) (iF32 m 3 32) v1.1 x.on x.side else actApply (iAct m) (iF32 m 3 32) v1.1
  let pos := flt f32Zero v1.1
  if iDropEn m then
    let d := g.draw
    let kept := decide (iDropP m ≤ d.2)
    let v3 := if kept then mulFlag v2.1 (iF32 m 5 0) else (f32Zero, false)
    { val := v3.1, sat := v1.2 || v2.2 || v3.2, gen := d.1,
      bit := if iMaskEmit m = 1 then pos else if iMaskEmit m = 2 then kept else pos && kept }
  else { val := v2.1, sat := v1.2 || v2.2, gen := g, bit := pos }

/-! ### Places beside the result (R110, R115, R417) -/

/-- Address of bytes of one word of a core, checked: the state, the bytes, and whether the word is poisoned. -/
def coreRead (s : State) (core a n : Nat) : Got := sramLoad s core a n

/-- Address of element `e` of row `r` of a tensor with `k` elements of `w` bytes a segment. -/
def elemAddr (base nseg k w r e : Nat) : Nat := skewAddr base nseg r (e / k) + e % k * w

/-- Address of the byte of the mask plane with the bits of elements `e` to `e + 7`. -/
def maskAddr (m : Image) (r e : Nat) : Nat := skewAddr (cf m 11 35 18) (besideSegs m 256) r (e / 256) + e % 256 / 8

/-- Address of element `e` of row `r` of the side tensor. -/
def sideAddr (m : Image) (r e : Nat) : Nat :=
  let f := sideFmt (iSideFmt m)
  elemAddr (cf m 11 17 0) (besideSegs m (segElems f)) (segElems f) (elemBytes f) r e

/-- Elements of SIDE_FMT widened to FP32. -/
def sideElems (m : Image) (bytes : List Byte) : List Word32 :=
  let f := sideFmt (iSideFmt m)
  (List.range (bytes.length / elemBytes f)).map (fun i => widen (pubFmt f) (leNat (slice bytes (i * elemBytes f) (elemBytes f))))

/-- The inputs a drain row reads beside its accumulators: state, poisoned or not, bias, side elements, mask byte. -/
structure RowIn where
  s    : State
  bad  : Bool
  bias : List Word32
  side : List Word32
  mask : Nat

/-- Reads of result row `r`, elements `e` to `e + 7`. -/
def rowInputs (s : State) (core : Nat) (m : Image) (r e : Nat) : RowIn :=
  let w := elemBytes (sideFmt (iSideFmt m))
  let b :=
    if iBiasSrc m = 1 then coreRead s core (cf m 11 17 0 + e * w) (8 * w)
    else if iBiasSrc m = 2 then coreRead s core (cf m 11 17 0 + r * w) w
    else if iBiasSrc m = 3 then coreRead s core (sideAddr m r e) (8 * w)
    else ⟨s, [], []⟩
  let x := if 3 ≤ iDeriv m && iDeriv m ≤ 7 then coreRead b.s core (sideAddr m r e) (8 * w) else ⟨b.s, [], []⟩
  let k := if iDeriv m = 1 || iDeriv m = 2 then coreRead x.s core (maskAddr m r e) 1 else ⟨x.s, [0], []⟩
  let el := sideElems m b.bytes
  { s := k.s, bad := b.bad.any id || x.bad.any id || k.bad.any id, mask := leNat k.bytes, side := sideElems m x.bytes,
    bias := if iBiasSrc m = 1 || iBiasSrc m = 3 then el else if iBiasSrc m = 2 then List.replicate 8 (el.headD f32Zero)
            else List.replicate 8 f32Zero }

/-! ### Stages 4 and 5 -/

/-- An element of a published output format, with a draw under stochastic rounding (R117). -/
def convert (f : Nat) (draw : Option Nat) (v : Word32) : Nat :=
  if f = fF32 then v.toNat
  else match draw with
    | some d => roundStoch (pubFmt f) d (f32 v)
    | none => roundNum (pubFmt f) (f32 v)

/-- Bytes of a word stored where `keep` is false, the others left: whole words at once, others merged (R96, R135). The Bool: stored. -/
def wordPut (s : State) (core a : Nat) (bytes : List (Option Byte)) : State × Bool :=
  if bytes.all (·.isNone) then (s, true)
  else
    let w := a / 32
    let at' := fun (i : Nat) => if i < a % 32 then none else (bytes[i - a % 32]?).join
    if (List.range 32).all (fun i => (at' i).isSome) then (sramWrite s core w ((List.range 32).map (fun i => (at' i).getD 0)) false, true)
    else
      let g := sramRead s core w true
      if g.bad.any id then (errSet g.s (pgValley (valleyOf core)) 9, false)
      else (sramWrite g.s core w ((List.range 32).map (fun i => (at' i).getD (g.bytes.getD i 0))) false, true)

/-- Bits of a mask-plane byte stored for the active positions (R115, R135). -/
def maskPut (s : State) (core a active bits : Nat) : State × Bool :=
  let g := sramRead s core (a / 32) true
  if g.bad.any id then (errSet g.s (pgValley (valleyOf core)) 9, false)
  else
    let old := (g.bytes.getD (a % 32) 0).toNat
    let new := (old &&& (255 - active)) ||| (bits &&& active)
    (sramWrite g.s core (a / 32) (listSet g.bytes (a % 32) (BitVec.ofNat 8 new)) false, true)

/-- A write of a task that met a poisoned word: the task completes as ABORTED_ECC (R135). -/
def needStored (r : State × Bool) (v l : Nat) : State := if r.2 then r.1 else taskStop r.1 v l { status := stEcc }

/-- A task has written a byte of its outputs (R206). -/
def markWritten (s : State) (v l : Nat) : State := taskMod s v l (fun t => { t with partialOut := true })

/-- Bytes of a task stored in a core's SRAM (R135, R206). -/
def taskStore (s : State) (v l core a : Nat) (bytes : List Byte) : State :=
  let q := sramStore s core a bytes
  needStored (if 0 < q.2 then markWritten q.1 v l else q.1, decide (q.2 = bytes.length)) v l

/-- A unit is handed to an Ebb stream (R119, R198). The hand-off counts as its write (R222), but for a unit that the stream will refuse
(R199, R206). -/
def handOff (s : State) (v n l : Nat) (m : Image) (tile : Option Nat) (row elem size2 : Nat) (data : List (Option Byte)) (header : Option Nat) : State :=
  match taskOf s v l with
  | none => s
  | some t =>
    let u : HandUnit := { tile := tile, valley := v, core := n, lslot := l, stack := iEbbStack m, stream := iEbbStream m, row := row, elem := elem,
                          size2 := size2, data := data, header := header, queue := t.queue, seq := t.seq }
    let stray := (handDesc s u.stack u.stream).any (fun d => !handOk d.d u)
    let s := { s with handoffs := s.handoffs ++ [u] }
    if stray then s else markWritten s v l

/-- Where converted rows of a task go: its tensor, the element number a hand-off carries for element 0 of the core, the tile they come
from. -/
structure Dest where
  t    : Tensor
  base : Nat
  tile : Option Nat

/-- A converted row of up to eight elements written, or handed off (R119). -/
def putRow (s : State) (v n l core : Nat) (m : Image) (d : Dest) (row elem : Nat) (codes : List (Option Nat)) : State :=
  let f := outFmt (iOutFmt m)
  let w := elemBytes f
  let bytes := codes.flatMap (fun c => match c with
    | some x => (leBytes w x).map some
    | none => List.replicate w none)
  if bytes.all (·.isNone) then s
  else if iHandOff m then handOff s v n l m d.tile row (d.base + elem) (2 * w) bytes none
  else
    let r := wordPut s core (elemAddr d.t.base d.t.nseg (segElems f) w row elem) bytes
    needStored (if r.2 then markWritten r.1 v l else r.1, r.2) v l

/-- A quantised PJ4 block of a row written with its header, or handed off; it counts in the sums of R69. -/
def putBlock (s : State) (v n l core : Nat) (d : Dest) (m : Image) (row elem : Nat) (b : Pj4Block) : State :=
  let s := taskMod s v l (fun t => { t with clipSum := t.clipSum + hdrCount b.header, elemSum := t.elemSum + 64 })
  let data := packNibbles b.codes
  if iHandOff m then handOff s v n l m d.tile row (d.base + elem) 1 (data.map some) (some b.header)
  else
    let k := skew d.t.nseg row (elem / 64)
    let s := sramWrite s core (d.t.base / 32 + k) data false
    taskStore s v l core (d.t.hdr + 2 * k) (leBytes 2 b.header)

/-- 64 values quantised with the core's draws (R62, R66, R118): positions from PJ4_VALID on are +0.0 first. -/
def quantRow (m : Image) (g : Gen) (xs : List Word32) : Gen × Pj4Block :=
  let ys := (List.range 64).map (fun i => if i < iPj4Valid m then xs.getD i f32Zero else f32Zero)
  let d := if iRound m then g.draws 64 else (g, [])
  (d.1, quantisePj4 ys d.2)

/-- The rounding generator of a core, and its store. -/
def Core.gen (x : Core) : Gen := ⟨x.rnd, x.rndLeft⟩
def Core.setGen (x : Core) (g : Gen) : Core := { x with rnd := g.x, rndLeft := g.left }
def Core.dropGen (x : Core) : Gen := ⟨x.drp, x.drpLeft⟩
def Core.setDropGen (x : Core) (g : Gen) : Core := { x with drp := g.x, drpLeft := g.left }

/-- A row of up to eight values converted with the core's draws, for active values in order, and written (R66, R117). -/
def storeRow (s : State) (v n l core : Nat) (m : Image) (d : Dest) (row elem : Nat) (vals : List (Option Word32)) : State :=
  let r := vals.foldl (fun (a : Gen × List (Option Nat)) x => match x with
    | none => (a.1, a.2 ++ [none])
    | some y =>
      if iRound m then let k := a.1.draw; (k.1, a.2 ++ [some (convert (outFmt (iOutFmt m)) (some k.2) y)])
      else (a.1, a.2 ++ [some (convert (outFmt (iOutFmt m)) none y)])) ((getCore s core).gen, [])
  putRow (setCore s core ((getCore s core).setGen r.1)) v n l core m d row elem r.2

/-! ### DRAIN -/

/-- Flags a drain reports in the valley page (R106, R132), and to its task. -/
def drainFlags (s : State) (v n l tile flags : Nat) (rowTask : Bool) : State :=
  if flags = 0 then s
  else
    let pg := pgValley v
    let s := wr s (pg + 0xC00) (flOr (rd s (pg + 0xC00)) flags)
    let s := if rb s (pg + 0xC04) 31 then s
      else wr s (pg + 0xC04) (2 ^ 31 + flags * 2 ^ 28 + tile * 2 ^ 16 + b2n rowTask * 2 ^ 15 + n)
    taskMod s v l (fun t => { t with flags := flOr t.flags flags })

/-- What a drain has done so far: the state, the values that left stage 3 by row, saturation and non-finite values. -/
structure DrainRun where
  s    : State
  rows : List (List Word32) := []
  sat  : Bool := false
  nf   : Bool := false
  ecc  : Bool := false

/-- One row of a drain (R108). -/
def drainRow (x : DrainRun) (v n l core : Nat) (m : Image) (p : Pass) (t : Tile) (i : Nat) : DrainRun :=
  if !bitOf p.chain.rmask i then { x with rows := x.rows ++ [[]] }
  else
    let o := p.result
    let c := scaleC m
    let a := rowInputs x.s core m (o.1 + i) o.2
    let r := (List.range 8).foldl (fun (y : Gen × List (Option DrainOut)) j =>
      if bitOf p.chain.cmask j then
        let d := drainValue m c.1 y.1 ⟨tget f32Zero t.acc (8 * i + j), a.bias.getD j f32Zero, a.side.getD j f32Zero, bitOf a.mask j⟩
        (d.gen, y.2 ++ [some d])
      else (y.1, y.2 ++ [none])) ((getCore a.s core).dropGen, [])
    let s := setCore a.s core ((getCore a.s core).setDropGen r.1)
    let outs := r.2.filterMap id
    let sat := x.sat || c.2 || outs.any (·.sat)
    let nf := x.nf || outs.any (fun d => !isFinite32 d.val)
    if a.bad then { x with s := s, rows := x.rows ++ [[]], sat := sat, nf := nf, ecc := true }
    else
      let bits := (List.range 8).foldl (fun b j => match (r.2[j]?).join with | some d => b + b2n d.bit * 2 ^ j | none => b) 0
      let mk := if iMaskEmit m = 0 then (s, true) else maskPut s core (maskAddr m (o.1 + i) o.2) p.chain.cmask bits
      let s := if iMaskEmit m ≠ 0 && mk.2 then markWritten mk.1 v l else mk.1
      let s := if iOutFmt m = 5 then s
        else storeRow s v n l core m ⟨iTensor m 10, 0, some p.tile⟩ (o.1 + i) o.2 (r.2.map (fun d => d.map (·.val)))
      { s := s, rows := x.rows ++ [r.2.map (fun d => match d with | some y => y.val | none => f32Zero)], sat := sat, nf := nf,
        ecc := x.ecc || !mk.2 }

/-- The rows of a whole PJ4 group: row `i` of each of its drains, in order (R118). -/
def groupRow (drains : List (List (List Word32))) (i : Nat) : List Word32 := drains.flatMap (fun d => d.getD i [])

/-- A drain into a PJ4 output joins the open group; the eighth quantises its rows (R118). -/
def groupDrain (s : State) (v n l core : Nat) (m : Image) (p : Pass) (before : List (List (List Word32)))
    (rows : List (List Word32)) : State :=
  let x := getCore s core
  let all := before ++ [rows]
  let live := match taskOf s v l with | some t => t.ending.isNone | none => false
  if all.length < 8 then (if live then setCore s core { x with group := some ⟨l, all⟩ } else s)
  else
    let o := p.result
    (List.range 8).foldl (fun s i =>
      if bitOf p.chain.rmask i && decide ((groupRow all i).length = 64) then
        let r := quantRow m (getCore s core).gen (groupRow all i)
        putBlock (setCore s core ((getCore s core).setGen r.1)) v n l core ⟨iTensor m 10, 0, some p.tile⟩ m (o.1 + i) (o.2 / 64 * 64) r.2
      else s) (setCore s core { x with group := none })

/-- The stream a task hands off to takes a unit now: its MODE 1 descriptor in progress has units left beyond those on their way (R198,
R199). -/
def streamTakes (s : State) (m : Image) : Bool :=
  decide ((unitsFor s (iEbbStack m) (iEbbStream m)).length < unitsLeft s (iEbbStack m) (iEbbStream m))

/-- A task has drained all it will on a core: leftover draws are discarded, and a task that waited for its seeds takes them (R66). -/
def lastDrain (s : State) (v n l : Nat) : State :=
  let y := (getV s v).slot l
  match y.task with
  | some t =>
    if (t.run n).drained = coreDrains y.words n then drawsLeave s v l n else s
  | none => s

/-- The drains of the open PJ4 group of a slot on a core (R118). -/
def openGroup (s : State) (core l : Nat) : List (List (List Word32)) :=
  match (getCore s core).group with | some g => if g.lslot = l then g.drains else [] | none => []

/-- A drain hands units off: one into a PJ4 output with the eighth of its group only (R118, R199). -/
def drainHands (s : State) (core l : Nat) (m : Image) : Bool :=
  iHandOff m && (decide (iOutFmt m ≠ 5) || decide ((openGroup s core l).length = 7))

/-- A drain of tile `t` by pass `p`, to the row before the first accumulator that fails parity (R98). -/
def drainTile (s : State) (v n l core : Nat) (m : Image) (p : Pass) (parity : List Nat) : State :=
  let t := (getCore s core).tile p.tile
  let before := openGroup s core l
  let upto := parity.foldl (fun a k => if k < 64 then min a (k / 8) else a) 8
  let r := (List.range upto).foldl (fun x i => drainRow x v n l core m p t i) { s := s }
  let act := (List.range 64).filter (fun k => decide (k / 8 < upto) && bitOf p.chain.rmask (k / 8) && bitOf p.chain.cmask (k % 8))
  let flags := b2n (r.sat || act.any (bit t.sat)) * flSat + b2n (r.nf || act.any (bit t.nonfin)) * flNonfinite +
               b2n t.longSum * flLongSum
  let s := drainFlags r.s v n l p.tile flags false
  let rows := r.rows ++ List.replicate (8 - upto) []
  let s := if iOutFmt m = 5 then groupDrain s v n l core m p before rows else s
  let s := taskMod s v l (fun t => t.setRun n { t.run n with drained := (t.run n).drained + 1 })
  let s := lastDrain s v n l
  if upto < 8 then taskStop (errSet s (pgValley v) 1) v l { status := stEcc }
  else if r.ecc then taskStop s v l { status := stEcc } else s

/-- DRAIN (R86, R108): the oldest pending drain of a core; one that hands off waits for its stream (R199). -/
def doDrain (s : State) (v n : Nat) (parity : List Nat) : State :=
  match logical s v n with
  | none => s
  | some core =>
    match (getCore s core).toDrain with
    | [] => s
    | (l, k) :: rest =>
      let m := ((getV s v).slot l).words
      match passAt m n k with
      | some p =>
        if !coresRun s v || (drainHands s core l m && !streamTakes s m) then s
        else
          let s := seedCore s v l n
          drainTile (setCore s core { getCore s core with toDrain := rest }) v n l core m p parity
      | none => s
def execDrain (v c : Nat) (parity : List Nat) (s : State) : Host.Outcome State Fault Refusal := .next (doDrain s v c parity)

/-! ### HANDOFF_TIMEOUT (R199) -/

/-- Units of a core that wait for their stream. -/
def coreStuck (s : State) (v n : Nat) : List HandUnit :=
  s.handoffs.filter (fun u => decide (u.valley = v) && decide (u.core = n) && unitStuck s u)

/-- The task that hands a unit off runs on. -/
def unitLive (s : State) (u : HandUnit) : Bool :=
  (taskOf s u.valley u.lslot).any (fun t => decide (t.queue = u.queue) && decide (t.seq = u.seq) && t.ending.isNone)

/-- The slot of a core whose drain, or row task, or unit of a drain, waits to hand off. -/
def handWaits (s : State) (v n : Nat) : Option Nat :=
  match logical s v n, (coreStuck s v n).find? (unitLive s) with
  | none, _ => none
  | some _, some u => some u.lslot
  | some core, none =>
    match (getCore s core).toDrain with
    | (l, _) :: _ => if drainHands s core l ((getV s v).slot l).words && !streamTakes s ((getV s v).slot l).words then some l else none
    | [] =>
      ([0, 1] : List Nat).find? (fun l =>
        let y := (getV s v).slot l
        match y.task with
        | some t => decide (iKind y.words = 2) && iHandOff y.words && !streamTakes s y.words && t.ending.isNone && !t.applied &&
                    decide (rOp y.words ≠ 7) && t.cores.contains n && t.cores.all (fun k => (t.run k).on)
        | none => false)

/-- The error bit of a hand-off that timed out, at its engine. -/
def handErr (s : State) (stack : Nat) : State :=
  let pg := pgEng ⟨.ebb, stack⟩
  if present s pg then errSet s pg 11 else s

/-- HANDOFF_TIMEOUT: the task aborts with FAULT_KIND 3. DESIGN CHOICE (log 211): the core's waiting units, a task's that has ended already
among them, are not handed off. -/
def doHandoffTimeout (s : State) (v n : Nat) : State :=
  if !up s then s
  else
    let us := coreStuck s v n
    let gone := us.foldl (fun s u => handErr s u.stack) { s with handoffs := s.handoffs.filter (fun u => !us.contains u) }
    match handWaits s v n with
    | some l => taskStop (handErr gone (iEbbStack ((getV s v).slot l).words)) v l { status := stFault, faultKind := 3 }
    | none => gone
def execHandoffTimeout (v c : Nat) (s : State) : Host.Outcome State Fault Refusal := .next (doHandoffTimeout s v c)

end Sys2Proof.Machine
end

