-- ==== Sys2Proof/Machine/Boot.lean ====
section
/-! DEFINITION. Headland's boot and recovery mode (R332, R336 to R339, R347, R349, R363), the module reset (R387, R390, R407) and the controlled
stop with its crash record (R384, R386). -/

namespace Sys2Proof.Machine

/-- Headland is powered: from the main input or from STBY_12V (R331). -/
def hlOn (s : State) : Bool := s.hl.mainIn || s.hl.stby

/-- The main rails are up: the protection logic has something to protect. -/
def railsUp (s : State) : Bool :=
  match s.hl.boot with
  | .starting | .up | .recovery | .clockLost => true
  | .off | .stopped => false

/-! ### The image (R336, R337) -/

def allZero (l : List Byte) : Bool := l.all (· = 0)

/-- MAGIC, HDR_VER, the limits of SEC_VERSION, BODY_LEN and RSA_E, and the reserved bytes. -/
def imgFormatOk (h : List Byte) : Bool :=
  decide (slice h 0 4 = [0x4B, 0x48, 0x4C, 0x31]) && decide (leNat (slice h 4 4) = 1) && decide (imgSec h ≤ 64) &&
  decide (0x1000 ≤ imgBody h) && decide (imgBody h ≤ 0x2800000) && imgBody h % 0x1000 = 0 && decide (leNat (slice h 0x240 4) = 65537) &&
  allZero (slice h 0x18 0x28) && allZero (slice h 0xA0 0x20) && allZero (slice h 0x244 0x1BC) && allZero (slice h 0x44E0 0xB20)

/-- The keys of a header hash to the fuses (R334, R337). -/
def keysOk (s : State) (h : List Byte) : Bool :=
  decide (slice (Config.sha384 (slice h 0xC0 0x184)) 0 48 = slice s.flash.rsaKeyHash 0 48) &&
  decide (slice (Config.sha384 (slice h 0x70 0x30)) 0 48 = slice s.flash.slhKeyHash 0 48)

/-- The body of an image hashes to BODY_DIGEST (R336, R337). -/
def bodyOk (img : List Byte) : Bool := decide (slice (Config.sha384 ((img.drop 0x5000).take (imgBody img))) 0 48 = slice img 0x40 48)

/-- RSA_SIG verifies over M, the header's first 0x400 bytes, under its RSA_N and RSA_E (R336, R337). -/
def rsaOk (h : List Byte) : Bool := Config.rsaVerify (slice h 0 0x400) (slice h 0xC0 384) (slice h 0x240 4) (slice h 0x400 384)

/-- SLH_SIG verifies over M under its SLH_PK, with the MAGIC bytes as context (R336, R337). -/
def slhOk (h : List Byte) : Bool := Config.slhVerify (slice h 0 0x400) (slice h 0x70 48) (slice h 0 4) (slice h 0x580 16224)

/-- FAIL of an image's header, in the order of R338; 0 where it passes. -/
def headerFail (s : State) (h : List Byte) : Nat :=
  if !imgFormatOk h then 1
  else if !keysOk s h then 2
  else if imgSec h < s.flash.svn then 3
  else if !rsaOk h then 4
  else if !slhOk h then 5
  else 0

/-- FAIL of the image in flash; 0 where it is acceptable. -/
def imageFail (s : State) (c : ImageChecks) : Nat :=
  if !s.flash.whole then 8
  else if !c.flashOk then 7
  else if headerFail s (s.flash.image.take 0x5000) ≠ 0 then headerFail s (s.flash.image.take 0x5000)
  else if !bodyOk s.flash.image then 6
  else 0

/-! ### Updates that end (R347, R357) -/

/-- An update ends other than by an FW_END that succeeds. -/
def updateFail (s : State) : State :=
  match s.hl.update with
  | none => s
  | some u =>
    let s := { s with hl := { s.hl with update := none } }
    alertSet (logAdd (errSet s pgHeadland 8) 0x0050 0xFFFF (pageId pgHeadland) 1 (imgBuild u.bytes)) 19

/-! ### Headland itself -/

/-- Headland without power, or as it starts from its mask ROM: what its pins, its journal and its inputs show stays. -/
def Headland.cold (h : Headland) : Headland :=
  { journal := h.journal, strapPair := h.strapPair, strapSlot := h.strapSlot, pairId := h.pairId, slotId := h.slotId, stby := h.stby,
    mainIn := h.mainIn }

/-- Headland starts from its mask ROM: straps sampled (R403), its counter from 0; with `keep`, the event log and the shadow registers
keep their contents (R332). -/
def headlandStart (s : State) (keep : Bool) : State :=
  let h := { s.hl.cold with pairId := s.hl.strapPair, slotId := s.hl.strapSlot, clkBase := s.cycles }
  let h := if keep then { h with log := s.hl.log, logSeq := s.hl.logSeq, logLost := s.hl.logLost, shadow := s.hl.shadow } else h
  { s with hl := h, regs := tfilter (fun k => !keptPage k) s.regs, clks := tdel islHeadland s.clks,
           latch := s.latch.filter (fun e => !keptPage e.2.1) }

/-- What a restart of Headland in a powered module keeps beside its log and shadow registers: alert enables and checkpoint registers,
and the power page but for what a module reset returns (R382, R390). -/
def restartKeeps (k : Nat) : Bool :=
  let o := k % 0x1000
  let n := k % 2 ^ 26 / 0x1000
  (n = pgHeadland / 0x1000 && (o = 0x88 || o = 0xC08)) || (n = pgPwr / 0x1000 && decide (0x80 ≤ o) && o ≠ 0x88 && o ≠ 0x98)

/-- Headland restarts after an accepted update (R349); its inputs, and the low-water mode and thermal cap they hold it in, go on (R382,
R385). -/
def headlandAgain (s : State) : State :=
  let t := headlandStart s true
  { t with regs := tfilter (fun k => !keptPage k || restartKeeps k) s.regs,
           hl := { t.hl with pwrWarn := s.hl.pwrWarn, thermCap := s.hl.thermCap, inletHot := s.hl.inletHot, dieTemps := s.hl.dieTemps,
                             baseTemps := s.hl.baseTemps, ioTemp := s.hl.ioTemp, overTicks := s.hl.overTicks,
                             mvs := s.hl.mvs } }

/-- Headland loses its last supply: its volatile state is lost, its outputs float (R332, R384, R402). -/
def headlandOff (s : State) : State :=
  { s with hl := s.hl.cold, regs := tfilter (fun k => !keptPage k) s.regs, clks := tdel islHeadland s.clks,
           latch := s.latch.filter (fun e => !keptPage e.2.1) }

/-- Everything outside Headland is in reset and its volatile state lost, but for the count of resets in HBM_EPOCH (R245); PCIe's
functions are reset (R407). -/
def outsideDown (s : State) : State :=
  let t := outsideReset s false
  let s := (List.range s.grade.stacks).foldl (fun t h => wf t (pgHbm h + 0xA0) 7 0 (rf s (pgHbm h + 0xA0) 7 0)) t
  { s with hl := { s.hl.cfgReset with downing := false } }

/-! ### Boot -/

/-- Recovery mode (R339). After a boot that took too long Headland has the image it ran before; at a power-on, or after an update, none whose
checks have passed. -/
def recover (s : State) (why : Nat) : State :=
  let s := outsideDown s
  let h := { s.hl with boot := .recovery, fail := why, modPg := true, modFault := true, updated := false,
                       running := if why = 10 then s.flash.image.take 0x5000 else if why = 9 && !s.hl.updated then s.hl.running else [] }
  alertSet { s with hl := h } 19

/-- While low-water mode lasts, a block that leaves reset takes STATE 6 (R382, R383). -/
def lowWaterUp (s : State) : State :=
  if lowWater s then allPages.foldl (fun s pg => if stateOf s pg = 3 then wf s (pg + 0xC) 3 0 6 else s) s else s

/-- The faults of one block that the power-on sounding finds (R361, R363). -/
def bootSounding (s : State) (p : Page) (pg : Nat) (fs : List SoundFault) : State :=
  if fs.isEmpty || !canSound p.kind || !present s pg then s
  else
    let s := wr s (pg + 0xC) 0x10012
    let s := errSet (wf s (pg + 0x34) 2 0 3) pg 3
    let s := if p.kind = .valley then fs.foldl (fun s f => captureSound s p.inst f) s else s
    let s := fs.foldl (fun s f => soundFailure s p pg s.flash.retireOnFail f) s
    if stateOf s pg = 2 then setState s pg 3 else s

/-- The page under which a fault is sounded: the regulators with their controller (R415). -/
def soundedAt (pg : Nat) : Nat :=
  match pageOf pg with
  | some p => if p.kind = .hbmReg then pgHbm p.inst else pg
  | none => pg

/-- A fault that the policy's sounding can find: with ONBOOT 2 no memory of a valley is tested (R363). -/
def foundBy (onboot : Nat) : SoundFault → Bool
  | .core _ bank => !bank || decide (onboot ≠ 2)
  | _ => true

/-- Faults of one page. -/
def faultsAt (s : State) (p : Page) (pg : Nat) (fs : List BootFault) : List SoundFault :=
  (fs.filter (fun f => decide (soundedAt f.page = pg) && foundBy s.hl.onboot f.unit && faultFits s p f.unit)).map (·.unit)

/-- A block that only power-on sounds has failed (R339, R359). -/
def bootBlocked (s : State) (fs : List BootFault) : Bool :=
  fs.any (fun f => match pageOf f.page with
    | some p => decide (f.page % 0x1000 = 0) && fitted s.grade p && !canSound p.kind && decide (p.kind ≠ .hbmReg) && decide (f.unit = .block)
    | none => false)

/-- A channel that fails the training of its pass end at boot (R146, R338). -/
def trainFault (s : State) (f : BootFault) : State :=
  match pageOf f.page with
  | some p => if present s f.page then (badChannels p [f.unit]).foldl (fun s c => chanFail s p.inst c) s else s
  | none => s

/-- Firmware runs in every component, the blocks are sounded and initialised, and the lock is set (R338, R363, R390); from then on EXTEST and
CLAMP select BYPASS (R404). -/
def bootUp (s : State) (fs : List BootFault) : State :=
  if bootBlocked s fs then recover s 10
  else
    let t := outsideDown s
    let b := if s.flash.onboot = 3 then 0 else s.flash.onboot
    let h := { t.hl with boot := .up, fail := 0, running := t.flash.image.take 0x5000, policy := t.flash.retireOnFail, onboot := b, mac := t.flash.mac,
                         updated := false, modPg := true, modFault := false, jtagDrive := false,
                         jtagIr := if t.hl.jtagIr = .extest || t.hl.jtagIr = .clamp then .bypass else t.hl.jtagIr }
    let t := { t with hl := h, devInit := false, sounded := true, clkBase := t.cycles }
    let t := wr (epochsOn s t) (pgPwr + 0x88) (t.flash.budget.getD t.grade.tdp)
    let t := (fs.map (fun f => soundedAt f.page)).eraseDups.foldl (fun t pg => match pageOf pg with
      | some p => bootSounding t p pg (faultsAt t p pg fs)
      | none => t) t
    lowWaterUp (fs.foldl trainFault (passesUp t))

/-- The whole of R338, after Headland has started. -/
def bootWhole (s : State) (c : ImageChecks) (fs : List BootFault) : State :=
  if imageFail s c ≠ 0 then recover s (imageFail s c) else bootUp s fs

/-! ### Module reset (R387, R390) -/

/-- Fields of Headland's pages that a module reset returns: the header's registers, PWR_BUDGET and HBM_PRESERVE (R390). -/
def moduleKeeps (k : Nat) : Bool :=
  let o := k % 0x1000
  o = 0xC || (decide (0x80 ≤ o) && !(k / 0x1000 = 8 && (o = 0x88 || o = 0x98)))

/-- A module reset begins: everything outside Headland is in reset. One that ends the stop of a POWER_DOWN finds the input within its limits
and no cap (R389, R395). -/
def moduleDown (s : State) : State :=
  let s := outsideDown (updateFail s)
  { s with hl := { s.hl with boot := .starting, modFault := s.hl.modFault, ckptNow := List.replicate 8 0 },
           regs := tfilter moduleKeeps (if rf s (pgPwr + 0x80) 31 30 = 2 then wf (wf s (pgPwr + 0x80) 31 30 0) (pgPwr + 0x8C) 9 8 0 else s).regs }

/-- A module reset from its request to BOOT_LOCKED: R338 from the other components' start, or the whole of it with Headland's restart
after an accepted update (R349, R387). A module whose Headland found no image to run stays in recovery mode; one whose boot took too long
begins with the checks (log 146). -/
def moduleRun (s : State) (c : ImageChecks) (fs : List BootFault) : State :=
  let t := moduleDown s
  if s.hl.updated then bootWhole (headlandAgain t) c fs
  else if !t.flash.whole then recover t 8
  else if t.hl.running.isEmpty then (if t.hl.fail = 9 then bootWhole t c fs else recover t t.hl.fail)
  else bootUp t fs

/-- The module can take a module reset: the main input is there and Headland has started. Of the controlled stops only that of a POWER_DOWN
ends by one; the others end by a power-on (R384, R389). -/
def canModule (s : State) : Bool :=
  s.hl.mainIn && decide (s.hl.boot ≠ .off) && (decide (s.hl.boot ≠ .stopped) || decide (s.hl.stopCause = 4))

/-! ### The controlled stop -/

/-- PWR_INPUT.MV takes a voltage; those of the last millisecond, 25,000 of Headland's cycles (R23), are remembered, and the one that stood as
it began. -/
def setMv (s : State) (mv : Nat) : State :=
  let now := islTime s islHeadland
  let late := fun (e : Nat × Nat) => decide (now < e.1 + 25000)
  let l := s.hl.mvs.filter late ++ (s.hl.mvs.filter (fun e => !late e)).take 1
  wf { s with hl := { s.hl with mvs := (now, mv) :: l } } (pgPwr + 0x80) 15 0 mv

/-- The lowest input voltage of the millisecond before now (R386; log 149). -/
def mvLow (s : State) : Nat :=
  let now := islTime s islHeadland
  let late := fun (e : Nat × Nat) => decide (now < e.1 + 25000)
  ((s.hl.mvs.filter late ++ (s.hl.mvs.filter (fun e => !late e)).take 1).map (·.2)).foldl min (rf s (pgPwr + 0x80) 15 0)

/-- An event-log entry as 32 bytes (R367). -/
def LogEntry.bytes (e : LogEntry) : List Byte :=
  leBytes 4 e.seq ++ leBytes 2 e.code ++ leBytes 2 e.index ++ leBytes 8 e.time ++ leBytes 4 e.source ++ leBytes 4 e.info ++ leBytes 8 e.value

/-- TEMPS of the crash record and of log entries (R386, R395): hottest compute die, hottest base die, I/O die, coolant inlet. -/
def tempsWord (s : State) : Nat :=
  (s.hl.dieTemps.foldl max 0) % 256 + (s.hl.baseTemps.foldl max 0) % 256 * 2 ^ 8 + s.hl.ioTemp % 256 * 2 ^ 16 +
    rf s (pgPwr + 0x90) 23 16 * 2 ^ 24

/-- A supply or thermal event in the log: the supply state, the cause of R386 or 5 for a thermal warning (R395). -/
def supplyLog (s : State) (cause : Nat) : State :=
  logAdd s 0x0060 0xFFFF (pageId pgPwr) (rf s (pgPwr + 0x80) 31 30 + cause * 256) (rf s (pgPwr + 0x80) 15 0 + tempsWord s * 2 ^ 16)

/-- A block of the page stands faulted. -/
def isFaulted (s : State) (pg : Nat) : Nat := b2n (decide (stateOf s pg = 7))

/-- Sideband shadow registers 0x30 to 0x4F and on to 0x7F (R370). -/
def summary (s : State) (i : Nat) : Nat :=
  let vs := (List.range 1200).map (fun v => stateOf s (pgValley v))
  if i = 0x30 then s.hl.log.length * 2 ^ 16 + min 0xFFFF s.hl.logLost
  else if i = 0x31 then s.hl.logSeq
  else if i = 0x32 then (vs.filter (fun st => st = 7 || st = 8)).length * 2 ^ 16 + (gradeValleys s).length
  else if i = 0x33 then s.flash.coresRetired.length
  else if 0x40 ≤ i && i < 0x4C then
    let d := i - 0x40
    (((vs.drop (100 * d)).take 100).filter (fun st => !(st = 3 || st = 4 || st = 6))).length * 2 ^ 16 +
      ((List.range 4).map (fun e => isFaulted s (pgPass d e) * 2 ^ (8 + e))).sum + stateOf s (pgSteward d)
  else if 0x4C ≤ i && i < 0x54 then
    let h := i - 0x4C
    isFaulted s (pgHbm h) * 2 ^ 16 + isFaulted s (pgBerm h) * 2 ^ 17 + isFaulted s (pgEng ⟨.flood, h⟩) * 2 ^ 18 +
      isFaulted s (pgEng ⟨.ebb, h⟩) * 2 ^ 19 + stateOf s (pgHbm h)
  else 0

/-- The crash record (R386). -/
def crashRecord (s : State) (cause mv minMv : Nat) : List Byte :=
  let body := leBytes 8 (s.flash.crashSeq + 1) ++ leBytes 4 cause ++ leBytes 2 mv ++ leBytes 2 minMv ++ leBytes 8 (islTime s islHeadland) ++
    leBytes 4 s.flash.hours ++ leBytes 4 (tempsWord s) ++ leBytes 24 0 ++
    ((List.range 32).flatMap (fun i => leBytes 4 (summary s (0x30 + i)))) ++ leBytes 64 0 ++
    slice ((s.hl.log.reverse.take 64).flatMap (·.bytes)) 0 2048 ++ List.replicate 0x700 0
  leBytes 4 0x4B435231 ++ leBytes 4 (crc32c body) ++ body

/-- A controlled stop (R384). `input`: the main input stays within Headland's limits. -/
def controlledStop (s : State) (cause mv minMv : Nat) (input : Bool) : State :=
  let s := setMv (wf s (pgPwr + 0x80) 31 30 2) mv
  let s := supplyLog (updateFail (ckptEvent s 6)) cause
  let s := if cause = 3 then ckptEvent s 7 else s
  let rec' := crashRecord s cause mv minMv
  let s := { s with hl := { s.hl with journal := tput [] s.hl.journal (s.flash.crashSeq % 64) rec' },
                    flash := { s.flash with crashSeq := s.flash.crashSeq + 1 } }
  let s := outsideDown s
  let h := { s.hl with boot := .stopped, stopCause := cause, mainIn := input, modPg := false, modFault := true, pwrWarn := false, thermCap := false,
                       overTicks := 0 }
  let s := { s with hl := h, chans := [] }
  if hlOn s then s else headlandOff s

end Sys2Proof.Machine
end

