-- ==== Sys2Proof/Machine/Power.lean ====
section
/-! DEFINITION. Power and clocks: power-on, boot and module reset as commands (R338, R339, R379, R387, R401), supply events (R382 to R384),
the governor (R380), thermal protection (R385), the reference clocks (R405), orderly power-down (R389), STBY_12V (R331). -/

namespace Sys2Proof.Machine

/-! ### Starting and stopping -/

/-- PWR_INPUT.MV once the input is up and before a command reports its voltage: a free value within the limits of a power-on (R379; log
149). -/
def inputFound (s : State) : State :=
  setMv { s with freeCount := s.freeCount + 1 } (44000 + Config.inputMv s.freeCount % 16501)

/-- Headland starts because the main input has come up (R332). -/
def inputUp (s : State) : State :=
  let s := updateFail s
  let s := outsideDown s
  let s := { s with regs := tfilter keptPage s.regs }
  inputFound (headlandStart { s with hl := { s.hl with mainIn := true } } s.hl.stby)

/-- POWER_ON (R338, R379). -/
def doPowerOn (s : State) (c : ImageChecks) (fs : List BootFault) : State :=
  match s.hl.boot with
  | .up | .starting => s
  | _ => bootWhole (inputUp s) c fs
def execPowerOn (chk : ImageChecks) (faults : List BootFault) (s : State) : Host.Outcome State Fault Refusal := .next (doPowerOn s chk faults)

/-- BOOT_TIMEOUT (R339): a boot that has begun and not set BOOT_LOCKED within 4.0 s. -/
def doBootTimeout (s : State) : State :=
  match s.hl.boot with
  | .off | .stopped => if s.hl.mainIn then s else recover (inputUp s) 9
  | .starting => recover s 9
  | _ => s
def execBootTimeout (s : State) : Host.Outcome State Fault Refusal := .next (doBootTimeout s)

/-- MOD_RESET_N (R401). -/
def doModResetN (s : State) (lowMicros : Nat) (c : ImageChecks) (fs : List BootFault) : State :=
  if 10 ≤ lowMicros && canModule s then moduleRun s c fs else s
def execModResetN (lowMicros : Nat) (chk : ImageChecks) (faults : List BootFault) (s : State) : Host.Outcome State Fault Refusal :=
  .next (doModResetN s lowMicros chk faults)

/-- MODULE_RESET (R387): a write of MODULE_RESET, or a module reset that a write or a mailbox frame has requested. -/
def doModuleReset (s : State) (c : ImageChecks) (fs : List BootFault) : State :=
  if s.hl.boot = .starting || (s.hl.boot = .up && !s.hl.d3hot.contains 0) then moduleRun s c fs else s
def execModuleReset (chk : ImageChecks) (faults : List BootFault) (s : State) : Host.Outcome State Fault Refusal :=
  .next (doModuleReset s chk faults)

/-- The main input leaves its limits: a controlled stop where the rails were up; Headland runs on only from STBY_12V. -/
def inputLost (s : State) (cause mv minMv : Nat) : State :=
  if railsUp s then controlledStop s cause mv minMv false
  else
    let s := { s with hl := { s.hl with mainIn := false } }
    if hlOn s then s else headlandOff s

/-- OVERVOLTAGE (R379): above 60.5 V. -/
def doOvervoltage (s : State) (mv minMv : Nat) : State := if 60500 < mv then inputLost s 2 mv minMv else s
def execOvervoltage (mv minMv : Nat) (s : State) : Host.Outcome State Fault Refusal := .next (doOvervoltage s mv minMv)

/-- UNDERVOLTAGE (R382): 38.0 V. -/
def doUndervoltage (s : State) (mv minMv : Nat) : State := if mv ≤ 38000 then inputLost s 1 mv minMv else s
def execUndervoltage (mv minMv : Nat) (s : State) : Host.Outcome State Fault Refusal := .next (doUndervoltage s mv minMv)

/-- POWER_DOWN_EXPIRY (R389). -/
def doPowerDownExpiry (s : State) : State :=
  if s.hl.downing && railsUp s then controlledStop s 4 (rf s (pgPwr + 0x80) 15 0) (mvLow s) s.hl.mainIn else s
def execPowerDownExpiry (s : State) : Host.Outcome State Fault Refusal := .next (doPowerDownExpiry s)

/-- STBY_12V comes within its limits or leaves them (R331). -/
def doStby12vChange (s : State) (ok : Bool) : State :=
  let was := hlOn s
  let s := { s with hl := { s.hl with stby := ok } }
  if !hlOn s then headlandOff s else if !was then headlandStart s false else s
def execStby12vChange (ok : Bool) (s : State) : Host.Outcome State Fault Refusal := .next (doStby12vChange s ok)

/-! ### Low-water mode (R382, R383) -/

/-- CAP of PWR_GOV: the budget in force (R380, R395). -/
def capNow (s : State) : Nat := if lowWater s then 1 else if s.hl.thermCap then 2 else 0
def capShow (s : State) : State := wf s (pgPwr + 0x8C) 9 8 (capNow s)

/-- LOW_WATER_ENTRY: 42.5 V. -/
def doLowWaterEntry (s : State) (mv : Nat) : State :=
  if !railsUp s then s
  else
    let s := setMv s mv
    if lowWater s || decide (42500 < mv) then s
    else
      let s := wf { s with hl := { s.hl with pwrWarn := true } } (pgPwr + 0x80) 31 30 1
      let s := allPages.foldl (fun s pg => if stateOf s pg = 3 || stateOf s pg = 4 then setState s pg 6 else s) s
      supplyLog (evtSet (ckptEvent (capShow s) 5) pgPwr 8) 0
def execLowWaterEntry (mv : Nat) (s : State) : Host.Outcome State Fault Refusal := .next (doLowWaterEntry s mv)

/-- LOW_WATER_DIP: the 200 µs begin again. -/
def doLowWaterDip (s : State) (mv : Nat) : State := if railsUp s then setMv s mv else s
def execLowWaterDip (mv : Nat) (s : State) : Host.Outcome State Fault Refusal := .next (doLowWaterDip s mv)

/-- A block in STATE 6 takes ready or running, by whether it holds work. -/
def leaveLow (s : State) (pg : Nat) : State :=
  match pageOf pg with
  | some p => if stateOf s pg = 6 then setState s pg (if holdsWork s p then 4 else 3) else s
  | none => s

/-- LOW_WATER_EXIT: above 43.5 V for 200 µs. -/
def doLowWaterExit (s : State) (mv : Nat) : State :=
  if !railsUp s then s
  else
    let s := setMv s mv
    if !lowWater s || decide (mv ≤ 43500) then s
    else
      let s := wf { s with hl := { s.hl with pwrWarn := false } } (pgPwr + 0x80) 31 30 0
      let s := allPages.foldl leaveLow s
      inc64 (evtSet (capShow s) pgPwr 9) (pgPwr + 0xA0) 1
def execLowWaterExit (mv : Nat) (s : State) : Host.Outcome State Fault Refusal := .next (doLowWaterExit s mv)

/-! ### The governor (R380) -/

/-- The budget in force, in hundredths of a watt: PWR_BUDGET, the low-water cap, 85 % of PWR_BUDGET. -/
def budgetNow (s : State) : Nat :=
  match capNow s with
  | 0 => rf s (pgPwr + 0x88) 15 0 * 100
  | 1 => s.grade.lowWaterCap * 100
  | _ => rf s (pgPwr + 0x88) 15 0 * 85

/-- GOVERNOR_TICK. -/
def doGovernorTick (s : State) (watts peak : Nat) : State :=
  if !railsUp s then s
  else
    let b := budgetNow s
    let skip := rf s (pgPwr + 0x8C) 3 0
    let above := decide (b < watts * 100)
    let s := wr s (pgPwr + 0x84) (min 0xFFFF peak * 2 ^ 16 + min 0xFFFF watts)
    let s := wf s (pgPwr + 0x8C) 3 0 (if above then min 15 (skip + 1) else if watts * 10000 < b * 97 then skip - 1 else skip)
    let n := if above then s.hl.overTicks + 1 else 0
    let s := { s with hl := { s.hl with overTicks := n } }
    if n = 10000 then errSet s pgPwr 8 else s
def execGovernorTick (watts peak : Nat) (s : State) : Host.Outcome State Fault Refusal := .next (doGovernorTick s watts peak)

/-! ### Thermal protection (R385) -/

/-- THERMAL_WARN and its log entry. -/
def thermalWarn (s : State) : State := supplyLog (evtSet s pgPwr 10) 5

/-- THERMAL_SAMPLE. -/
def doThermalSample (s : State) (t : Temps) : State :=
  if !railsUp s then s
  else
    let dies := t.dies.take 12
    let bases := t.bases.take s.grade.stacks
    let die := dies.foldl max 0
    let base := bases.foldl max 0
    let s := { s with hl := { s.hl with dieTemps := dies, baseTemps := bases, ioTemp := t.io } }
    let s := wr s (pgPwr + 0x90)
      (min 255 t.outlet * 2 ^ 24 + min 255 t.inlet * 2 ^ 16 + min 255 base * 2 ^ 8 + min 255 (max die t.io))
    if 110 < die || 110 < t.io || 95 < base then
      controlledStop s 3 (rf s (pgPwr + 0x80) 15 0) (mvLow s) s.hl.mainIn
    else
      let hot := decide (100 < die)
      let cap := hot || (s.hl.thermCap && decide (95 ≤ die))
      let rose := hot && !s.hl.thermCap
      let inletRose := t.inletHot && decide (40 < t.inlet) && !s.hl.inletHot
      let s := capShow { s with hl := { s.hl with thermCap := cap, inletHot := t.inletHot && decide (40 < t.inlet) } }
      let s := if rose then thermalWarn s else s
      if inletRose then thermalWarn s else s
def execThermalSample (t : Temps) (s : State) : Host.Outcome State Fault Refusal := .next (doThermalSample s t)

/-! ### Reference clocks (R405) -/

/-- The error that a loss of REFCLK100 logs from the power page: the manual does not say which of the page's bits (log 17). -/
def refclkBit (s : State) : Nat := ([0, 1, 2, 3, 4, 5, 8] : List Nat).getD (Config.choose 7 s.freeCount % 7) 0

/-- REFCLK100_LOSS. -/
def doRefclk100Loss (s : State) : State :=
  if railsUp s && decide (s.hl.boot ≠ .clockLost) then
    let s := errSet { s with freeCount := s.freeCount + 1 } pgPwr (refclkBit s)
    let s := outsideDown s
    { s with hl := { s.hl with boot := .clockLost, modFault := true } }
  else s
def execRefclk100Loss (s : State) : Host.Outcome State Fault Refusal := .next (doRefclk100Loss s)

/-- REFCLK156_LOSS: every port and Tideway link goes down, at once (R405): what they carried waits for one that trains. -/
def doRefclk156Loss (s : State) : State :=
  if up s then
    let s := (List.range s.grade.ports).foldl (fun s p =>
      if rf s (pgPort p + 0x80) 31 29 = 0 then s
      else linkMark (if rb s (pgPort p + 0x80) 31 then ckptEvent s 3 else s) p 0) s
    let s := bothLinks.foldl (fun s l => if (getLink s l).trained then linkDrop (errSet (ckptEvent s 4) (pgLink l) 8) l else s) s
    twyRun (moveFlows s)
  else s
def execRefclk156Loss (s : State) : Host.Outcome State Fault Refusal := .next (heldBack .refclk156Loss s (doRefclk156Loss s))

end Sys2Proof.Machine
end

