-- ==== Sys2Proof/Machine/Mailbox.lean ====
section
/-! DEFINITION. The mailboxes (R350 to R353, R369, R389): frames, their answers, and every mailbox command. -/

namespace Sys2Proof.Machine

/-! ### Frames -/

/-- STATUS values of R352. -/
def mbOk : Nat := 0
def mbBusy : Nat := 1
def mbBadCmd : Nat := 2
def mbBadLen : Nat := 3
def mbBadImage : Nat := 4
def mbSequence : Nat := 5
def mbDigest : Nat := 6
def mbFlash : Nat := 7
def mbNotAllowed : Nat := 8
def mbFuse : Nat := 9

def srcPcie : MboxSrc → Bool
  | .pcie => true
  | .sideband _ => false

/-- A frame that stands in HDL_MBOX_REQ. -/
def pcieFrame (s : State) : List Byte := (List.range 64).flatMap (fun i => leBytes 4 (rd s (pgHeadland + 0x400 + 4 * i)))

/-- CMD of a frame. -/
def frameCmd (f : List Byte) : Nat := leNat (slice f 0 1)
/-- TAG of a frame. -/
def frameTag (f : List Byte) : Nat := leNat (slice f 1 1)
/-- Payload of a frame; none where LEN does not fit the bytes sent: a sideband transaction sends exactly the frame, the PCIe mailbox always
holds 256 bytes (R350, R352). -/
def framePayload (pcie : Bool) (f : List Byte) : Option (List Byte) :=
  let n := 4 * leNat (slice f 3 1)
  if f.length < 4 || decide (0x3F < leNat (slice f 3 1)) || decide (f.length < 4 + n) || (!pcie && decide (f.length ≠ 4 + n)) then none
  else some (slice f 4 n)

/-- GO has been given to the frame in HDL_MBOX_REQ, it is not yet performed, and PCIe can be served (R350, R357). -/
def pcieWaits (s : State) : Bool := decide (s.hl.boot = .up) && decide (rf s (pgHeadland + 0x8C) 17 16 = 1)

/-- A mailbox may be served: where a frame waits in each, they are served alternately (R350). -/
def mboxTurn (s : State) (pcie : Bool) : Bool := !(pcieWaits s && s.hl.sbHeld.isSome) || s.hl.mbPcie = pcie

/-- A sideband frame is taken while SB_MBOX.STATE is 0 or 2, and dropped otherwise; one that was taken before is performed when its turn
comes (R350, R355). -/
def sbTake (s : State) (f : List Byte) : State × Option (List Byte) :=
  match s.hl.sbHeld with
  | none => ({ s with hl := { s.hl with sbDropped := false, mbPcie := true } }, some f)
  | some g =>
    if g ≠ f then ({ s with hl := { s.hl with sbDropped := true } }, none)
    else if mboxTurn s false then ({ s with hl := { s.hl with sbHeld := none, mbPcie := true } }, some f)
    else (s, none)

/-- The frame a mailbox command performs; the turn passes as one is served (R350). One to which GO was given is performed in D3hot too, where
no register can be written. -/
def mboxTake (s : State) (m : MboxSrc) : State × Option (List Byte) :=
  match m with
  | .pcie =>
    if s.hl.boot = .up && (pcieWaits s || !s.hl.d3hot.contains 0) && mboxTurn s true then
      ({ s with hl := { s.hl with mbPcie := false } }, some (pcieFrame s))
    else (s, none)
  | .sideband f => if hlOn s then sbTake s f else (s, none)

/-- A response frame (R350). -/
def mboxAnswer (s : State) (m : MboxSrc) (f : List Byte) (status : Nat) (payload : List Byte) : State :=
  let n := cdiv payload.length 4
  let r := slice f 0 2 ++ [BitVec.ofNat 8 status, BitVec.ofNat 8 n] ++ slice payload 0 (4 * n)
  let s := say s (.mbox (srcPcie m) r)
  match m with
  | .pcie =>
    let s := (List.range 64).foldl (fun s i => wr s (pgHeadland + 0x500 + 4 * i) (leNat (slice r (4 * i) 4))) s
    wr s (pgHeadland + 0x8C) (2 * 2 ^ 16 + frameTag f * 2 ^ 8)
  | .sideband _ => { s with hl := { s.hl with sbRsp := r, sbState := 2, sbTag := frameTag f } }

/-- What a command answers: the state, STATUS and the payload. -/
abbrev MbRun := State × Nat × List Byte

/-- A command of code `cmd` performed with its payload; in recovery mode only where `recovery` (R351). -/
def mboxRun (s : State) (m : MboxSrc) (cmd : Nat) (recovery : Bool) (run : State → List Byte → MbRun) : State :=
  let t := mboxTake s m
  match t.2 with
  | none => t.1
  | some f =>
    if frameCmd f ≠ cmd then s
    else if s.hl.boot = .recovery && !recovery then mboxAnswer t.1 m f mbBadCmd []
    else match framePayload (srcPcie m) f with
      | none => mboxAnswer t.1 m f mbBadLen []
      | some p => let r := run t.1 p; mboxAnswer r.1 m f r.2.1 r.2.2

/-- A command without a payload. -/
def noPayload (run : State → MbRun) (s : State) (p : List Byte) : MbRun := if p.isEmpty then run s else (s, mbBadLen, [])

/-- The codes of R351. -/
def knownCmd (c : Nat) : Bool :=
  ([0x01, 0x10, 0x11, 0x12, 0x13, 0x14, 0x20, 0x30, 0x31, 0x32, 0x33, 0x40, 0x41, 0x50] : List Nat).contains c

/-- The codes not served in recovery mode. -/
def notInRecovery (c : Nat) : Bool := c = 0x14 || c = 0x50

/-- UNKNOWN_CMD: a reserved CMD, or one not served in this mode. -/
def doUnknownCmd (s : State) (m : MboxSrc) : State :=
  let t := mboxTake s m
  match t.2 with
  | none => t.1
  | some f =>
    if !knownCmd (frameCmd f) || (s.hl.boot = .recovery && notInRecovery (frameCmd f)) then mboxAnswer t.1 m f mbBadCmd [] else s
def execUnknownCmd (m : MboxSrc) (s : State) : Host.Outcome State Fault Refusal := .next (doUnknownCmd s m)

/-! ### GET_INFO -/

/-- Shadow registers 0x00 to 0x06 (R355). -/
def infoReg (s : State) (i : Nat) : Nat :=
  match i with
  | 0 => 0x4B54 * 2 ^ 16 + viewGradeId s % 256 * 2 ^ 8 + 1
  | 1 => viewBoot s
  | 2 => viewSvn s
  | 3 => s.flash.serial.toNat % 2 ^ 32
  | 4 => s.flash.serial.toNat / 2 ^ 32
  | 5 => imgBuild s.hl.running % 2 ^ 32
  | _ => imgBuild s.hl.running / 2 ^ 32

def doGetInfo (s : State) (m : MboxSrc) : State :=
  mboxRun s m 0x01 true (noPayload (fun s => (s, mbOk, (List.range 7).flatMap (fun i => leBytes 4 (infoReg s i)))))
def execGetInfo (m : MboxSrc) (s : State) : Host.Outcome State Fault Refusal := .next (doGetInfo s m)

/-! ### Update (R346 to R349) -/

/-- FW_BEGIN. -/
def fwBegin (pcie : Bool) (s : State) : MbRun :=
  if s.hl.update.isSome then (s, mbBusy, [])
  else ({ s with hl := { s.hl with update := some { pcie := pcie } } }, mbOk, [])
def doFwBegin (s : State) (m : MboxSrc) : State := mboxRun s m 0x10 true (noPayload (fwBegin (srcPcie m)))
def execFwBegin (m : MboxSrc) (s : State) : Host.Outcome State Fault Refusal := .next (doFwBegin s m)

/-- The header of an update once bytes 0 to 0x4FFF are held: checked, then the image region is erased. -/
def fwHeader (s : State) (u : FwUpd) (c : ImageChecks) : MbRun :=
  if headerFail s (u.bytes.take 0x5000) ≠ 0 then (updateFail s, mbBadImage, [])
  else
    let s := { s with flash := { s.flash with whole := false }, hl := { s.hl with update := some { u with erased := true } } }
    if c.flashOk then (s, mbOk, []) else (updateFail s, mbFlash, [])

/-- FW_DATA. -/
def fwData (pcie : Bool) (c : ImageChecks) (full : Bool) (s : State) (p : List Byte) : MbRun :=
  if p.length < 8 then (s, mbBadLen, [])
  else match s.hl.update with
    | none => (s, mbSequence, [])
    | some u =>
      if u.pcie ≠ pcie then (s, mbNotAllowed, [])
      else if full then (s, mbBusy, [])
      else if leNat (slice p 0 4) ≠ u.bytes.length then (s, mbSequence, [])
      else
        let v := { u with bytes := u.bytes ++ p.drop 4 }
        let s := { s with hl := { s.hl with update := some v } }
        if v.erased then (if c.flashOk then (s, mbOk, []) else (updateFail s, mbFlash, []))
        else if 0x5000 ≤ v.bytes.length then fwHeader s v c
        else (s, mbOk, [])
def doFwData (s : State) (m : MboxSrc) (c : ImageChecks) (full : Bool) : State := mboxRun s m 0x11 true (fwData (srcPcie m) c full)
def execFwData (m : MboxSrc) (chk : ImageChecks) (bufferFull : Bool) (s : State) : Host.Outcome State Fault Refusal :=
  .next (doFwData s m chk bufferFull)

/-- FW_END. -/
def fwEnd (pcie : Bool) (c : ImageChecks) (s : State) : MbRun :=
  match s.hl.update with
  | none => (s, mbSequence, [])
  | some u =>
    if u.pcie ≠ pcie then (s, mbNotAllowed, [])
    else if !u.erased || decide (u.bytes.length ≠ 0x5000 + imgBody u.bytes) then (updateFail s, mbSequence, [])
    else if !bodyOk u.bytes then (updateFail s, mbDigest, [])
    else if !c.flashOk then (updateFail s, mbFlash, [])
    else
      let s := { s with flash := { s.flash with image := u.bytes, whole := true, secVersion := imgSec u.bytes },
                        hl := { s.hl with update := none, updated := true } }
      (logAdd (evtSet s pgHeadland 8) 0x0050 0xFFFF (pageId pgHeadland) 0 (imgBuild u.bytes), mbOk, [])

/-- FW_END; in recovery mode one that succeeds starts R338 at once (R349). -/
def doFwEnd (s : State) (m : MboxSrc) (c : ImageChecks) (fs : List BootFault) : State :=
  let t := mboxRun s m 0x12 true (noPayload (fwEnd (srcPcie m) c))
  if t.hl.boot = .recovery && t.hl.updated then bootWhole (headlandAgain t) c fs else t
def execFwEnd (m : MboxSrc) (chk : FwEndChecks) (s : State) : Host.Outcome State Fault Refusal :=
  .next (doFwEnd s m chk.image chk.faults)

/-- FW_ABORT. -/
def fwAbort (pcie : Bool) (s : State) : MbRun :=
  match s.hl.update with
  | none => (s, mbOk, [])
  | some u => if u.pcie ≠ pcie then (s, mbNotAllowed, []) else (updateFail s, mbOk, [])
def doFwAbort (s : State) (m : MboxSrc) : State := mboxRun s m 0x13 true (noPayload (fwAbort (srcPcie m)))
def execFwAbort (m : MboxSrc) (s : State) : Host.Outcome State Fault Refusal := .next (doFwAbort s m)

/-- The first `n` steps of SVN are blown, in ascending order: both fuses of each not yet blown (R335, R353). -/
def blowTo : Nat → List (Bool × Bool) → List (Bool × Bool)
  | 0, l => l
  | _, [] => []
  | n + 1, p :: l => (if p.1 || p.2 then p else (true, true)) :: blowTo n l

/-- SVN_COMMIT (R353). `blown`: the last step that reads back as blown. -/
def svnCommit (blown : Nat) (s : State) : MbRun :=
  let run := imgSec s.hl.running
  if s.hl.boot ≠ .up || s.hl.update.isSome || decide (s.flash.secVersion ≠ run) then (s, mbNotAllowed, [])
  else if run ≤ s.flash.svn then (s, mbOk, [])
  else
    let n := min run (max s.flash.svn blown)
    ({ s with flash := { s.flash with svnFuses := blowTo n s.flash.svnFuses } }, if n = run then mbOk else mbFuse, [])
def doSvnCommit (s : State) (m : MboxSrc) (blown : Nat) : State := mboxRun s m 0x14 false (noPayload (svnCommit blown))
def execSvnCommit (m : MboxSrc) (blown : Nat) (s : State) : Host.Outcome State Fault Refusal := .next (doSvnCommit s m blown)

/-! ### Certificates, the log, the journal, the alert -/

/-- A 4-byte field of a payload. -/
def arg (p : List Byte) (i : Nat) : Nat := leNat (slice p (4 * i) 4)

/-- An identity certificate chain (R340): 0 RSA, 1 SLH-DSA. The device certificate carries SERIAL. -/
def idChain (s : State) (i : Nat) : List Byte :=
  let n := s.flash.serial.toNat
  Config.certBefore i ++ Config.serialText n ++ Config.certAfter i n

/-- CERT_READ (R351). -/
def certRead (s : State) (p : List Byte) : MbRun :=
  if p.length ≠ 8 || decide (1 < arg p 0) then (s, mbBadLen, [])
  else
    let c := idChain s (arg p 0)
    (s, mbOk, leBytes 4 c.length ++ (c.drop (arg p 1)).take 248)
def doCertRead (s : State) (m : MboxSrc) : State := mboxRun s m 0x20 true certRead
def execCertRead (m : MboxSrc) (s : State) : Host.Outcome State Fault Refusal := .next (doCertRead s m)

/-- LOG_READ (R369). -/
def logRead (s : State) (p : List Byte) : MbRun :=
  if p.length ≠ 4 then (s, mbBadLen, [])
  else
    let old := match s.hl.log.head? with | some e => e.seq | none => s.hl.logSeq + 1
    let gap := decide (arg p 0 < old)
    let es := (s.hl.log.filter (fun e => decide (arg p 0 ≤ e.seq))).take 7
    let next := match es.getLast? with | some e => e.seq + 1 | none => max (arg p 0) old
    (s, mbOk, leBytes 4 next ++ leBytes 4 (es.length + 256 * b2n gap) ++ es.flatMap (·.bytes))
def doLogRead (s : State) (m : MboxSrc) : State := mboxRun s m 0x30 true logRead
def execLogRead (m : MboxSrc) (s : State) : Host.Outcome State Fault Refusal := .next (doLogRead s m)

/-- LOG_CLEAR (R369). -/
def logClear (s : State) (p : List Byte) : MbRun :=
  if p.length ≠ 4 then (s, mbBadLen, [])
  else ({ s with hl := { s.hl with log := s.hl.log.filter (fun e => decide (arg p 0 < e.seq)), logLost := 0 } }, mbOk,
        leBytes 4 (min 0xFFFFFFFF s.hl.logLost))
def doLogClear (s : State) (m : MboxSrc) : State := mboxRun s m 0x31 true logClear
def execLogClear (m : MboxSrc) (s : State) : Host.Outcome State Fault Refusal := .next (doLogClear s m)

/-- Bytes of the journal MRAM (R386). -/
def journalBytes (s : State) (off n : Nat) : List Byte :=
  (List.range n).map (fun i => (tget [] s.hl.journal ((off + i) / 0x1000)).getD ((off + i) % 0x1000) 0)

/-- CRASH_READ (R369). -/
def crashRead (s : State) (p : List Byte) : MbRun :=
  if p.length ≠ 8 || arg p 1 = 0 || decide (248 < arg p 1) || decide (0x40000 < arg p 0 + arg p 1) then (s, mbBadLen, [])
  else (s, mbOk, journalBytes s (arg p 0) (arg p 1))
def doCrashRead (s : State) (m : MboxSrc) : State := mboxRun s m 0x32 true crashRead
def execCrashRead (m : MboxSrc) (s : State) : Host.Outcome State Fault Refusal := .next (doCrashRead s m)

/-- ALERT_CLEAR (R369). -/
def alertClear (s : State) (p : List Byte) : MbRun :=
  if p.length ≠ 4 then (s, mbBadLen, [])
  else
    let k := pgHeadland + 0x88
    (wf s k 19 16 ((List.range 4).map (fun i => if bitOf (arg p 0) i then 0 else b2n (rb s k (16 + i)) * 2 ^ i)).sum, mbOk, [])
def doAlertClear (s : State) (m : MboxSrc) : State := mboxRun s m 0x33 true alertClear
def execAlertClear (m : MboxSrc) (s : State) : Host.Outcome State Fault Refusal := .next (doAlertClear s m)

/-! ### Resets and power-down (R389) -/

/-- Island resets of a die: its stage sequencer, its steward, its pass ends, its 100 valleys (R387). -/
def dieReset (s : State) (d : Nat) : State :=
  if up s then
    let ps := [pgSeq d, pgSteward d] ++ (List.range 4).map (pgPass d) ++ (List.range 100).map (fun i => pgValley (d * 100 + i))
    ps.foldl (fun s pg => if present s pg then islandReset s pg else s) s
  else s

/-- RESET. -/
def mboxReset (s : State) (p : List Byte) : MbRun :=
  if p.length ≠ 4 || !(decide (arg p 0 < 12) || arg p 0 = 0x100) then (s, mbBadLen, [])
  else (s, mbOk, [])

/-- RESET: answered, then the reset begins; a module reset ends with MODULE_RESET. -/
def doReset (s : State) (m : MboxSrc) : State :=
  let f := (mboxTake s m).2.getD []
  let p := (framePayload (srcPcie m) f).getD []
  let t := mboxRun s m 0x40 true mboxReset
  if frameCmd f = 0x40 && p.length = 4 then
    if arg p 0 < 12 then dieReset t (arg p 0)
    else if arg p 0 = 0x100 && canModule t then moduleDown t else t
  else t
/-- It completes whatever the state of the stacks: an access of it that finds a controller in reset is over with it (R371; log 221). -/
def execReset (m : MboxSrc) (s : State) : Host.Outcome State Fault Refusal := .next { doReset s m with hostWait := false }

/-- POWER_DOWN. -/
def doPowerDown (s : State) (m : MboxSrc) : State :=
  mboxRun s m 0x41 true (noPayload (fun s => ({ s with hl := { s.hl with downing := railsUp s } }, mbOk, [])))
def execPowerDown (m : MboxSrc) (s : State) : Host.Outcome State Fault Refusal := .next (doPowerDown s m)

/-! ### SETTINGS_WRITE (R369) -/

/-- Checkpoint settings that R313 refuses: limits, then weights. -/
def ckptBad (minS maxS : Nat) (ws : List Nat) : Bool :=
  decide (maxS < minS) || decide (minS < 60) || decide (maxS < 60) || ws.any (fun w => decide (256 < w))

/-- The checkpoint settings of item 5: C, the limits, eight weights (R313). -/
def ckptSettings (f : Flash) (d : List Byte) : Option Flash :=
  let ws := (List.range 8).map (fun k => bitsOf (arg d (2 + k)) 8 0)
  let lo := bitsOf (arg d 1) 15 0
  let hi := bitsOf (arg d 1) 31 16
  if ckptBad lo hi ws then none
  else some { f with ckptCost := bitsOf (arg d 0) 15 0, ckptMin := lo, ckptMax := hi, ckptWeights := ws }

/-- A settings item, in flash; none where ITEM or its data is bad. -/
def settingsItem (s : State) (item : Nat) (d : List Byte) : Option Flash :=
  match item with
  | 1 => if d.length = 4 && decide (leNat (slice d 0 1) ≤ 1) then some { s.flash with role := decide (leNat (slice d 0 1) = 1) } else none
  | 2 => if d.length = 8 then some { s.flash with mac := leNat (slice d 0 6) } else none
  | 3 =>
    let w := leNat (slice d 0 2)
    if d.length = 4 && decide (1000 ≤ w) && decide (w ≤ s.grade.tdp) then some { s.flash with budget := some w } else none
  | 4 =>
    if d.length = 4 then some { s.flash with onboot := bitsOf (arg d 0) 1 0, retireOnFail := bitOf (arg d 0) 2 } else none
  | 5 => if d.length = 40 then ckptSettings s.flash d else none
  | _ => none

def settingsWrite (s : State) (p : List Byte) : MbRun :=
  match settingsItem s (arg p 0) (p.drop 4) with
  | some f => if p.length < 4 then (s, mbBadLen, []) else ({ s with flash := f }, mbOk, [])
  | none => (s, mbBadLen, [])
def doSettingsWrite (s : State) (m : MboxSrc) : State := mboxRun s m 0x50 false settingsWrite
def execSettingsWrite (m : MboxSrc) (s : State) : Host.Outcome State Fault Refusal := .next (doSettingsWrite s m)

end Sys2Proof.Machine
end

