-- ==== Sys2Proof/Machine/Service.lean ====
section
/-! DEFINITION. Stewards' firmware (R366) and the checkpoint interval (R310). -/

namespace Sys2Proof.Machine

/-! ### Stewards (R366, R376) -/

/-- RELOAD: an island reset of the steward whose end loads its firmware. SOURCE 1 needs an accepted update and none in progress. -/
def stewardReload (s : State) (d : Nat) (source : Bool) : State :=
  let pg := pgSteward d
  if source && !(s.hl.updated && s.hl.update.isNone) then badWrite s pg
  else
    let s := islandReset s pg
    setBlk s pg { blk s pg with reload := some source }

/-- A write of DS_FW_CTRL (R38, R39). -/
def fwCtrlWrite (s : State) (d value : Nat) : State :=
  let pg := pgSteward d
  if !present s pg then s
  else if stateOf s pg = 1 || stateOf s pg = 5 then badWrite s pg
  else
    let s := wr s (pg + 0x90) (value &&& 2)
    if bitOf value 0 then stewardReload s d (bitOf value 1) else s

def doReload (s : State) (d : Nat) (source : Bool) : State := ownReach s (pgSteward d) (fun s => fwCtrlWrite s d (1 + 2 * b2n source))
def execReload (die : Nat) (source : Bool) (s : State) : Host.Outcome State Fault Refusal := .next (heldBack (.reload die source) s (doReload s die source))

/-- HEARTBEAT_LOST: no heartbeat for 10 ms. -/
def doHeartbeatLost (s : State) (d : Nat) : State :=
  if up s && clocked s (pgSteward d) then setState (errSet (beatStop s d) (pgSteward d) 8) (pgSteward d) 7 else s
def execHeartbeatLost (die : Nat) (s : State) : Host.Outcome State Fault Refusal := .next (doHeartbeatLost s die)

/-! ### The checkpoint interval (R310) -/

/-- INTERVAL: tau rounded to the nearest second, within MIN to MAX. With E the weighted sum in 1/256, tau squared is
2 * C * 3600 * H * 256 / (E + 256). -/
def ckptInterval (f : Flash) : Nat :=
  if f.ckptHours < 24 || f.ckptCost = 0 then 3600
  else
    let e := ((List.range 8).map (fun k => f.ckptWeights.getD k 0 * f.ckptCounts.getD k 0)).sum
    let twice := isqrt (4 * (2 * f.ckptCost * 3600 * f.ckptHours * 256) / (e + 256))
    min f.ckptMax (max f.ckptMin ((twice + 1) / 2))

/-- The counts and the hours of the window, stored (R310). -/
def ckptStore (f : Flash) (now : List Nat) : Flash :=
  let w := (now :: f.ckptWindow).take 720
  { f with hours := f.hours + 1, ckptWindow := w, ckptHours := w.length,
           ckptCounts := (List.range 8).map (fun k => (w.map (fun l => l.getD k 0)).sum) }

/-- INTERVAL_UPDATE: a powered hour has passed. -/
def doIntervalUpdate (s : State) : State :=
  if hlOn s then
    let f := ckptStore s.flash s.hl.ckptNow
    let s := { s with flash := f, hl := { s.hl with ckptNow := List.replicate 8 0 } }
    wf s (pgHeadland + 0xC08) 15 0 (ckptInterval f)
  else s
def execIntervalUpdate (s : State) : Host.Outcome State Fault Refusal := .next (doIntervalUpdate s)

end Sys2Proof.Machine
end

