-- ==== Sys2Proof/Machine/Tidemarks.lean ====
section
/-! DEFINITION. Tidemarks from the host (R221, R224): the window and the tidemark control page. -/

namespace Sys2Proof.Machine

/-- Strandline entry HOST_TM of the job that owns a tidemark (R372). -/
def slHostTm (s : State) (n value : Nat) : State :=
  match ownerOf s 0x94 n with
  | some j => slAdd s j 7 (leBytes 8 n ++ leBytes 8 value)
  | none => s

/-- A write through the window: 64 bits set the tidemark and are no signal; a narrower one is dropped (R224). -/
def doTmWrite (s : State) (fn n width : Nat) (value : Word64) : State :=
  guarded s fn (tmAddr n) (fun j => ownsTm s j n) (fun s =>
    if width = 64 then tmPut (slHostTm s n value.toNat) n value.toNat else errSet s pgQm 11)

def execTmWrite (fn tm width : Nat) (value : Word64) (s : State) : Host.Outcome State Fault Refusal :=
  .next (doTmWrite s fn tm width value)

/-- A read through the window: one consistent value, narrower reads its addressed bytes; 0 where the function does not see it (R43,
R224). -/
def doTmRead (s : State) (fn n width : Nat) : State :=
  answer s fn (s, if fnOk s fn (fun j => ownsTm s j n) then tmGet s n % 2 ^ width else 0)

def execTmRead (fn tm width : Nat) (s : State) : Host.Outcome State Fault Refusal := .next (doTmRead s fn tm width)

/-- A 32-bit write of 0x088 latches the low half (R224). -/
def doTmAddLatch (s : State) (value : Word32) : State := ownReach s pgTm (fun s => { s with tmLatch := value })

def execTmAddLatch (value : Word32) (s : State) : Host.Outcome State Fault Refusal := .next (doTmAddLatch s value)

/-- TM_ADD_VALUE: a 32-bit write of 0x08C adds the written word over the latch, a 64-bit write its own value, to the tidemark of
TM_ADD_INDEX as one signal; the latch is cleared (R224). -/
def doTmAdd (s : State) (wide : Bool) (value : Word64) : State :=
  ownReach s pgTm (fun s =>
    let n := rf s (pgTm + 0x80) 12 0
    let v := if wide then value.toNat else value.toNat % 2 ^ 32 * 2 ^ 32 + s.tmLatch.toNat
    slHostTm (tmSignal { s with tmLatch := 0 } n true v) n v)

def execTmAdd (wide : Bool) (value : Word64) (s : State) : Host.Outcome State Fault Refusal := .next (doTmAdd s wide value)

end Sys2Proof.Machine
end

