-- ==== Sys2Proof/Machine/RegWrite.lean ====
section
/-! DEFINITION. What a write to BAR0 does (R9, R26, R31 to R40, R41, R43, R416): the access rules of pages and records, every register by its
access type, and the registers that do more, which call the operation their own commands call. -/

namespace Sys2Proof.Machine

/-! ### Registers by access type -/

/-- A write of a register's RW and W1C bits (R9). -/
def plainStore (s : State) (r : RegSpec) (key v : Nat) : State :=
  let old := rd s key
  wr s key ((old - (old &&& r.rw) - (old &&& r.w1c &&& v)) + (v &&& r.rw))

/-! ### The header (R28, R31 to R35) -/

/-- CTRL: ENABLE and the hold mode bits are stored; RESET_REQ requests an island reset (R31). -/
def ctrlWrite (s : State) (p : Page) (pg v : Nat) : State :=
  let s := wr s (pg + 0x10) ((v &&& 0x71) + (rd s (pg + 0x10) &&& 2))
  let s := wakeLevel s pg
  if bitOf v 1 then (if canReset p.kind then islandReset s pg else badWrite s pg) else s

/-- ERR_STAT: bits written as 1 clear; ERR_FIRST is free again when none is left (R33). -/
def errClear (s : State) (pg v : Nat) : State :=
  let s := wr s (pg + 0x14) (rd s (pg + 0x14) - (rd s (pg + 0x14) &&& v))
  if rd s (pg + 0x14) = 0 then wf s (pg + 0x1C) 7 7 0 else s

/-- A 32-bit write to the common header. -/
def headerWrite (s : State) (p : Page) (pg off v : Nat) : State :=
  match off with
  | 0x010 => ctrlWrite s p pg v
  | 0x014 => errClear s pg v
  | 0x018 => wr s (pg + 0x18) (v &&& errBits p.kind)
  | 0x024 => if bitOf v 31 then countClear s pg else s
  | 0x028 => wr s (pg + 0x28) (rd s (pg + 0x28) - (rd s (pg + 0x28) &&& v))
  | 0x02C => wr s (pg + 0x2C) (v &&& evtBits p.kind)
  | 0x030 => soundWrite s pg v
  | _ => if 0x40 ≤ off then badWrite s pg else s

/-! ### Registers that do more -/

/-- Totals of R314 for a range register. -/
def rangeTotal (off : Nat) : Nat :=
  match off with
  | 0x090 => 16384
  | 0x094 => 8192
  | 0x098 => 2048
  | _ => 4096

/-- QM_JOB_CTRL: VF_EN, then the commands of its WO bits (R317 to R319, R326). -/
def jobCtlWrite (s : State) (j v : Nat) : State :=
  let s := wf s (jobCtl j) 7 7 (bitsOf v 7 7)
  let s := if bitOf v 31 then jobCommand s (.create (bitOf v 7)) j else s
  let s := if bitOf v 30 then jobCommand s .destroy j else s
  let s := if bitOf v 29 then jobCommand s .reset j else s
  if bitOf v 28 then jobInval s j false else s

/-- QM_VALLEY_ASSIGN (R316, R330). -/
def assignWrite (s : State) (v : Nat) : State :=
  let n := bitsOf v 10 0
  if 1200 ≤ n then badWrite s pgJob
  else
    let s := wr s (pgJob + 0xA0) (v &&& 0x3F07FF)
    let s := if bitOf v 31 then valleyGive s (bitsOf v 21 16) n else s
    if bitOf v 30 then valleyTake s (bitsOf v 21 16) n else s

/-- Registers of the job table (R320, R330, R377). -/
def jobTableWrite (s : State) (r : RegSpec) (off v : Nat) : State :=
  let j := rf s (pgJob + 0x80) 5 0
  let k := bk (pgJob + off) j
  let free := decide (jobState s j = 0)
  if off = 0x84 then jobCtlWrite s j v
  else if off = 0x88 || off = 0x8C then (if free then plainStore s r k v else badWrite s pgJob)
  else if off = 0x90 || off = 0x94 || off = 0x98 || off = 0x9C then
    if !free || decide (rangeTotal off < bitsOf v 30 16) || decide (rangeTotal off < bitsOf v 13 0 + bitsOf v 30 16) then badWrite s pgJob
    else plainStore s r k v
  else if off = 0xA0 then assignWrite s v
  else if off = 0x100 then slControl s j v
  else if off = 0x108 || off = 0x10C then (if slOn s j then badWrite s pgJob else plainStore s r k v)
  else if off = 0x110 then
    if slOn s j || bitsOf v 11 0 = 0 || decide (2048 < bitsOf v 11 0) then badWrite s pgJob else plainStore s r k v
  else plainStore s r (if off = 0x80 then pgJob + off else k) v

/-- Registers of a stage sequencer (R266). -/
def seqPageWrite (s : State) (d : Nat) (r : RegSpec) (off v : Nat) : State :=
  let x := rf s (pgSeq d + 0x80) 2 0
  if off = 0x80 then plainStore s r (pgSeq d + off) v
  else if off = 0x84 then seqWrite s d x v
  else if rb s (seqReg d x 0x84) 31 && decide (off < 0x98) then badWrite s (pgSeq d)
  else plainStore s r (seqReg d x off) v

/-- A field of milliseconds that takes 1 to 60,000. -/
def msBad (n : Nat) : Bool := n = 0 || decide (60000 < n)

/-- Registers of Estuary (R291). -/
def estWrite (s : State) (r : RegSpec) (off v : Nat) : State :=
  let j := rf s (pgEst + 0x84) 5 0
  if off = 0x80 then (if !s.ctxs.isEmpty || bitsOf v 15 0 = 0 then badWrite s pgEst else plainStore s r (pgEst + off) v)
  else if off = 0x88 then estJobWrite s j v
  else if off = 0x8C then (if jobInCtx s j then badWrite s pgEst else plainStore s r (estReg j off) v)
  else if off = 0x90 then
    if jobInCtx s j || msBad (bitsOf v 31 16) || msBad (bitsOf v 15 0) then badWrite s pgEst else plainStore s r (estReg j off) v
  else plainStore s r (pgEst + off) v

/-- The job has a mirror round in progress (R311). -/
def roundRuns (s : State) (j : Nat) : Bool := match getRound s j with | some r => !r.failed | none => false

/-- Registers of the Tideway page (R294, R296, R301, R307, R311). -/
def twyWrite (s : State) (r : RegSpec) (off v : Nat) : State :=
  let j := rf s (pgTwy + 0x88) 5 0
  if off = 0x84 then
    if bitsOf v 15 0 < 50 then badWrite s pgTwy
    else
      let s := plainStore s r (pgTwy + off) v
      if bitOf v 31 then wakeOut s else s
  else if off = 0x8C then
    if roundRuns s j || bitsOf v 1 0 = 3 then badWrite s pgTwy
    else
      let s := plainStore s r (twyReg j off) v
      if bitOf v 31 then mirrorAgain s j else s
  else if off = 0x90 || (decide (0x98 ≤ off) && decide (off < 0xA8)) then
    if roundRuns s j then badWrite s pgTwy else plainStore s r (twyReg j off) v
  else if off = 0xB8 then (if bitOf v 31 then restoreStart s v else plainStore s r (pgTwy + off) v)
  else plainStore s r (pgTwy + off) v

/-- The checkpoint registers, kept in flash (R313). -/
def ckptWrite (s : State) (off v : Nat) : State :=
  let f := s.flash
  if off = 0xC00 then { s with flash := { f with ckptCost := bitsOf v 15 0 } }
  else if off = 0xC04 then
    if ckptBad (bitsOf v 15 0) (bitsOf v 31 16) [] then badWrite s pgHeadland
    else { s with flash := { f with ckptMin := bitsOf v 15 0, ckptMax := bitsOf v 31 16 } }
  else if 0xC10 ≤ off && off < 0xC30 then
    if 256 < bitsOf v 8 0 then badWrite s pgHeadland
    else { s with flash := { f with ckptWeights := listSet f.ckptWeights ((off - 0xC10) / 4) (bitsOf v 8 0) } }
  else s

/-- Registers of the Headland page (R357). A frame waits in HDL_MBOX_REQ from GO until its command performs it. -/
def headlandWrite (s : State) (r : RegSpec) (off v : Nat) : State :=
  let busy := decide (rf s (pgHeadland + 0x8C) 17 16 = 1)
  if 0xC00 ≤ off then ckptWrite s off v
  else if off = 0x8C then
    if !bitOf v 31 then s else if busy then badWrite s pgHeadland else wf s (pgHeadland + 0x8C) 17 16 1
  else if 0x400 ≤ off && off < 0x500 && busy then badWrite s pgHeadland
  else plainStore s r (pgHeadland + off) v

/-- Registers of the power page (R387, R395). -/
def powerWrite (s : State) (r : RegSpec) (off v : Nat) : State :=
  if off = 0x88 then
    if bitsOf v 15 0 < 1000 || s.grade.tdp < bitsOf v 15 0 then badWrite s pgPwr else plainStore s r (pgPwr + off) v
  else if off = 0x98 then
    let s := plainStore s r (pgPwr + off) v
    if bitOf v 31 then moduleDown s else if bitOf v 30 then deviceBreak s else s
  else plainStore s r (pgPwr + off) v

/-- Registers of a valley (R132, R157, R187). -/
def valleyWrite (s : State) (r : RegSpec) (pg off v : Nat) : State :=
  if off = 0xC00 then
    let s := plainStore s r (pg + off) v
    if rd s (pg + 0xC00) = 0 then wf s (pg + 0xC04) 31 31 0 else s
  else if off = 0xC18 then (if bitOf v 31 then wr s (pg + off) 0 else s)
  else plainStore s r (pg + off) v

/-- Registers of an engine (R211). -/
def engWrite (s : State) (k : EngKind) (r : RegSpec) (pg off v : Nat) : State :=
  if off = 0x90 then
    match k with
    | .ebb => s
    | .flood => if bitsOf v 11 0 < 64 || 2048 < bitsOf v 11 0 then badWrite s pg else plainStore s r (pg + off) v
  else if off = 0xB0 && bitsOf v 15 0 = 0 then badWrite s pg
  else plainStore s r (pg + off) v

/-- Registers of the queue manager, the escalation table and tidemark control (R77, R224, R229). -/
def qmWrite (s : State) (k : PageKind) (r : RegSpec) (pg off v : Nat) : State :=
  match k, off with
  | .qm, 0x080 =>
    let s := plainStore s r (pg + off) v
    if bitOf v 31 then { s with stalls := tput {} s.stalls (bitsOf v 5 0) {} } else s
  | .esc, 0x084 =>
    let s := if bitOf v 1 then escCommit s (bitOf v 2) else s
    if bitOf v 0 then escRead s else s
  | .tmCtl, 0x088 => doTmAddLatch s (BitVec.ofNat 32 v)
  | .tmCtl, 0x08C => doTmAdd s false (BitVec.ofNat 64 v)
  | _, _ => plainStore s r (pg + off) v

/-- A 32-bit write to a register of the block's own. -/
def ownWrite (s : State) (p : Page) (r : RegSpec) (pg off v : Nat) : State :=
  match p.kind with
  | .headland => headlandWrite s r off v
  | .qm | .esc | .tmCtl => qmWrite s p.kind r pg off v
  | .jobTable => jobTableWrite s r off v
  | .narrows =>
    if off = 0x80 && (bitsOf v 11 8 = 0 || decide (8 < bitsOf v 11 8)) then badWrite s pg else plainStore s r (pg + off) v
  | .power => powerWrite s r off v
  | .steward => if off = 0x90 then fwCtrlWrite s p.inst v else plainStore s r (pg + off) v
  | .seq => seqPageWrite s p.inst r off v
  | .valley => valleyWrite s r pg off v
  | .hbmCtl =>
    if off = 0x84 && (bitsOf v 15 8 = 0 || decide (168 < bitsOf v 15 8)) then badWrite s pg else plainStore s r (pg + off) v
  | .berm => if off = 0xA0 && msBad (bitsOf v 15 0) then badWrite s pg else plainStore s r (pg + off) v
  | .flood => engWrite s .flood r pg off v
  | .ebb => engWrite s .ebb r pg off v
  | .estuary => estWrite s r off v
  | .port =>
    let s := plainStore s r (pg + off) v
    if off = 0x80 && bitOf v 27 then doRetrain s p.inst else s
  | .tideway => twyWrite s r off v
  | .twyLink => if off = 0x80 && bitOf v 30 then doLinkRetrain s p.inst else s
  | .identity | .grade | .passEnd | .hbmReg => plainStore s r (pg + off) v

/-! ### Pages (R26, R37 to R39) -/

/-- Block-specific registers that a held block's page takes (R38). -/
def heldTakes (k : PageKind) (off : Nat) : Bool :=
  match k with
  | .valley => ([0xC00, 0xC18, 0xD04, 0x118, 0x128] : List Nat).contains off
  | .steward => off = 0x98
  | .flood | .ebb => off = 0x80 || off = 0xA0
  | .tideway => off = 0x88
  | _ => false

/-- A 32-bit write to a page at a multiple of 4. -/
def write32 (s : State) (p : Page) (pg off v : Nat) : State :=
  if !present s pg then s
  else if off < 0x80 then headerWrite s p pg off v
  else match regSpec p.kind off with
    | none => s
    | some r =>
      if stateOf s pg = 1 then badWrite s pg
      else if stateOf s pg = 5 && !heldTakes p.kind off then badWrite s pg
      else ownWrite s p r pg off v

/-- A write to a page (R26): `width` is 8, 16, 32 or 64. -/
def writePage (s : State) (p : Page) (pg off width v : Nat) : State :=
  if !present s pg then s
  else if width < 32 || off % 4 ≠ 0 then badWrite s pg
  else if width = 32 then write32 s p pg off (v % 2 ^ 32)
  else if p.kind = .tmCtl && off = 0x88 then doTmAdd s true (BitVec.ofNat 64 v)
  else write32 (write32 s p pg off (v % 2 ^ 32)) p pg (off + 4) (v / 2 ^ 32 % 2 ^ 32)

/-! ### Records (R214, R215, R218, R224, R416) -/

/-- The mask and the value of a write at offset `o` of a record, in its 64-bit word. -/
def recordPart (o width v : Nat) : Nat × Nat :=
  ((2 ^ width - 1) * 2 ^ (8 * (o % 8)), v % 2 ^ width * 2 ^ (8 * (o % 8)))

/-- A write to a queue context: its command word resets, stops and resumes. -/
def queueCtxWrite (s : State) (q o width v : Nat) : State :=
  if width < 32 || o % 4 ≠ 0 then badContext s
  else
    let m := recordPart o width v
    if o / 8 = 6 then
      let c := m.2
      let s := if bitOf c 2 then queueBreak s q else s
      let s := if bitOf c 1 then stopCmd s q else s
      if bitOf c 0 then resumeCmd s q else s
    else queueWrite s q (o / 8) m.1 m.2

/-- A write to a ring context. -/
def ringCtxWrite (s : State) (n o width v : Nat) : State :=
  if width < 32 || o % 4 ≠ 0 then badContext s
  else let m := recordPart o width v; resetPump (ringWriteCtx s n (o / 8) m.1 m.2)

/-- A write to a doorbell: 32 bits at offset 0. -/
def bellWrite (s : State) (q o width v : Nat) : State :=
  if o = 0 && 32 ≤ width then bell s q (BitVec.ofNat 32 (v % 2 ^ 32)) else s

/-- A write of BAR0 that one record or register takes; a virtual function's stray write is logged (R43). -/
def barWrite1 (s : State) (fn a width v : Nat) : State :=
  if 0x10000 ≤ a && a < 0x20000 then
    doTmWrite s fn ((a - 0x10000) / 8) (if a % 8 = 0 then width else 32) (BitVec.ofNat 64 v)
  else if 0x100000 ≤ a && a < 0x200000 then
    let q := (a - 0x100000) / 0x40
    guarded s fn a (fun j => ownsQueue s j q) (fun s => bellWrite s q (a % 0x40) width v)
  else if 0x200000 ≤ a && a < 0x300000 then
    let q := (a - 0x200000) / 0x40
    guarded s fn a (fun j => ownsQueue s j q) (fun s => queueCtxWrite s q (a % 0x40) width v)
  else if 0x300000 ≤ a && a < 0x310000 then
    let n := (a - 0x300000) / 0x20
    guarded s fn a (fun j => ownsRing s j n) (fun s => ringCtxWrite s n (a % 0x20) width v)
  else if fn ≠ 0 then strayWrite s fn a
  else match pageOf a with
    | some p =>
      if s.hl.boot = .up then writePage s p (a / 0x1000 * 0x1000) (a % 0x1000) width v else s
    | none => s

/-- A write of BAR0 by a function; in D3hot it completes as Unsupported Request (R406). A 64-bit write at a multiple of 4 but not of 8
is two writes in ascending order (R26, R416). -/
def barWrite (s : State) (fn a width v : Nat) : State :=
  if s.hl.boot ≠ .up then s
  else if s.hl.d3hot.contains fn then say s .unsupported
  else if width = 64 && a % 8 = 4 && !(decide (0x10000 ≤ a) && decide (a < 0x20000)) then
    barWrite1 (barWrite1 s fn a 32 (v % 2 ^ 32)) fn (a + 4) 32 (v / 2 ^ 32)
  else barWrite1 s fn a width v

/-- REGISTER_WRITE. -/
def doRegisterWrite (s : State) (fn a width : Nat) (value : Word64) : State := barWrite s fn a width value.toNat
def execRegisterWrite (fn addr width : Nat) (value : Word64) (s : State) : Host.Outcome State Fault Refusal :=
  .next (heldBack (.registerWrite fn addr width value) s (doRegisterWrite s fn addr width value))

end Sys2Proof.Machine
end

