-- ==== Sys2Proof/Machine/RowUnit.lean ====
section
/-! DEFINITION. The row unit and the Crest unit (R121 to R131): a row task's gather and apply phases. -/

namespace Sys2Proof.Machine

/-! ### Arithmetic (R124) -/

/-- A whole number as FP32. -/
def f32OfNat (n : Nat) : Word32 := toF32 (.fin false n 0)

/-- rsqrt of R124: exact at zero, infinity and where there is no result, within its bound elsewhere. -/
def frsqrt (x : Word32) : Word32 :=
  match f32 x with
  | .nan => f32Nan
  | .inf n => if n then f32Nan else f32Zero
  | .fin n m e => if m = 0 then toF32 (.inf n) else if n then f32Nan else rsqrtFinite x m e

def fexp (x : Word32) : Word32 := fnApply .exp x

/-- The larger of two values. -/
def fmax (a b : Word32) : Word32 := if flt a b then b else a

/-- Adjacent pairs combined, an unpaired entry passed up (R124). -/
def pairUp {α : Type} (f : α → α → α) : List α → List α
  | a :: b :: r => f a b :: pairUp f r
  | l => l

/-- The fixed binary tree of the row unit (R124): level after level until one entry is left. -/
def treeUp {α : Type} (f : α → α → α) : Nat → List α → List α
  | 0, l => l
  | k + 1, l => treeUp f k (pairUp f l)

def treeOf {α : Type} (f : α → α → α) (d : α) (l : List α) : α := (treeUp f l.length l).headD d

/-- Welford's step (R125). -/
def Part.welford (p : Part) (x : Word32) : Part :=
  let n := p.n + 1
  let d := fsub x p.mean
  let mean := fadd p.mean (fdiv d (f32OfNat n))
  { p with n := n, mean := mean, m2 := fadd p.m2 (fmul d (fsub x mean)) }

/-- Welford's combination (R125). -/
def Part.joinW (a b : Part) : Part :=
  if a.n = 0 then b
  else if b.n = 0 then a
  else
    let n := a.n + b.n
    let d := fsub b.mean a.mean
    let w := fdiv (f32OfNat b.n) (f32OfNat n)
    { a with n := n, mean := fadd a.mean (fmul d w),
             m2 := fadd (fadd a.m2 b.m2) (fmul (fmul d d) (fmul (f32OfNat a.n) w)) }

/-- One included element into a core's partials. -/
def Part.step (op : Nat) (p : Part) (x dy gamma : Word32) : Part :=
  match op with
  | 1 => p.welford x
  | 2 => { p with n := p.n + 1, q := ffma x x p.q }
  | 3 =>
    if flt p.m x then { p with n := p.n + 1, s := fadd (fmul p.s (fexp (fsub p.m x))) f32One, m := x }
    else { p with n := p.n + 1, s := fadd p.s (fexp (fsub x p.m)) }
  | 4 =>
    let g := fmul dy gamma
    { p.welford x with s1 := fadd p.s1 g, s2 := ffma g x p.s2 }
  | 5 => { p with n := p.n + 1, s2 := ffma (fmul dy gamma) x p.s2, q := ffma x x p.q }
  | 6 =>
    if flt p.m x then
      let k := fexp (fsub p.m x)
      { p with n := p.n + 1, s := fadd (fmul p.s k) f32One, t := fadd (fmul p.t k) dy, m := x }
    else
      let e := fexp (fsub x p.m)
      { p with n := p.n + 1, s := fadd p.s e, t := ffma dy e p.t }
  | _ => { p with n := p.n + 1 }

/-- Two partials combined (R125, R126). Where neither has an included position, m - max(ma, mb) has no value: nothing is included
yet (log 176). -/
def Part.join (op : Nat) (a b : Part) : Part :=
  match op with
  | 1 => a.joinW b
  | 2 => { a with n := a.n + b.n, q := fadd a.q b.q }
  | 4 => { a.joinW b with s1 := fadd a.s1 b.s1, s2 := fadd a.s2 b.s2 }
  | 5 => { a with n := a.n + b.n, q := fadd a.q b.q, s2 := fadd a.s2 b.s2 }
  | 3 | 6 =>
    if a.n = 0 && b.n = 0 then a
    else
      let m := fmax a.m b.m
      let ea := fexp (fsub a.m m)
      let eb := fexp (fsub b.m m)
      { a with n := a.n + b.n, m := m, s := fadd (fmul a.s ea) (fmul b.s eb), t := fadd (fmul a.t ea) (fmul b.t eb) }
  | _ => { a with n := a.n + b.n }

/-- The output at an included position, and the terms dγ and dβ take from it (R125, R126). -/
def rowOutput (op : Nat) (eps : Word32) (p : Part) (x dy gamma beta : Word32) : Word32 × Word32 × Word32 :=
  let n := f32OfNat p.n
  let rn := frsqrt (fadd (fdiv p.m2 n) eps)
  let rq := frsqrt (fadd (fdiv p.q n) eps)
  match op with
  | 1 => (ffma (fmul (fsub x p.mean) rn) gamma beta, 0, 0)
  | 2 => (fmul (fmul x rq) gamma, 0, 0)
  | 3 => (fmul (fexp (fsub x p.m)) (fdiv f32One p.s), 0, 0)
  | 4 =>
    let g := fmul dy gamma
    let a := fdiv p.s1 n
    let b := fmul rn (fdiv (fsub p.s2 (fmul p.mean p.s1)) n)
    let xhat := fmul (fsub x p.mean) rn
    (fmul rn (ffma (fneg xhat) b (fsub g a)), fmul dy xhat, dy)
  | 5 =>
    let c := fmul (fmul rq rq) (fdiv p.s2 n)
    (fmul rq (ffma (fneg x) c (fmul dy gamma)), fmul dy (fmul x rq), 0)
  | 6 =>
    let sinv := fdiv f32One p.s
    let y := fmul (fexp (fsub x p.m)) sinv
    (fmul y (fsub dy (fmul p.t sinv)), 0, 0)
  | _ => (x, 0, 0)

/-! ### Reading a core's segment -/

/-- What a core reads of a row: x, dy, γ and β by position of the segment; whether a word was poisoned. -/
structure SegIn where
  s     : State
  bad   : Bool := false
  x     : List Word32 := []
  dy    : List Word32 := []
  gamma : List Word32 := []
  beta  : List Word32 := []

/-- The elements of a row of an input tensor, scaled by IN_SCALE (R121). -/
def segTensor (s : State) (core : Nat) (m : Image) (t : Tensor) (r : Nat) : State × Bool × List Word32 :=
  let f := iFmtA m
  let k := segElems f
  (List.range (cdiv (rSeg m) k)).foldl (fun (a : State × Bool × List Word32) i =>
    let n := min k (rSeg m - i * k)
    let g := sramLoad a.1 core (skewAddr t.base t.nseg r i) (n * elemBytes f)
    (g.s, a.2.1 || g.bad.any id, a.2.2 ++ (List.range n).map (fun j =>
      fmul (widen (pubFmt f) (leNat (slice g.bytes (j * elemBytes f) (elemBytes f)))) (rInScale m)))) (s, false, [])

/-- A vector of GAMMA_FMT held for the segment. -/
def segVector (s : State) (core : Nat) (m : Image) (base : Nat) : State × Bool × List Word32 :=
  let w := elemBytes (iFmtB m)
  let g := sramLoad s core base (rSeg m * w)
  (g.s, g.bad.any id, (List.range (rSeg m)).map (fun j => widen (pubFmt (iFmtB m)) (leNat (slice g.bytes (j * w) w))))

/-- A core reads row `r`: in the gather phase what its partials need, in the apply phase all. -/
def segRead (s : State) (core : Nat) (m : Image) (r : Nat) (apply : Bool) : SegIn :=
  let op := rOp m
  let a := segTensor s core m (rX m) r
  let b := if op = 4 || op = 5 || op = 6 then segTensor a.1 core m (rDy m) r else (a.1, false, [])
  let c := if op = 4 || op = 5 || (apply && (op = 1 || op = 2)) then segVector b.1 core m (rGamma m) else (b.1, false, [])
  let d := if apply && op = 1 then segVector c.1 core m (rBeta m) else (c.1, false, [])
  { s := d.1, bad := a.2.1 || b.2.1 || c.2.1 || d.2.1, x := a.2.2, dy := b.2.2, gamma := c.2.2, beta := d.2.2 }

/-- Position `i` of a core's segment is included in row `r` (R121, R123). -/
def rowIncluded (m : Image) (r pos : Nat) (x : Word32) : Bool :=
  let soft := rOp m = 3 || rOp m = 6
  decide (pos < rLen m) && !(soft && rCausal m && decide ((pos : Int) > (r : Int) + rOffset m)) && !(soft && decide (x = f32NegInf))

/-- First position of a core's segment. -/
def segFirst (m : Image) (n : Nat) : Nat := (n - rFirst m) * rSeg m

/-- Partials of one core for a row. -/
def segPart (m : Image) (n r : Nat) (g : SegIn) : RowStat :=
  (List.range (rSeg m)).foldl (fun (a : RowStat) i =>
    let x := g.x.getD i 0
    let dy := g.dy.getD i 0
    if rowIncluded m r (segFirst m n + i) x then
      { a with part := a.part.step (rOp m) x dy (g.gamma.getD i 0), nan := a.nan || !isFinite32 x || !isFinite32 dy }
    else a) {}

/-! ### The Crest unit (R128 to R130) -/

/-- A candidate goes before another (R129). -/
def crestBefore (up : Bool) (a b : Nat × Word32) : Bool :=
  let na := decide (f32 a.2 = .nan)
  let nb := decide (f32 b.2 = .nan)
  if na || nb then (!na && nb) || (na && nb && decide (a.1 < b.1))
  else if flt a.2 b.2 then up
  else if flt b.2 a.2 then !up
  else decide (a.1 < b.1)

/-- A candidate joins the list of the best `k`. -/
def crestInsert (up : Bool) (x : Nat × Word32) : List (Nat × Word32) → List (Nat × Word32)
  | [] => [x]
  | a :: r => if crestBefore up x a then x :: a :: r else a :: crestInsert up x r

/-- The first CREST_K of a list of candidates (R129). -/
def crestBest (m : Image) (all : List (Nat × Word32)) : List (Nat × Word32) :=
  all.foldl (fun b x => (crestInsert (rCrestDir m) x b).take (rCrestK m)) []

/-- The records of a row written to CREST_CORE (R130); a row with too few is counted. -/
def crestRow (s : State) (v l : Nat) (m : Image) (r : Nat) (all : List (Nat × Word32)) : State :=
  let k := rCrestK m
  let best := crestBest m all
  let bytes := (List.range k).flatMap (fun i => match best[i]? with
    | some e => leBytes 4 e.2.toNat ++ leBytes 4 e.1
    | none => leBytes 4 f32Nan.toNat ++ leBytes 4 0xFFFFFFFF)
  let s := if best.length < k then inc32 s (pgValley v + 0xC24) 1 else s
  match logical s v (rCrestCore m) with
  | some c => taskStore s v l c (rCrestBase m + r * k * 8) bytes
  | none => s

/-! ### The phases (R127) -/

/-- A core's segment of a row written through stages 4 and 5. -/
def segWrite (s : State) (v n l core : Nat) (m : Image) (r : Nat) (ys : List Word32) : State :=
  let d : Dest := ⟨iTensor m 21, segFirst m n, none⟩
  if iOutFmt m = 5 then
    (List.range (rSeg m / 64)).foldl (fun s b =>
      let q := quantRow m (getCore s core).gen ((ys.drop (64 * b)).take 64)
      putBlock (setCore s core ((getCore s core).setGen q.1)) v n l core d m r (64 * b) q.2) s
  else
    (List.range (rSeg m / 8)).foldl (fun s b =>
      storeRow s v n l core m d r (8 * b) (((ys.drop (8 * b)).take 8).map some)) s

/-- The column sums of a core after a row (R126): dγ from COLSUM_BASE, dβ after it. -/
def colsumAdd (s : State) (v l core : Nat) (m : Image) (r : Nat) (terms : List (Word32 × Word32)) : State × Bool :=
  let one := fun (s : State) (base : Nat) (xs : List Word32) =>
    let g := sramLoad s core base (4 * xs.length)
    let fresh := rColInit m && r = 0
    let new := (List.range xs.length).map (fun i =>
      let x := xs.getD i 0
      if fresh then x else fadd (BitVec.ofNat 32 (leNat (slice g.bytes (4 * i) 4))) x)
    if !fresh && g.bad.any id then (g.s, true)
    else (taskStore g.s v l core base (new.flatMap (fun w => leBytes 4 w.toNat)), false)
  let a := one s (rColsumBase m) (terms.map (·.1))
  if rOp m = 4 then let b := one a.1 (rColsumBase m + 4 * rSeg m) (terms.map (·.2)); (b.1, a.2 || b.2) else a

/-- What the apply phase of a row gathers: the state, whether a word was poisoned, candidates for the Crest unit. -/
structure ApplyRun where
  s     : State
  bad   : Bool := false
  cands : List (Nat × Word32) := []

/-- One core applies a row. A row with an included NaN or infinity has its outputs replaced (R123); its terms of the column sums are those
its statistics give (log 177). -/
def segApply (x : ApplyRun) (v n l : Nat) (m : Image) (r : Nat) (st : RowStat) : ApplyRun :=
  match logical x.s v n with
  | none => { x with bad := true }
  | some core =>
    let g := segRead x.s core m r true
    if g.bad then { x with s := g.s, bad := true }
    else
      let out := (List.range (rSeg m)).map (fun i =>
        let e := g.x.getD i 0
        let inc := rowIncluded m r (segFirst m n + i) e
        let o := rowOutput (rOp m) (rEps m) st.part e (g.dy.getD i 0) (g.gamma.getD i 0) (g.beta.getD i 0)
        if inc then (inc, o) else (inc, (f32Zero, f32Zero, f32Zero)))
      let ys := out.map (fun o => if st.nan then f32Nan else o.2.1)
      let s := segWrite g.s v n l core m r ys
      let c := if rColsum m && (rOp m = 4 || rOp m = 5) then colsumAdd s v l core m r (out.map (fun o => o.2.2)) else (s, false)
      let cs := (List.range (rSeg m)).filterMap (fun i =>
        if (out.getD i (false, 0, 0, 0)).1 then some (segFirst m n + i, ys.getD i 0) else none)
      { s := c.1, bad := x.bad || c.2, cands := if usesCrest m then x.cands ++ cs else [] }

/-- What a core gathers of a row (R127): its partials; under OP 7 its filter's best CREST_K (R131). -/
def segStat (m : Image) (n r : Nat) (g : SegIn) : RowStat :=
  let p := segPart m n r g
  if rOp m ≠ 7 then p
  else
    let xs := (List.range (rSeg m)).filterMap (fun k =>
      if rowIncluded m r (segFirst m n + k) (g.x.getD k 0) then some (segFirst m n + k, g.x.getD k 0) else none)
    { p with nan := false, cands := crestBest m xs }

/-- What a core has gathered so far, and whether a word was poisoned. -/
structure GatherRun where
  s     : State
  bad   : Bool := false
  stats : List RowStat := []

/-- The gather phase of a core (R127): every row of the task in ascending order. -/
def coreGather (s : State) (core n : Nat) (m : Image) : GatherRun :=
  (List.range (rRows m)).foldl (fun (x : GatherRun) r =>
    if x.bad then x
    else
      let g := segRead x.s core m r false
      { s := g.s, bad := g.bad, stats := x.stats ++ [segStat m n r g] }) { s := s }

/-- Every participating core has passed its partials to the row unit. -/
def Task.gatheredAll (t : Task) : Bool := t.cores.all (fun n => !(tget [] t.gathered n).isEmpty)

/-- A core gathers its segments of a row task (R127). With the first core's the row unit is that task's; with the last core's it holds every
row's statistics, and the merge stage the candidates of OP 7 (R131, R132). -/
def rowGather (s : State) (v n l : Nat) : State :=
  let m := ((getV s v).slot l).words
  match logical s v n with
  | none => taskStop s v l { status := stEcc }
  | some core =>
    let pg := pgValley v
    let first := (taskOf s v l).all (·.gathered.isEmpty)
    let g := coreGather s core n m
    let s := if first then wr g.s (pg + 0xC10) (2 ^ 30) else g.s
    let s := if usesCrest m then wf s (pg + 0xC20) 15 8 (rCrestK m) else s
    if g.bad then taskStop s v l { status := stEcc }
    else
      let s := taskMod s v l (fun t => { t with gathered := tput [] t.gathered n g.stats })
      if (taskOf s v l).any (·.gatheredAll) then
        let s := wf s (pg + 0xC10) 12 0 (rRows m)
        if rOp m = 7 then wf s (pg + 0xC20) 1 1 1 else s
      else s

/-- The statistics of row `r` over the participating cores, in the row unit's tree (R124). -/
def rowStat (m : Image) (t : Task) (r : Nat) : RowStat :=
  let l := t.cores.map (fun n => (tget [] t.gathered n).getD r {})
  { part := treeOf (Part.join (rOp m)) {} (l.map (·.part)), nan := l.any (·.nan), cands := l.flatMap (·.cands) }

/-! ### SLOT_RUN -/

/-- SLOT_RUN (R168): a row task's gather phase begins on a core as its slot runs there (R127). -/
def doSlotRun (s : State) (v n l : Nat) : State :=
  let y := (getV s v).slot l
  match y.task with
  | some t =>
    if coresIssue s v && t.cores.contains n && !(t.run n).on && t.ending.isNone && !slotBlocked s v l n y.armNo then
      let s := slotMod s v l (fun y => { y with st := .running, task := some (t.setRun n { t.run n with on := true }) })
      let s := if otherBusy s v l n then s else seedCore s v l n
      if iKind y.words = 2 then rowGather s v n l else s
    else s
  | none => s
def execSlotRun (v c lslot : Nat) (s : State) : Host.Outcome State Fault Refusal := .next (heldBack (.slotRun v c lslot) s (doSlotRun s v c lslot))

/-! ### ROW_APPLY -/

/-- The apply phase of row `r` (R127). VLY_FLAG_FIRST.CORE takes ROW_CORE_FIRST for a row task (log 81). -/
def rowApplyOne (s : State) (v l : Nat) (m : Image) (cores : List Nat) (r : Nat) (st : RowStat) : State :=
  let a := cores.foldl (fun a n => segApply a v n l m r st) { s := s }
  let s := if usesCrest m then crestRow a.s v l m r a.cands else a.s
  let s := if st.nan then incSat (drainFlags s v (rFirst m) l 0 flNonfinite true) (pgValley v + 0xC18) 15 0 1 else s
  let s := wf (wf s (pgValley v + 0xC10) 31 30 2) (pgValley v + 0xC10) 28 16 (r + 1)
  if a.bad then taskStop s v l { status := stEcc } else s

/-- Row `r` of a row task from its gathered statistics to its writes (R127). OP 7 has no apply phase: the merge stage writes its records. -/
def rowRun (s : State) (v l : Nat) (m : Image) (t : Task) (r : Nat) : State :=
  let st := rowStat m t r
  inc32 (if rOp m = 7 then crestRow s v l m r st.cands else rowApplyOne s v l m t.cores r st) (pgValley v + 0xC14) 1

/-- The last row of a row task is written: the cores' generators end their steps, and the merge stage is empty (R66, R132). -/
def rowsDone (s : State) (v l : Nat) (t : Task) : State :=
  let s := wf (t.cores.foldl (fun s n => endDraws s v n) s) (pgValley v + 0xC20) 1 1 0
  slotTail (taskMod s v l (fun t => { t with applied := true })) v l

/-- ROW_APPLY (R127): the row unit applies the next row of a slot's row task, once every participating core has gathered; a task that is
cancelled or aborted stops after its current row (R205, R230; log 73). -/
def doRowApply (s : State) (v l : Nat) : State :=
  let y := (getV s v).slot l
  let m := y.words
  match y.task with
  | some t =>
    let waits := iHandOff m && decide (rOp m ≠ 7) && !streamTakes s m
    if !coresIssue s v || decide (iKind m ≠ 2) || t.ending.isSome || t.applied || !t.gatheredAll || waits then s
    else
      let s := t.cores.foldl (fun s n => seedCore s v l n) s
      let s := taskMod (rowRun s v l m t t.row) v l (fun t => { t with row := t.row + 1 })
      if t.row + 1 = rRows m then rowsDone s v l t else s
  | none => s
def execRowApply (v lslot : Nat) (s : State) : Host.Outcome State Fault Refusal := .next (doRowApply s v lslot)

end Sys2Proof.Machine
end

