-- ==== Sys2Proof/Machine/Sideband.lean ====
section
/-! DEFINITION. The sideband (R354, R355, R370, R395), I3C, JTAG (R404) and PCIe configuration requests (R338, R406, R407). -/

namespace Sys2Proof.Machine

/-! ### Shadow registers -/

/-- One shadow register, as a refresh takes it (R355, R370, R395). -/
def shadowReg (s : State) (i : Nat) : Nat :=
  if i < 7 then infoReg s i
  else if i = 7 then (s.hl.refreshes + 1) % 2 ^ 32
  else if i = 8 then s.hl.sbTag % 256 * 2 ^ 24 + b2n s.hl.sbDropped * 2 ^ 23 + s.hl.sbState % 4
  else if i = 9 then rf s (pgHeadland + 0x88) 23 16
  else if i = 0x10 then rd s (pgPwr + 0x80)
  else if i = 0x11 then rd s (pgPwr + 0x84)
  else if i = 0x12 then rd s (pgPwr + 0x8C)
  else if i = 0x13 then rd s (pgPwr + 0x90)
  else if 0x14 ≤ i && i < 0x20 then s.hl.dieTemps.getD (i - 0x14) 0 % 256
  else if 0x20 ≤ i && i < 0x28 then s.hl.baseTemps.getD (i - 0x20) 0
  else if i = 0x28 then s.hl.ioTemp
  else if i = 0x29 then rd s (pgPwr + 0xA0)
  else if i = 0x2A then b2n s.hl.stby
  else if 0x30 ≤ i && i < 0x80 then summary s i
  else if 0x80 ≤ i && i < 0xC0 then
    (match s.hl.log.reverse[(i - 0x80) / 8]? with | some e => leNat (slice e.bytes (4 * (i % 8)) 4) | none => 0)
  else if 0xC0 ≤ i then leNat (slice s.hl.sbRsp (4 * (i - 0xC0)) 4)
  else 0

/-- SHADOW_REFRESH: every shadow register at one instant. -/
def doShadowRefresh (s : State) : State :=
  if hlOn s then
    let t := (List.range 256).foldl (fun (t : Tbl Word32) i => tput 0 t i (BitVec.ofNat 32 (shadowReg s i))) []
    { s with hl := { s.hl with shadow := t, refreshes := (s.hl.refreshes + 1) % 2 ^ 32 } }
  else s
def execShadowRefresh (s : State) : Host.Outcome State Fault Refusal := .next (doShadowRefresh s)

/-- A write transaction (R355): 0x00 sets the read pointer, 0x01 carries a mailbox frame, every other first byte is ignored. -/
def doSbPointerWrite (s : State) (bytes : List Byte) : State :=
  if !hlOn s then s
  else match bytes with
    | 0x00 :: p :: _ => { s with hl := { s.hl with sbPtr := p.toNat } }
    | 0x01 :: f =>
      if s.hl.sbHeld.isSome then { s with hl := { s.hl with sbDropped := true } }
      else { s with hl := { s.hl with sbHeld := some f, sbState := 1, sbDropped := false } }
    | _ => s
def execSbPointerWrite (bytes : List Byte) (s : State) : Host.Outcome State Fault Refusal := .next (doSbPointerWrite s bytes)

/-- A read transaction of `count` bytes from the pointer onward. -/
def doSbRead (s : State) (count : Nat) : State :=
  if hlOn s then
    say s (.i3c true ((List.range count).map (fun i =>
      BitVec.ofNat 8 ((tget 0 s.hl.shadow ((s.hl.sbPtr + i / 4) % 256)).toNat / 2 ^ (8 * (i % 4))))))
  else s
def execSbRead (count : Nat) (s : State) : Host.Outcome State Fault Refusal := .next (doSbRead s count)

/-! ### I3C common command codes (R354, R403) -/

/-- The target's acknowledge and the bytes it returns; nothing answers without power. -/
def ccc (s : State) (ack : Bool) (bytes : List Byte) : State := if hlOn s then say s (.i3c ack bytes) else s

def setI3c (s : State) (a : Option Nat) : State := { s with hl := { s.hl with i3cAddr := a } }

/-- ENTDAA: a target that holds no dynamic address takes one. -/
def doEntdaa (s : State) (addr : Nat) : State :=
  if hlOn s && s.hl.i3cAddr.isNone then setI3c (ccc s true []) (some addr) else ccc s false []
def execEntdaa (addr : Nat) (s : State) : Host.Outcome State Fault Refusal := .next (doEntdaa s addr)

/-- SETDASA, to the static address 0x30 + SLOT_ID[3:0]. -/
def doSetdasa (s : State) (static addr : Nat) : State :=
  if hlOn s && s.hl.i3cAddr.isNone && decide (static = 0x30 + s.hl.slotId % 16) then setI3c (ccc s true []) (some addr) else ccc s false []
def execSetdasa (static addr : Nat) (s : State) : Host.Outcome State Fault Refusal := .next (doSetdasa s static addr)

/-- RSTDAA. -/
def doRstdaa (s : State) : State := if hlOn s then setI3c (ccc s true []) none else s
def execRstdaa (s : State) : Host.Outcome State Fault Refusal := .next (doRstdaa s)

/-- A directed CCC answers where the target holds a dynamic address. -/
def directed (s : State) (bytes : List Byte) : State :=
  if s.hl.i3cAddr.isSome then ccc s true bytes else ccc s false []

/-- GETPID: manufacturer ID, part 0x0900, the instance SLOT_ID[3:0] (R403), most significant byte first. -/
def doGetpid (s : State) : State :=
  directed s (beBytes 6 (Config.makerCode 0 % 2 ^ 15 * 2 ^ 33 + 0x0900 * 2 ^ 16 + s.hl.slotId % 16 * 2 ^ 12))
def execGetpid (s : State) : Host.Outcome State Fault Refusal := .next (doGetpid s)

def doGetbcr (s : State) : State := directed s (leBytes 1 (Config.i3cValue 0 0))
def execGetbcr (s : State) : Host.Outcome State Fault Refusal := .next (doGetbcr s)

def doGetdcr (s : State) : State := directed s (leBytes 1 (Config.i3cValue 1 0))
def execGetdcr (s : State) : Host.Outcome State Fault Refusal := .next (doGetdcr s)

def doGetstatus (s : State) : State := directed s (leBytes 2 (Config.i3cValue 2 (rf s (pgHeadland + 0x88) 19 16)))
def execGetstatus (s : State) : Host.Outcome State Fault Refusal := .next (doGetstatus s)

/-- ENEC and DISEC: bit 0 of the event mask enables the in-band interrupt. -/
def doEnec (s : State) (mask : Nat) : State :=
  if hlOn s then
    let s := ccc s true []
    if mask % 2 = 1 then { s with hl := { s.hl with i3cEvents := 1 } } else s
  else s
def execEnec (mask : Nat) (s : State) : Host.Outcome State Fault Refusal := .next (doEnec s mask)

def doDisec (s : State) (mask : Nat) : State :=
  if hlOn s then
    let s := ccc s true []
    if mask % 2 = 1 then { s with hl := { s.hl with i3cEvents := 0 } } else s
  else s
def execDisec (mask : Nat) (s : State) : Host.Outcome State Fault Refusal := .next (doDisec s mask)

/-- Every other CCC is not acknowledged. -/
def doOtherCcc (s : State) : State := ccc s false []
def execOtherCcc (code : Nat) (s : State) : Host.Outcome State Fault Refusal :=
  let _ := code
  .next (doOtherCcc s)

/-! ### JTAG (R335, R404) -/

/-- Bits of a word, bit 0 first. -/
def bitsList (n w : Nat) : List Bool := (List.range n).map (bitOf w)

/-- An instruction that leaves the pins to the module. -/
def jtagSet (s : State) (ir : JtagIr) (drive : Bool) (o : List Bool) : State :=
  if hlOn s then say { s with hl := { s.hl with jtagIr := ir, jtagDrive := drive } } (.jtag o) else s

/-- IDCODE: version 0x1, part 0x0900, the JEDEC code, and bit 0 at 1 as IEEE 1149.1 gives. -/
def idcodeWord : Nat := 1 * 2 ^ 28 + 0x0900 * 2 ^ 12 + Config.makerCode 1 % 2 ^ 11 * 2 + 1

/-- IDCODE. TRST_N low, for which the table has no command, brings the test logic to its reset state, which selects IDCODE and leaves the
pins to the module, as this instruction does (IEEE 1149.1; log 220). -/
def doIdcode (s : State) : State := jtagSet s .idcode false (bitsList 32 idcodeWord)
def execIdcode (s : State) : Host.Outcome State Fault Refusal := .next (doIdcode s)

/-- BYPASS, and every code that selects it: one bit that captures 0. -/
def doBypass (s : State) : State := jtagSet s .bypass false [false]
def execBypass (code : Nat) (s : State) : Host.Outcome State Fault Refusal :=
  let _ := code
  .next (doBypass s)

/-- SAMPLE/PRELOAD: the chain shows the pins and takes what is shifted in. -/
def doSamplePreload (s : State) (pins preload : List Bool) : State :=
  if hlOn s then jtagSet { s with hl := { s.hl with jtagChain := preload } } .samplePreload false pins else s
def execSamplePreload (pins preload : List Bool) (s : State) : Host.Outcome State Fault Refusal := .next (doSamplePreload s pins preload)

/-- EXTEST drives the pins from the chain, captures what they show, and takes a new chain from TDI: both are free values (log 220). It does
so in recovery mode or before BOOT_LOCKED; otherwise it selects BYPASS. -/
def doExtest (s : State) : State :=
  if s.hl.boot = .up then doBypass s
  else if !hlOn s then s
  else
    let n := s.freeCount
    jtagSet { s with freeCount := n + 1, hl := { s.hl with jtagChain := Config.jtagIn n } } .extest true (Config.jtagPins n)
def execExtest (s : State) : Host.Outcome State Fault Refusal := .next (doExtest s)

/-- CLAMP holds the outputs at the chain's values with the bypass register selected. -/
def doClamp (s : State) : State := if s.hl.boot = .up then doBypass s else jtagSet s .clamp true [false]
def execClamp (s : State) : Host.Outcome State Fault Refusal := .next (doClamp s)

/-! ### PCIe configuration (R338, R406, R407) -/

/-- A field [hi:lo] of a word replaced. -/
def putBits (w hi lo v : Nat) : Nat := w - bitsOf w hi lo * 2 ^ lo + v * 2 ^ lo

/-- A register's number among the free values of the configuration space. -/
def cfgKey : CfgReg → Nat
  | .header o => o | .pcie o => 0x1000 + o | .msix o => 0x2000 + o | .power o => 0x3000 + o | .rebar o => 0x4000 + o
  | .vfRebar o => 0x5000 + o | .sriov o => 0x6000 + o | .other o => 0x7000 + o

/-- A dword of a 64-bit non-prefetchable memory BAR of 64 MiB at `base` (R406). -/
def barLow (base : Nat) : Nat := base % 2 ^ 32 / 2 ^ 26 * 2 ^ 26 + 4
def barHigh (base : Nat) : Nat := base / 2 ^ 32 % 2 ^ 32

/-- Registers of the header: identifiers and class code; Bus Master Enable; BAR0 of the physical function, and no other BAR; no INTx pin. A
virtual function's BAR0 stands in the SR-IOV capability. -/
def headerRead (s : State) (fn o free : Nat) : Nat :=
  match o with
  | 0 => (if fn = 0 then 0x0900 else 0x0901) * 2 ^ 16 + Config.makerCode 2 % 2 ^ 16
  | 4 => putBits free 2 2 (b2n (s.hl.busMaster.contains fn))
  | 8 => 0x120000 * 2 ^ 8 + Config.makerCode 3 % 2 ^ 8
  | 0x10 => if fn = 0 then barLow s.hl.bar0 else 0
  | 0x14 => if fn = 0 then barHigh s.hl.bar0 else 0
  | 0x18 | 0x1C | 0x20 | 0x24 => 0
  | 0x3C => putBits free 15 8 0
  | _ => free

/-- Registers of the SR-IOV capability: InitialVFs and TotalVFs, NumVFs, the virtual functions' Device ID and BAR0 (R321, R406). -/
def sriovRead (s : State) (o free : Nat) : Nat :=
  match o with
  | 0xC => 64 * 2 ^ 16 + 64
  | 0x10 => putBits free 15 0 s.hl.numVFs
  | 0x18 => putBits free 31 16 0x0901
  | 0x24 => barLow s.hl.vfBar0
  | 0x28 => barHigh s.hl.vfBar0
  | 0x2C | 0x30 | 0x34 | 0x38 => 0
  | _ => free

/-- Registers of the other capabilities that R406 fixes: Max Payload 512 B and Function-Level Reset; 64 GT/s, x16, no ASPM; no LTR, 10-bit
tags; 2,048 MSI-X entries; No_Soft_Reset 1 and the power state; a Resizable BAR with 64 MiB as BAR0's only size. -/
def capRead (s : State) (fn : Nat) (reg : CfgReg) (free : Nat) : Nat :=
  match reg with
  | .pcie 4 => putBits (putBits free 2 0 2) 28 28 1
  | .pcie 0xC => putBits (putBits free 9 4 16) 3 0 6 - bitsOf free 11 10 * 2 ^ 10
  | .pcie 0x24 => putBits (putBits free 17 16 3) 11 11 0
  | .msix 0 => putBits free 26 16 2047
  | .power 4 => putBits (putBits free 3 3 1) 1 0 (3 * b2n (s.hl.d3hot.contains fn))
  | .rebar 4 | .vfRebar 4 => 2 ^ 10
  | .rebar 8 | .vfRebar 8 => 6 * 2 ^ 8 + 2 ^ 5
  | _ => free

/-- A configuration register of a function: what the manual fixes, at the place the PCIe standard gives it (PRESUMED, log 202); what it does
not name is a free value. -/
def cfgRead (s : State) (fn : Nat) (reg : CfgReg) : Nat :=
  let free := Config.cfgValue (cfgKey reg + b2n (decide (fn ≠ 0)) * 2 ^ 16) (b2n (s.hl.busMaster.contains fn)) s.hl.numVFs % 2 ^ 32
  match reg with
  | .header o => headerRead s fn o free
  | .sriov o => if fn = 0 then sriovRead s o free else free
  | _ => capRead s fn reg free

/-- A BAR as it is written: a half of its address; bits below 64 MiB read 0 (R406). -/
def barPut (base : Nat) (high : Bool) (value : Nat) : Nat :=
  if high then base % 2 ^ 32 + value * 2 ^ 32 else base / 2 ^ 32 * 2 ^ 32 + value / 2 ^ 26 * 2 ^ 26

/-- Messages that waited for a function's Bus Master Enable are sent (R407). -/
def msgsGo (s : State) (fn : Nat) : State :=
  let ms := s.heldMsgs.filter (fun e => decide (e.1 = fn))
  ms.foldl (fun s e => say s (.msix e.1 e.2)) { s with heldMsgs := s.heldMsgs.filter (fun e => decide (e.1 ≠ fn)) }

/-- A configuration request answered normally. BAR0 keeps its one size whatever size is written; a request with a non-zero AT field, or to a
function that NumVFs does not give, is an Unsupported Request (R321, R406). -/
def cfgServe (s : State) (r : CfgReq) : State :=
  match r with
  | .read fn reg => if fn ≤ s.hl.numVFs then say s (.cfg false (cfgRead s fn reg)) else say s .unsupported
  | .bar vf high v =>
    if vf then { s with hl := { s.hl with vfBar0 := barPut s.hl.vfBar0 high v.toNat } }
    else { s with hl := { s.hl with bar0 := barPut s.hl.bar0 high v.toNat } }
  | .resize _ _ => s
  | .translated => say s .unsupported
  | .busMaster fn on =>
    let l := s.hl.busMaster.filter (· ≠ fn)
    if on then msgsGo { s with hl := { s.hl with busMaster := l ++ [fn] } } fn else { s with hl := { s.hl with busMaster := l } }
  | .numVFs n => if n ≤ 64 then { s with hl := { s.hl with numVFs := n } } else s
  | .powerState fn d3 =>
    let l := s.hl.d3hot.filter (· ≠ fn)
    { s with hl := { s.hl with d3hot := if d3 then l ++ [fn] else l } }

/-- CONFIGURATION_REQUEST: Retry Status until BOOT_LOCKED; where the PCIe link does not train nothing answers. -/
def doConfigurationRequest (s : State) (r : CfgReq) : State :=
  match s.hl.boot with
  | .up => cfgServe s r
  | .starting => say s (.cfg true 0)
  | _ => s
def execConfigurationRequest (r : CfgReq) (s : State) : Host.Outcome State Fault Refusal := .next (doConfigurationRequest s r)

end Sys2Proof.Machine
end

