-- ==== Sys2Proof/Machine/Spdm.lean ====
section
/-! DEFINITION. Attestation over DOE (R341 to R344). -/

namespace Sys2Proof.Machine

/-- An answer over DOE: the physical function alone has it, while PCIe is up (R339, R342). -/
def doe (s : State) (r : SpdmRsp) : State := if s.hl.boot = .up then say s (.spdm r) else s

/-- DOE Discovery: types 0 and 1, each naming the next. -/
def doDoeDiscovery (s : State) (index : Nat) : State :=
  if s.hl.boot = .up then say s (if index = 0 then .doe (some 0) 1 else if index = 1 then .doe (some 1) 0 else .doe none 0) else s
def execDoeDiscovery (index : Nat) (s : State) : Host.Outcome State Fault Refusal := .next (doDoeDiscovery s index)

/-- GET_VERSION: 1.3 alone. -/
def doGetVersion (s : State) : State := doe s (.version 0x13)
def execGetVersion (s : State) : Host.Outcome State Fault Refusal := .next (doGetVersion s)

/-- GET_CAPABILITIES: CERT_CAP, CHAL_CAP, MEAS_CAP with signatures, CTExponent 20. -/
def doGetCapabilities (s : State) : State := doe s (.capabilities true true true 20)
def execGetCapabilities (req : List Byte) (s : State) : Host.Outcome State Fault Refusal :=
  let _ := req
  .next (doGetCapabilities s)

/-- NEGOTIATE_ALGORITHMS: RSASSA-3072 (PSS) and SHA-384. -/
def doNegotiateAlgorithms (s : State) : State := doe s (.algorithms 3072 384)
def execNegotiateAlgorithms (req : List Byte) (s : State) : Host.Outcome State Fault Refusal :=
  let _ := req
  .next (doNegotiateAlgorithms s)

/-- GET_DIGESTS: slot 0, the RSA chain. -/
def doGetDigests (s : State) : State := doe s (.digests 0 (Config.sha384 (idChain s 0)))
def execGetDigests (s : State) : Host.Outcome State Fault Refusal := .next (doGetDigests s)

/-- GET_CERTIFICATE: part of the chain of slot 0. -/
def doGetCertificate (s : State) (slot offset length : Nat) : State :=
  let c := idChain s 0
  let part := (c.drop offset).take length
  if slot = 0 then doe s (.certificate 0 part (c.length - offset - part.length)) else doe s .invalidRequest
def execGetCertificate (slot offset length : Nat) (s : State) : Host.Outcome State Fault Refusal :=
  .next (doGetCertificate s slot offset length)

/-- The message the key store signs: a prefix of 100 bytes and the 48-byte hash (R341). -/
def signedMsg (ctx : Nat) (hash : List Byte) : List Byte :=
  leBytes 16 0x2a2e332e31762d6d6470732d66746d64 ++ slice (Config.signContext ctx) 0 84 ++ slice hash 0 48

/-- A response is signed, and its co-signature begins (R344): the hash and the RSA signature. -/
def signNow (s : State) (ctx : Nat) (req : List Byte) : State × List Byte × List Byte :=
  let hash := slice (Config.transcriptHash s.hl.signCount req) 0 48
  let msg := signedMsg ctx hash
  let co : Cosign := { hash := hash, sig := slice (Config.slhSign s.flash.serial.toNat s.hl.signCount msg) 0 16224,
                       stale := match s.hl.cosign with | some c => c.begun || c.stale | none => false }
  ({ s with hl := { s.hl with cosign := some co, signCount := s.hl.signCount + 1 } }, hash,
   Config.rsaSign s.flash.serial.toNat s.hl.signCount msg)

/-- A co-signature is being computed. -/
def cosigning (s : State) : Bool := match s.hl.cosign with | some c => !c.ready | none => false

/-- CHALLENGE. -/
def doChallenge (s : State) (slot : Nat) (req : List Byte) : State :=
  if s.hl.boot ≠ .up then s
  else if slot ≠ 0 then doe s .invalidRequest
  else if cosigning s then doe s .busy
  else let r := signNow s 0 req; doe r.1 (.challengeAuth r.2.1 r.2.2)
def execChallenge (slot : Nat) (req : List Byte) (s : State) : Host.Outcome State Fault Refusal := .next (doChallenge s slot req)

/-- A measurement: its index, whether it is mutable firmware, its SHA-384 digest (R343). -/
def measurement (s : State) (i : Nat) : Nat × Bool × List Byte :=
  let h := s.hl.running
  let what := match i with
    | 1 => slice h 0 0x400
    | 2 => slice h 0x40 48
    | 3 => slice s.flash.rsaKeyHash 0 48 ++ slice s.flash.slhKeyHash 0 48 ++ leBytes 1 s.flash.svn
    | _ => [0x80, 0x84, 0x88, 0x8C].flatMap (fun o => leBytes 4 (viewGrade s o))
  (i, decide (i ≤ 2), Config.sha384 what)

/-- GET_MEASUREMENTS. -/
def doGetMeasurements (s : State) (index : Nat) (signed : Bool) (req : List Byte) : State :=
  if s.hl.boot ≠ .up then s
  else if !((decide (1 ≤ index) && decide (index ≤ 4)) || index = 0xFF) then doe s .invalidRequest
  else
    let ms := (if index = 0xFF then [1, 2, 3, 4] else [index]).map (measurement s)
    if !signed then doe s (.measurements ms none)
    else if cosigning s then doe s .busy
    else let r := signNow s 1 req; doe r.1 (.measurements ms (some (r.2.1, r.2.2)))
def execGetMeasurements (index : Nat) (signed : Bool) (req : List Byte) (s : State) : Host.Outcome State Fault Refusal :=
  .next (doGetMeasurements s index signed req)

/-- COSIGN_READY. -/
def doCosignReady (s : State) : State :=
  match s.hl.cosign with
  | some c => { s with hl := { s.hl with cosign := some { c with ready := true } } }
  | none => s
def execCosignReady (s : State) : Host.Outcome State Fault Refusal := .next (doCosignReady s)

/-! ### Krytne's co-signature requests (R344) -/

/-- The response of R344. -/
def vendorRsp (kop result total : Nat) (hash data : List Byte) : SpdmRsp :=
  .vendor (leBytes 1 kop ++ leBytes 1 result ++ leBytes 2 0 ++ leBytes 4 total ++ leBytes 2 data.length ++ leBytes 6 0 ++
    slice hash 0 48 ++ data)

/-- OFFSET and LENGTH of a request within the limits of R344. -/
def vendorReq (kop : Nat) (p : List Byte) : Option (Nat × Nat) :=
  let n := leNat (slice p 8 2)
  if decide (leNat (slice p 0 1) ≠ kop) || n = 0 || decide (4096 < n) || !allZero (slice p 1 3) || !allZero (p.drop 10) then none
  else some (leNat (slice p 4 4), n)

/-- GET_COSIGN: a read that goes on from one of a signature since replaced is gone. -/
def cosignRead (s : State) (p : List Byte) : State × SpdmRsp :=
  match vendorReq 1 p with
  | none => (s, vendorRsp (leNat (slice p 0 1)) 2 0 [] [])
  | some (off, n) =>
    match s.hl.cosign with
    | none => (s, vendorRsp 1 1 0 [] [])
    | some c =>
      if decide (0 < off) && c.stale && !c.begun then (s, vendorRsp 1 1 0 [] [])
      else if !c.ready then (s, vendorRsp 1 3 0 [] [])
      else
        let s := { s with hl := { s.hl with cosign := some { c with begun := true } } }
        (s, vendorRsp 1 0 c.sig.length c.hash ((c.sig.drop off).take n))
def doGetCosign (s : State) (payload : List Byte) : State :=
  if s.hl.boot = .up then let r := cosignRead s payload; doe r.1 r.2 else s
def execGetCosign (payload : List Byte) (s : State) : Host.Outcome State Fault Refusal := .next (doGetCosign s payload)

/-- GET_SLH_CHAIN. -/
def doGetSlhChain (s : State) (payload : List Byte) : State :=
  match vendorReq 2 payload with
  | none => doe s (vendorRsp (leNat (slice payload 0 1)) 2 0 [] [])
  | some (off, n) =>
    let c := idChain s 1
    doe s (vendorRsp 2 0 c.length [] ((c.drop off).take n))
def execGetSlhChain (payload : List Byte) (s : State) : Host.Outcome State Fault Refusal := .next (doGetSlhChain s payload)

/-- Every other request. -/
def doUnsupportedRequest (s : State) : State := doe s .unsupportedRequest
def execUnsupportedRequest (code : Nat) (s : State) : Host.Outcome State Fault Refusal :=
  let _ := code
  .next (doUnsupportedRequest s)

end Sys2Proof.Machine
end

