-- ==== Sys2Proof/Machine/Dispatch.lean ====
section
/-! DEFINITION. The meaning of every command, one arm per constructor of `Instr`. -/

namespace Sys2Proof.Machine

def exec (i : Instr) (s : State) : Host.Outcome State Fault Refusal :=
  match i with
  | .nop q => Sys2Proof.Machine.execNop q s
  | .cfgWrite q => Sys2Proof.Machine.execCfgWrite q s
  | .patch q => Sys2Proof.Machine.execPatch q s
  | .start q => Sys2Proof.Machine.execStart q s
  | .copy q => Sys2Proof.Machine.execCopy q s
  | .small q => Sys2Proof.Machine.execSmall q s
  | .signal q => Sys2Proof.Machine.execSignal q s
  | .wait q => Sys2Proof.Machine.execWait q s
  | .fence q => Sys2Proof.Machine.execFence q s
  | .reduce q => Sys2Proof.Machine.execReduce q s
  | .update q => Sys2Proof.Machine.execUpdate q s
  | .snap q => Sys2Proof.Machine.execSnap q s
  | .hold q => Sys2Proof.Machine.execHold q s
  | .release q => Sys2Proof.Machine.execRelease q s
  | .callChart q => Sys2Proof.Machine.execCallChart q s
  | .cancel q => Sys2Proof.Machine.execCancel q s
  | .doorbell fn q value => Sys2Proof.Machine.execDoorbell fn q value s
  | .commandFetch q => Sys2Proof.Machine.execCommandFetch q s
  | .loadCheck q => Sys2Proof.Machine.execLoadCheck q s
  | .signalRelease q => Sys2Proof.Machine.execSignalRelease q s
  | .completionWrite ring => Sys2Proof.Machine.execCompletionWrite ring s
  | .ringFaultRetry fn ring => Sys2Proof.Machine.execRingFaultRetry fn ring s
  | .watchdogExpiry q => Sys2Proof.Machine.execWatchdogExpiry q s
  | .stallAck job => Sys2Proof.Machine.execStallAck job s
  | .queueReset fn q => Sys2Proof.Machine.execQueueReset fn q s
  | .stop fn q => Sys2Proof.Machine.execStop fn q s
  | .resume fn q => Sys2Proof.Machine.execResume fn q s
  | .tmWrite fn tm width value => Sys2Proof.Machine.execTmWrite fn tm width value s
  | .tmRead fn tm width => Sys2Proof.Machine.execTmRead fn tm width s
  | .tmAddLatch value => Sys2Proof.Machine.execTmAddLatch value s
  | .tmAdd wide value => Sys2Proof.Machine.execTmAdd wide value s
  | .escalationReport => Sys2Proof.Machine.execEscalationReport s
  | .read => Sys2Proof.Machine.execRead s
  | .commit clearHistory thenRead => Sys2Proof.Machine.execCommit clearHistory thenRead s
  | .slotRun v c lslot => Sys2Proof.Machine.execSlotRun v c lslot s
  | .passIssue v c => Sys2Proof.Machine.execPassIssue v c s
  | .tileComplete v c parity => Sys2Proof.Machine.execTileComplete v c parity s
  | .drain v c parity => Sys2Proof.Machine.execDrain v c parity s
  | .panelFill v c => Sys2Proof.Machine.execPanelFill v c s
  | .rowApply v lslot => Sys2Proof.Machine.execRowApply v lslot s
  | .taskComplete q seq => Sys2Proof.Machine.execTaskComplete q seq s
  | .plainPacket p => Sys2Proof.Machine.execPlainPacket p s
  | .mergeWindowExpiry v c bank word => Sys2Proof.Machine.execMergeWindowExpiry v c bank word s
  | .scrubStep v c bank upset => Sys2Proof.Machine.execScrubStep v c bank upset s
  | .channelReplay die edge chan => Sys2Proof.Machine.execChannelReplay die edge chan s
  | .descriptorRead e stream => Sys2Proof.Machine.execDescriptorRead e stream s
  | .runRead e stream => Sys2Proof.Machine.execRunRead e stream s
  | .readReturn e stream => Sys2Proof.Machine.execReadReturn e stream s
  | .gateOpen e stream => Sys2Proof.Machine.execGateOpen e stream s
  | .descriptorDone e stream => Sys2Proof.Machine.execDescriptorDone e stream s
  | .copyComplete e stream => Sys2Proof.Machine.execCopyComplete e stream s
  | .handoffUnit stack stream => Sys2Proof.Machine.execHandoffUnit stack stream s
  | .handoffTimeout v c => Sys2Proof.Machine.execHandoffTimeout v c s
  | .epochAck e stream v => Sys2Proof.Machine.execEpochAck e stream v s
  | .lineBufferWrite line => Sys2Proof.Machine.execLineBufferWrite line s
  | .hbmAccess stack unit who write upset => Sys2Proof.Machine.execHbmAccess stack unit who write upset s
  | .patrolStep stack upset => Sys2Proof.Machine.execPatrolStep stack upset s
  | .headerOp stack addr op => Sys2Proof.Machine.execHeaderOp stack addr op s
  | .blockClaim stack q seq => Sys2Proof.Machine.execBlockClaim stack q seq s
  | .blockCommit stack q seq blk => Sys2Proof.Machine.execBlockCommit stack q seq blk s
  | .normWaitPass stack q seq => Sys2Proof.Machine.execNormWaitPass stack q seq s
  | .bermWaitTimeout stack q seq blk => Sys2Proof.Machine.execBermWaitTimeout stack q seq blk s
  | .contextTake ctx => Sys2Proof.Machine.execContextTake ctx s
  | .exchangeStart ctx => Sys2Proof.Machine.execExchangeStart ctx s
  | .fillWaitTimeout ctx => Sys2Proof.Machine.execFillWaitTimeout ctx s
  | .scatter port src pkt => Sys2Proof.Machine.execScatter port src pkt s
  | .gather port src pkt => Sys2Proof.Machine.execGather port src pkt s
  | .up port src pkt => Sys2Proof.Machine.execUp port src pkt s
  | .down port src pkt => Sys2Proof.Machine.execDown port src pkt s
  | .louberAck port src pkt => Sys2Proof.Machine.execLouberAck port src pkt s
  | .abort port src pkt => Sys2Proof.Machine.execAbort port src pkt s
  | .louberAckSend job srcPort ipHi ipLo => Sys2Proof.Machine.execLouberAckSend job srcPort ipHi ipLo s
  | .resendTimeout job port ipHi ipLo => Sys2Proof.Machine.execResendTimeout job port ipHi ipLo s
  | .lateTimeout ctx => Sys2Proof.Machine.execLateTimeout ctx s
  | .pauseFrame port prio => Sys2Proof.Machine.execPauseFrame port prio s
  | .otherFrame port kind => Sys2Proof.Machine.execOtherFrame port kind s
  | .linkChange port speed => Sys2Proof.Machine.execLinkChange port speed s
  | .retrain port => Sys2Proof.Machine.execRetrain port s
  | .estJobEnable job value => Sys2Proof.Machine.execEstJobEnable job value s
  | .train l flit => Sys2Proof.Machine.execTrain l flit s
  | .trainSend l => Sys2Proof.Machine.execTrainSend l s
  | .tidewayWrite l flit => Sys2Proof.Machine.execTidewayWrite l flit s
  | .tidewaySignal l flit => Sys2Proof.Machine.execTidewaySignal l flit s
  | .tidewayWake l flit => Sys2Proof.Machine.execTidewayWake l flit s
  | .heartbeat l flit => Sys2Proof.Machine.execHeartbeat l flit s
  | .tidewayAck l flit => Sys2Proof.Machine.execTidewayAck l flit s
  | .nak l flit => Sys2Proof.Machine.execNak l flit s
  | .heartbeatSend l => Sys2Proof.Machine.execHeartbeatSend l s
  | .tidewayAckSend l => Sys2Proof.Machine.execTidewayAckSend l s
  | .replayTimeout l => Sys2Proof.Machine.execReplayTimeout l s
  | .linkDown l => Sys2Proof.Machine.execLinkDown l s
  | .partnerLost => Sys2Proof.Machine.execPartnerLost s
  | .mirrorRound job => Sys2Proof.Machine.execMirrorRound job s
  | .mirrorRetry job => Sys2Proof.Machine.execMirrorRetry job s
  | .wakePartner => Sys2Proof.Machine.execWakePartner s
  | .linkRetrain l => Sys2Proof.Machine.execLinkRetrain l s
  | .snapWrite q seq => Sys2Proof.Machine.execSnapWrite q seq s
  | .restore value => Sys2Proof.Machine.execRestore value s
  | .restoreDone => Sys2Proof.Machine.execRestoreDone s
  | .holdEntered page => Sys2Proof.Machine.execHoldEntered page s
  | .holdLeft page => Sys2Proof.Machine.execHoldLeft page s
  | .soundStart page value => Sys2Proof.Machine.execSoundStart page value s
  | .soundDone page faults => Sys2Proof.Machine.execSoundDone page faults s
  | .resetReq page => Sys2Proof.Machine.execResetReq page s
  | .countClr page => Sys2Proof.Machine.execCountClr page s
  | .localTimeRead fn page off width => Sys2Proof.Machine.execLocalTimeRead fn page off width s
  | .registerWrite fn addr width value => Sys2Proof.Machine.execRegisterWrite fn addr width value s
  | .create job vfEn => Sys2Proof.Machine.execCreate job vfEn s
  | .destroy job => Sys2Proof.Machine.execDestroy job s
  | .jobReset job => Sys2Proof.Machine.execJobReset job s
  | .inval job walkInProgress => Sys2Proof.Machine.execInval job walkInProgress s
  | .assign job valley => Sys2Proof.Machine.execAssign job valley s
  | .valleyRelease job valley => Sys2Proof.Machine.execValleyRelease job valley s
  | .seqEnable die ctx value => Sys2Proof.Machine.execSeqEnable die ctx value s
  | .functionLevelReset fn => Sys2Proof.Machine.execFunctionLevelReset fn s
  | .hotReset => Sys2Proof.Machine.execHotReset s
  | .getInfo m => Sys2Proof.Machine.execGetInfo m s
  | .fwBegin m => Sys2Proof.Machine.execFwBegin m s
  | .fwData m chk bufferFull => Sys2Proof.Machine.execFwData m chk bufferFull s
  | .fwEnd m chk => Sys2Proof.Machine.execFwEnd m chk s
  | .fwAbort m => Sys2Proof.Machine.execFwAbort m s
  | .svnCommit m blown => Sys2Proof.Machine.execSvnCommit m blown s
  | .certRead m => Sys2Proof.Machine.execCertRead m s
  | .logRead m => Sys2Proof.Machine.execLogRead m s
  | .logClear m => Sys2Proof.Machine.execLogClear m s
  | .crashRead m => Sys2Proof.Machine.execCrashRead m s
  | .alertClear m => Sys2Proof.Machine.execAlertClear m s
  | .reset m => Sys2Proof.Machine.execReset m s
  | .powerDown m => Sys2Proof.Machine.execPowerDown m s
  | .settingsWrite m => Sys2Proof.Machine.execSettingsWrite m s
  | .unknownCmd m => Sys2Proof.Machine.execUnknownCmd m s
  | .sbPointerWrite bytes => Sys2Proof.Machine.execSbPointerWrite bytes s
  | .sbRead count => Sys2Proof.Machine.execSbRead count s
  | .shadowRefresh => Sys2Proof.Machine.execShadowRefresh s
  | .entdaa addr => Sys2Proof.Machine.execEntdaa addr s
  | .setdasa static addr => Sys2Proof.Machine.execSetdasa static addr s
  | .rstdaa => Sys2Proof.Machine.execRstdaa s
  | .getpid => Sys2Proof.Machine.execGetpid s
  | .getbcr => Sys2Proof.Machine.execGetbcr s
  | .getdcr => Sys2Proof.Machine.execGetdcr s
  | .getstatus => Sys2Proof.Machine.execGetstatus s
  | .enec mask => Sys2Proof.Machine.execEnec mask s
  | .disec mask => Sys2Proof.Machine.execDisec mask s
  | .otherCcc code => Sys2Proof.Machine.execOtherCcc code s
  | .doeDiscovery index => Sys2Proof.Machine.execDoeDiscovery index s
  | .getVersion => Sys2Proof.Machine.execGetVersion s
  | .getCapabilities req => Sys2Proof.Machine.execGetCapabilities req s
  | .negotiateAlgorithms req => Sys2Proof.Machine.execNegotiateAlgorithms req s
  | .getDigests => Sys2Proof.Machine.execGetDigests s
  | .getCertificate slot offset length => Sys2Proof.Machine.execGetCertificate slot offset length s
  | .challenge slot req => Sys2Proof.Machine.execChallenge slot req s
  | .getMeasurements index signed req => Sys2Proof.Machine.execGetMeasurements index signed req s
  | .getCosign payload => Sys2Proof.Machine.execGetCosign payload s
  | .getSlhChain payload => Sys2Proof.Machine.execGetSlhChain payload s
  | .unsupportedRequest code => Sys2Proof.Machine.execUnsupportedRequest code s
  | .cosignReady => Sys2Proof.Machine.execCosignReady s
  | .idcode => Sys2Proof.Machine.execIdcode s
  | .bypass code => Sys2Proof.Machine.execBypass code s
  | .samplePreload pins preload => Sys2Proof.Machine.execSamplePreload pins preload s
  | .extest => Sys2Proof.Machine.execExtest s
  | .clamp => Sys2Proof.Machine.execClamp s
  | .reload die source => Sys2Proof.Machine.execReload die source s
  | .heartbeatLost die => Sys2Proof.Machine.execHeartbeatLost die s
  | .slEnable job value => Sys2Proof.Machine.execSlEnable job value s
  | .flush job => Sys2Proof.Machine.execFlush job s
  | .slLineWrite job => Sys2Proof.Machine.execSlLineWrite job s
  | .slHeaderRewrite job => Sys2Proof.Machine.execSlHeaderRewrite job s
  | .intervalUpdate => Sys2Proof.Machine.execIntervalUpdate s
  | .powerOn chk faults => Sys2Proof.Machine.execPowerOn chk faults s
  | .bootTimeout => Sys2Proof.Machine.execBootTimeout s
  | .overvoltage mv minMv => Sys2Proof.Machine.execOvervoltage mv minMv s
  | .undervoltage mv minMv => Sys2Proof.Machine.execUndervoltage mv minMv s
  | .lowWaterEntry mv => Sys2Proof.Machine.execLowWaterEntry mv s
  | .lowWaterDip mv => Sys2Proof.Machine.execLowWaterDip mv s
  | .lowWaterExit mv => Sys2Proof.Machine.execLowWaterExit mv s
  | .governorTick watts peak => Sys2Proof.Machine.execGovernorTick watts peak s
  | .thermalSample t => Sys2Proof.Machine.execThermalSample t s
  | .refclk100Loss => Sys2Proof.Machine.execRefclk100Loss s
  | .refclk156Loss => Sys2Proof.Machine.execRefclk156Loss s
  | .modResetN lowMicros chk faults => Sys2Proof.Machine.execModResetN lowMicros chk faults s
  | .moduleReset chk faults => Sys2Proof.Machine.execModuleReset chk faults s
  | .deviceReset => Sys2Proof.Machine.execDeviceReset s
  | .resetComplete page => Sys2Proof.Machine.execResetComplete page s
  | .powerDownExpiry => Sys2Proof.Machine.execPowerDownExpiry s
  | .stby12vChange ok => Sys2Proof.Machine.execStby12vChange ok s
  | .configurationRequest r => Sys2Proof.Machine.execConfigurationRequest r s
  | .pauseExpiry port => Sys2Proof.Machine.execPauseExpiry port s

end Sys2Proof.Machine
end

