-- ==== Sys2Proof/Machine/Step.lean ====
section
/-! DEFINITION. One step of the block: the command at the front of the queue, run on the state with the queue's rest. On an empty
queue one clock cycle passes (log 2). -/

namespace Sys2Proof.Machine

/-- One clock cycle with no command waiting: the counters of the running islands advance (R23; log 2), the slots of that cycle go by
without a request (R258), walks in progress end (R326; log 136), and commands whose memory requests were held are tried again (R407;
log 137). -/
def idle (s : State) : State := retryHeld exec { regIdle s with cycles := s.cycles + 1, invalBusy := [] }

def step (s : State) : Host.Outcome State Fault Refusal :=
  match s.pending with
  | [] => .next (idle s)
  | c :: rest => exec c { s with pending := rest }

/-- The command a table word spells, put at the front of the queue. The table spells no words, so the state is unchanged (log 1). -/
def State.withFetchWord (s : State) (nbits w : Nat) : State :=
  match decodeTableWord nbits w with
  | some c => { s with pending := c :: s.pending }
  | none => s

end Sys2Proof.Machine
end

