-- ==== Sys2Proof/Safety.lean ====
section
/-! DEFINITION. What a safe run is: one that never faults or is refused, over which the memories keep their canonical form. And the
frames in which the statements say what a command leaves unchanged. -/

namespace Sys2Proof

/-- One step from `s` answers a next state. -/
def Safe.goes (s : Machine.State) : Prop := ∃ t, Machine.step s = .next t

/-- Each of the three memories is in canonical form: addresses strictly rising, no byte listed that reads 0 unlisted. -/
def Safe.memories (s : Machine.State) : Bool :=
  Machine.twf (fun _ => 0) s.hbm && Machine.twf (fun _ => 0) s.host && Machine.twf (fun _ => 0) s.sram

/-- Nothing but Headland's state and what is sent out differs. -/
def Safe.onlyHeadland (s t : Machine.State) : Prop := t = { s with hl := t.hl, out := t.out }

/-- Nothing but what is sent out differs. -/
def Safe.onlySent (s t : Machine.State) : Prop := t = { s with out := t.out }

/-- Nothing but registers of the pages, Headland's state and what is sent out differs. -/
def Safe.onlyRecords (s t : Machine.State) : Prop := t = { s with regs := t.regs, hl := t.hl, out := t.out }

/-- Nothing but those and Headland's flash differs. -/
def Safe.onlyRecordsAndFlash (s t : Machine.State) : Prop := t = { s with regs := t.regs, flash := t.flash, hl := t.hl, out := t.out }

/-- The mailbox `m` takes frame `f`, whose payload is `p` (R350, R355). -/
def Safe.mboxFrame (s : Machine.State) (m : MboxSrc) (f p : List Byte) : Prop :=
  (Machine.mboxTake s m).2 = some f ∧ Machine.framePayload (Machine.srcPcie m) f = some p

/-- From `s` to `t` mailbox `m` sends one answer to frame `f`: its CMD and TAG, STATUS, the payload's length in words, and the payload
padded to whole words (R350). -/
def Safe.mboxSays (s t : Machine.State) (m : MboxSrc) (f : List Byte) (status : Nat) (p : List Byte) : Prop :=
  let n := Machine.cdiv p.length 4
  t.out = s.out ++ [.mbox (Machine.srcPcie m)
    (Machine.slice f 0 2 ++ [BitVec.ofNat 8 status, BitVec.ofNat 8 n] ++ Machine.slice p 0 (4 * n))]

/-- The head command of queue `q` is the record `c` of the ring, with opcode `op`; the queue dispatches it, and nothing keeps it from
being performed: it is neither cancelled ahead nor aimed at an absent block, and no host-memory request is held (R182, R216, R407). -/
def Safe.atHead (s : Machine.State) (q op : Nat) (c : Machine.Rec) : Prop :=
  Machine.headOf (Machine.getQ s q) = some ⟨c, none, 0xFFFF⟩ ∧ Machine.cOp c = op ∧ Machine.mayDispatch s (Machine.getQ s q) = true ∧
  (Machine.getQ s q).cancels.contains (Machine.getQ s q).nextSeq.toNat = false ∧ (Machine.getQ s q).skipMode = false ∧
  Machine.absentHead s q c = false ∧ s.hostWait = false

/-- And it waits for nothing. -/
def Safe.ready (s : Machine.State) (q op : Nat) (c : Machine.Rec) : Prop :=
  Safe.atHead s q op c ∧ Machine.waitsFor s q ⟨c, none, 0xFFFF⟩ = none

/-- The number the head command of queue `q` takes (R166). -/
def Safe.seq (s : Machine.State) (q : Nat) : Nat := (Machine.getQ s q).nextSeq.toNat

/-- The handle it takes. -/
def Safe.handle (s : Machine.State) (q : Nat) : Nat := Machine.handleOf q (Safe.seq s q)

/-- The job of queue `q`. -/
def Safe.job (s : Machine.State) (q : Nat) : Nat := (Machine.getQ s q).job.toNat

/-- From `s` to `t` queue `q` has dispatched its head command: NEXT_SEQ and HEAD are one further, no wait stands, and every other field but
the loads, the fetched records, the held signals and the charts is as before (R166, R217). -/
def Safe.advanced (s t : Machine.State) (q : Nat) : Prop :=
  let x := Machine.getQ s q
  let y := Machine.getQ t q
  y.nextSeq = x.nextSeq + 1 ∧ y.head = BitVec.ofNat 16 ((x.head.toNat + 1) % Machine.ringLen x) ∧ y.waitKind = 0 ∧
  y.waitMem = false ∧ y.tail = x.tail ∧ y.job = x.job ∧ y.enable = x.enable ∧ y.stopped = x.stopped ∧ y.tainted = x.tainted ∧ y.skipMode = x.skipMode ∧
  y.defaultRing = x.defaultRing ∧ y.cmdBase = x.cmdBase ∧ y.sizeLog2 = x.sizeLog2 ∧ y.watchdog = x.watchdog

/-- Every other queue is as before. -/
def Safe.otherQueues (s t : Machine.State) (q : Nat) : Prop := ∀ p, p ≠ q → Machine.getQ t p = Machine.getQ s p

/-- The state in which the command `c` at the head of queue `q`, without an attached signal, is handed to its engine: it has its number
and stands among the long commands in progress (R216). -/
def Safe.handed (s : Machine.State) (q : Nat) (c : Machine.Rec) : Machine.State :=
  Machine.opAdd (Machine.slCommand (Machine.takeHead s q).1 q (Safe.seq s q) c false false) q (Safe.seq s q) ⟨c, none, 0xFFFF⟩

/-- The long command that has taken the number of the head command `c` of queue `q` in `s` runs at its engine in `t`. -/
def Safe.runs (s t : Machine.State) (q : Nat) (c : Machine.Rec) : Prop :=
  ∃ o ∈ t.ops, o.queue = q ∧ o.seq = Safe.seq s q ∧ o.job = Safe.job s q ∧ o.cmd = c ∧ o.opcode = Machine.cOp c ∧ o.phase = .running

/-- In `t` the long command of queue `q` under the number `seq` has ended with the record `r`. -/
def Safe.ended (t : Machine.State) (q seq : Nat) (r : Machine.CompRec) : Prop :=
  ∃ o, Machine.opFind t q seq = some o ∧ o.phase ≠ .running ∧ o.comp = r

/-- From `s` to `t` HBM, host memory, core memory and every tidemark are as before. -/
def Safe.contents (s t : Machine.State) : Prop := t.hbm = s.hbm ∧ t.host = s.host ∧ t.sram = s.sram ∧ t.tms = s.tms

/-- In `t` a flow of `job` to the module at the plan's entry `e` keeps, unacknowledged, a packet of TYPE `ty` for the packet number `num` of the
bucket, with HOPS `hops`, from position `pos`, with the payload `body` (R278, R280). -/
def Safe.sentTo (t : Machine.State) (job : Nat) (e : Machine.Rec) (ty num hops pos : Nat) (body : List Byte) : Prop :=
  ∃ f ∈ t.txFlows, f.job = job ∧ f.ip = (Machine.entryAddr e 0).1 ∧ ∃ p ∈ f.unacked,
    (Machine.louberOf p.pkt).ty = ty ∧ (Machine.louberOf p.pkt).off = 8192 * num ∧ (Machine.louberOf p.pkt).hops = hops ∧
    (Machine.louberOf p.pkt).srcPos = pos ∧ Machine.payload p.pkt = body

/-- Something sent that is not the in-band interrupt of an alert (R354). -/
def Safe.said : Machine.Out → Bool
  | .ibi _ => false
  | _ => true

/-- From `s` to `t` exactly `os` have been sent, in order, in-band interrupts apart. -/
def Safe.says (s t : Machine.State) (os : List Machine.Out) : Prop := t.out.filter Safe.said = s.out.filter Safe.said ++ os

/-- Nothing but the two links, registers, Headland's records and what is sent out differs. -/
def Safe.onlyLinks (s t : Machine.State) : Prop := t = { s with links := t.links, regs := t.regs, hl := t.hl, out := t.out }

/-- From `s` to `t` the words `ws` have reached, from word `first` on, the slot that `c` names in every valley of its group: no other word
and no other slot has changed, and a slot EMPTY or INVALID is LOADED where word 0 was written (R185). -/
def Safe.slotsTake (s t : Machine.State) (c : Machine.Rec) (first : Nat) (ws : List Word64) : Prop :=
  let l := Machine.cLslot c
  (∀ v ∈ Machine.cValleys c,
    let y := (Machine.getV s v).slot l
    let z := (Machine.getV t v).slot l
    (∀ i, i < ws.length → Machine.tget 0 z.words (first + i) = ws.getD i 0) ∧
    (∀ k, (k < first ∨ first + ws.length ≤ k) → Machine.tget 0 z.words k = Machine.tget 0 y.words k) ∧
    z.st = (if first = 0 ∧ ws ≠ [] ∧ (y.st = .empty ∨ y.st = .invalid) then .loaded else y.st) ∧
    z = { y with words := z.words, st := z.st } ∧ Machine.getV t v = (Machine.getV s v).setSlot l z) ∧
  (∀ v, v ∉ Machine.cValleys c → Machine.getV t v = Machine.getV s v)

end Sys2Proof
end

