-- ==== Sys2Proof/Certificates/Slice0/Obligations.lean ====
section
/-! DEFINITION. The statements for the provers. Each docstring says what is stated and the rules it rests on. -/

open Sys2Proof Sys2Proof.Machine

/-! ### Steps -/

/-- A step runs the command at the front of the queue on the state with the queue's rest. That on an empty queue one cycle of the clock
islands passes, table walks in progress end, the regulator of each clocked stack counts its idle slots, and a command kept because a
memory request of it was held is tried again, is the model's choice (log 2, log 136, log 137, log 171). -/
def Obligations.StepRunsTheFrontCommand : Prop :=
  ∀ s : State,
    (∀ (c : Instr) (rest : List Instr), s.pending = c :: rest → step s = exec c { s with pending := rest }) ∧
    (s.pending = [] →
      let u := { s with cycles := s.cycles + 1, invalBusy := [], regs := (regIdle s).regs }
      (s.heldCmds = [] → step s = .next u) ∧
      (∀ c t, s.heldCmds = [c] → exec c { u with heldCmds := [] } = .next t → step s = .next t) ∧
      (∀ h, h < s.grade.stacks → up s = true → clocked s (pgHbm h) = true →
        rd64 u (pgReg h + 0x88) = (rd64 s (pgReg h + 0x88) + 32 * Config.clockRate (islBase h) s.cycles) % 2 ^ 64) ∧
      (up s = false → u.regs = s.regs))

/-! ### JTAG, the sideband, attestation -/

/-- R404: IDCODE, BYPASS, SAMPLE/PRELOAD, EXTEST and CLAMP, while Headland has power. IDCODE shows version 0x1 and part 0x0900;
BYPASS, and EXTEST and CLAMP once the module is up, select the one-bit register that captures 0; SAMPLE/PRELOAD shows the pins and
takes the chain; EXTEST and CLAMP otherwise drive the pins. Nothing else changes. That EXTEST and CLAMP are accepted in every state but
up, also stopped or with the clock lost, is the model's choice (log 157), and so is that EXTEST shows free pins and takes a free chain
from TDI (log 220). -/
def Obligations.JtagInstructionsSelectTheirRegisters : Prop :=
  ∀ (s : State) (code : Nat) (pins preload : List Bool), hlOn s = true →
    (∃ t o, exec .idcode s = .next t ∧ Safe.onlyHeadland s t ∧ t.hl.jtagIr = .idcode ∧ t.hl.jtagDrive = false ∧
      t.out = s.out ++ [.jtag o] ∧ o.length = 32 ∧ o.drop 28 = bitsList 4 1 ∧ (o.drop 12).take 16 = bitsList 16 0x0900) ∧
    (∃ t, exec (.bypass code) s = .next t ∧ Safe.onlyHeadland s t ∧ t.hl.jtagIr = .bypass ∧ t.hl.jtagDrive = false ∧
      t.out = s.out ++ [.jtag [false]]) ∧
    (∃ t, exec (.samplePreload pins preload) s = .next t ∧ Safe.onlyHeadland s t ∧ t.hl.jtagIr = .samplePreload ∧
      t.hl.jtagDrive = false ∧ t.hl.jtagChain = preload ∧ t.out = s.out ++ [.jtag pins]) ∧
    (∃ t o, exec .extest s = .next t ∧ t = { s with hl := t.hl, out := s.out ++ [.jtag o], freeCount := t.freeCount } ∧
      (if s.hl.boot = .up then
        t.hl = { s.hl with jtagIr := .bypass, jtagDrive := false } ∧ o = [false] ∧ t.freeCount = s.freeCount
       else t.hl = { s.hl with jtagIr := .extest, jtagDrive := true, jtagChain := t.hl.jtagChain } ∧ t.freeCount = s.freeCount + 1)) ∧
    (∃ t, exec .clamp s = .next t ∧ Safe.onlyHeadland s t ∧ t.out = s.out ++ [.jtag [false]] ∧
      (if s.hl.boot = .up then t.hl.jtagIr = .bypass ∧ t.hl.jtagDrive = false else t.hl.jtagIr = .clamp ∧ t.hl.jtagDrive = true))

/-- R355: a write transaction that begins with 0x00 sets the read pointer; one that begins with 0x01 carries a mailbox frame, taken
where none is being processed and otherwise dropped with DROPPED; any other is ignored. A read returns four bytes a register,
little-endian, from the pointer onward, wrapping from 0xFF to 0x00. A refresh takes every shadow register at one instant. -/
def Obligations.SidebandTransactionsReachTheShadowRegisters : Prop :=
  ∀ (s : State) (p b : Byte) (rest frame : List Byte) (count : Nat), hlOn s = true →
    exec (.sbPointerWrite (0x00 :: p :: rest)) s = .next { s with hl := { s.hl with sbPtr := p.toNat } } ∧
    (s.hl.sbHeld = none →
      exec (.sbPointerWrite (0x01 :: frame)) s =
        .next { s with hl := { s.hl with sbHeld := some frame, sbState := 1, sbDropped := false } }) ∧
    (s.hl.sbHeld ≠ none → exec (.sbPointerWrite (0x01 :: frame)) s = .next { s with hl := { s.hl with sbDropped := true } }) ∧
    (1 < b.toNat → exec (.sbPointerWrite (b :: rest)) s = .next s) ∧
    (∃ t bytes, exec (.sbRead count) s = .next t ∧ Safe.onlySent s t ∧ t.out = s.out ++ [.i3c true bytes] ∧ bytes.length = count ∧
      ∀ i, i < count → bytes.getD i 0 =
        BitVec.ofNat 8 ((tget 0 s.hl.shadow ((s.hl.sbPtr + i / 4) % 256)).toNat / 2 ^ (8 * (i % 4)))) ∧
    (∃ t, exec .shadowRefresh s = .next t ∧ Safe.onlyHeadland s t ∧ t.out = s.out ∧
      t.hl = { s.hl with shadow := t.hl.shadow, refreshes := (s.hl.refreshes + 1) % 2 ^ 32 } ∧
      ∀ i, i < 256 → tget 0 t.hl.shadow i = BitVec.ofNat 32 (shadowReg s i))

/-- R354, R403: the common command codes of the I3C target, while Headland has power. ENTDAA, and SETDASA to the static address
0x30 + SLOT_ID[3:0], give an address to a target that holds none; RSTDAA takes it away. GETPID, GETBCR, GETDCR and GETSTATUS are
answered by an addressed target with 6, 1, 1 and 2 bytes. ENEC and DISEC set and clear the in-band interrupt's enable. Every other
code is not acknowledged. -/
def Obligations.I3cCommonCommandCodesAct : Prop :=
  ∀ (s : State) (a mask code : Nat), hlOn s = true →
    (s.hl.i3cAddr = none →
      exec (.entdaa a) s = .next { s with hl := { s.hl with i3cAddr := some a }, out := s.out ++ [.i3c true []] } ∧
      exec (.setdasa (0x30 + s.hl.slotId % 16) a) s =
        .next { s with hl := { s.hl with i3cAddr := some a }, out := s.out ++ [.i3c true []] }) ∧
    exec .rstdaa s = .next { s with hl := { s.hl with i3cAddr := none }, out := s.out ++ [.i3c true []] } ∧
    (s.hl.i3cAddr ≠ none →
      (∃ t b, exec .getpid s = .next t ∧ Safe.onlySent s t ∧ t.out = s.out ++ [.i3c true b] ∧ b.length = 6 ∧
        beNat b % 2 ^ 33 = 0x0900 * 2 ^ 16 + s.hl.slotId % 16 * 2 ^ 12) ∧
      (∃ t b, exec .getbcr s = .next t ∧ Safe.onlySent s t ∧ t.out = s.out ++ [.i3c true b] ∧ b.length = 1) ∧
      (∃ t b, exec .getdcr s = .next t ∧ Safe.onlySent s t ∧ t.out = s.out ++ [.i3c true b] ∧ b.length = 1) ∧
      (∃ t b, exec .getstatus s = .next t ∧ Safe.onlySent s t ∧ t.out = s.out ++ [.i3c true b] ∧ b.length = 2)) ∧
    (mask % 2 = 1 →
      exec (.enec mask) s = .next { s with hl := { s.hl with i3cEvents := 1 }, out := s.out ++ [.i3c true []] } ∧
      exec (.disec mask) s = .next { s with hl := { s.hl with i3cEvents := 0 }, out := s.out ++ [.i3c true []] }) ∧
    exec (.otherCcc code) s = .next { s with out := s.out ++ [.i3c false []] }

/-- R342: what Headland answers over DOE once the module is up: DOE Discovery, SPDM 1.3 alone, its capabilities and algorithms, the
digest and the parts of the RSA chain in slot 0, and UnsupportedRequest to every other request. Nothing but the answer is sent. -/
def Obligations.DoeAnswersWhatTheModuleSupports : Prop :=
  ∀ (s : State) (req : List Byte) (offset length code : Nat), s.hl.boot = .up →
    exec (.doeDiscovery 0) s = .next { s with out := s.out ++ [.doe (some 0) 1] } ∧
    exec (.doeDiscovery 1) s = .next { s with out := s.out ++ [.doe (some 1) 0] } ∧
    exec .getVersion s = .next { s with out := s.out ++ [.spdm (.version 0x13)] } ∧
    exec (.getCapabilities req) s = .next { s with out := s.out ++ [.spdm (.capabilities true true true 20)] } ∧
    exec (.negotiateAlgorithms req) s = .next { s with out := s.out ++ [.spdm (.algorithms 3072 384)] } ∧
    exec .getDigests s = .next { s with out := s.out ++ [.spdm (.digests 0 (Config.sha384 (idChain s 0)))] } ∧
    (∃ t part rest, exec (.getCertificate 0 offset length) s = .next t ∧ t = { s with out := s.out ++ [.spdm (.certificate 0 part rest)] } ∧
      part.length ≤ length ∧ (offset ≤ (idChain s 0).length → offset + part.length + rest = (idChain s 0).length) ∧
      ∀ i, i < part.length → part[i]? = (idChain s 0)[offset + i]?) ∧
    exec (.unsupportedRequest code) s = .next { s with out := s.out ++ [.spdm .unsupportedRequest] }

/-- R343, R344: CHALLENGE and signed GET_MEASUREMENTS, with no co-signature being computed, answer with a signature over the same
48-byte hash that the new co-signature covers; while one is being computed they answer Busy, and it is kept. A measurement index
other than 1 to 4 and 0xFF is an InvalidRequest. COSIGN_READY ends the computation, and GET_COSIGN then reads the signature. -/
def Obligations.SignedResponsesStartACoSignature : Prop :=
  ∀ (s : State) (req p : List Byte) (i off n : Nat), s.hl.boot = .up →
    (cosigning s = false →
      (∃ t hash sig co, exec (.challenge 0 req) s = .next t ∧ Safe.onlyHeadland s t ∧
        t.out = s.out ++ [.spdm (.challengeAuth hash sig)] ∧ hash.length = 48 ∧
        t.hl = { s.hl with cosign := some co, signCount := s.hl.signCount + 1 } ∧ co.hash = hash ∧ co.ready = false ∧
        co.sig.length = 16224) ∧
      (1 ≤ i → i ≤ 4 →
        ∃ t hash sig co, exec (.getMeasurements i true req) s = .next t ∧ Safe.onlyHeadland s t ∧
          t.out = s.out ++ [.spdm (.measurements [measurement s i] (some (hash, sig)))] ∧ hash.length = 48 ∧
          t.hl = { s.hl with cosign := some co, signCount := s.hl.signCount + 1 } ∧ co.hash = hash ∧ co.ready = false)) ∧
    (cosigning s = true → exec (.challenge 0 req) s = .next { s with out := s.out ++ [.spdm .busy] } ∧
      exec (.getMeasurements 0xFF true req) s = .next { s with out := s.out ++ [.spdm .busy] }) ∧
    exec (.getMeasurements 0xFF false req) s =
      .next { s with out := s.out ++ [.spdm (.measurements [measurement s 1, measurement s 2, measurement s 3, measurement s 4] none)] } ∧
    (i = 0 ∨ (4 < i ∧ i ≠ 0xFF) → exec (.getMeasurements i false req) s = .next { s with out := s.out ++ [.spdm .invalidRequest] }) ∧
    (∀ co, s.hl.cosign = some co →
      exec .cosignReady s = .next { s with hl := { s.hl with cosign := some { co with ready := true } } } ∧
      (co.ready = true → (co.stale = false ∨ off = 0) → vendorReq 1 p = some (off, n) →
        exec (.getCosign p) s = .next
          { s with hl := { s.hl with cosign := some { co with begun := true } }
                   out := s.out ++ [.spdm (vendorRsp 1 0 co.sig.length co.hash ((co.sig.drop off).take n))] })) ∧
    (vendorReq 2 p = some (off, n) → exec (.getSlhChain p) s =
      .next { s with out := s.out ++ [.spdm (vendorRsp 2 0 (idChain s 1).length [] (((idChain s 1).drop off).take n))] })

/-! ### The mailboxes -/

/-- R350, R351, R369: GET_INFO answers the seven identity registers, CERT_READ the chain's length and up to 248 bytes of it, LOG_READ up
to seven entries from FROM_SEQ on, CRASH_READ bytes of the journal, LOG_CLEAR the count of lost entries, which it then clears with
every entry up to UPTO_SEQ; a reserved CMD is answered BAD_CMD. Whichever mailbox the frame comes from, one answer is sent, and
nothing but Headland's records changes. -/
def Obligations.MailboxReadsAnswerWithTheirData : Prop :=
  ∀ (s : State) (m : MboxSrc) (f p : List Byte), Safe.mboxFrame s m f p →
    (frameCmd f = 0x01 → p = [] →
      ∃ t, exec (.getInfo m) s = .next t ∧ Safe.onlyRecords s t ∧
        Safe.mboxSays s t m f mbOk ((List.range 7).flatMap (fun i => leBytes 4 (infoReg s i)))) ∧
    (frameCmd f = 0x20 → p.length = 8 → arg p 0 ≤ 1 →
      ∃ t, exec (.certRead m) s = .next t ∧ Safe.onlyRecords s t ∧
        Safe.mboxSays s t m f mbOk
          (leBytes 4 (idChain s (arg p 0)).length ++ ((idChain s (arg p 0)).drop (arg p 1)).take 248)) ∧
    (frameCmd f = 0x30 → p.length = 4 →
      ∃ t head, exec (.logRead m) s = .next t ∧ Safe.onlyRecords s t ∧ t.hl.log = s.hl.log ∧ head.length = 8 ∧
        Safe.mboxSays s t m f mbOk
          (head ++ ((s.hl.log.filter (fun e => decide (arg p 0 ≤ e.seq))).take 7).flatMap (·.bytes))) ∧
    (frameCmd f = 0x31 → p.length = 4 →
      ∃ t, exec (.logClear m) s = .next t ∧ Safe.onlyRecords s t ∧ t.hl.logLost = 0 ∧
        t.hl.log = s.hl.log.filter (fun e => decide (arg p 0 < e.seq)) ∧
        Safe.mboxSays s t m f mbOk (leBytes 4 (min 0xFFFFFFFF s.hl.logLost))) ∧
    (frameCmd f = 0x32 → p.length = 8 → 1 ≤ arg p 1 → arg p 1 ≤ 248 → arg p 0 + arg p 1 ≤ 0x40000 →
      ∃ t, exec (.crashRead m) s = .next t ∧ Safe.onlyRecords s t ∧ t.hl.journal = s.hl.journal ∧
        Safe.mboxSays s t m f mbOk (journalBytes s (arg p 0) (arg p 1))) ∧
    (knownCmd (frameCmd f) = false →
      ∃ t, exec (.unknownCmd m) s = .next t ∧ Safe.onlyRecords s t ∧ Safe.mboxSays s t m f mbBadCmd [])

/-- R346 to R349, R353: FW_BEGIN starts an update that belongs to its mailbox, and is Busy while one runs; FW_DATA at the next offset is
held; FW_END, once the whole image is held and its body hashes to BODY_DIGEST, makes it the image in flash; FW_ABORT ends the update; SVN_COMMIT
blows the fuses of every step up to the running image's SEC_VERSION where that is what the next boot loads. -/
def Obligations.FirmwareUpdatesWriteTheImage : Prop :=
  ∀ (s : State) (m : MboxSrc) (f p : List Byte) (c : ImageChecks) (faults : List BootFault) (u : FwUpd), Safe.mboxFrame s m f p →
    (frameCmd f = 0x10 → p = [] → s.hl.update = none →
      ∃ t, exec (.fwBegin m) s = .next t ∧ Safe.onlyRecords s t ∧ t.hl.update = some { pcie := srcPcie m } ∧
        Safe.mboxSays s t m f mbOk []) ∧
    (frameCmd f = 0x10 → p = [] → s.hl.update = some u →
      ∃ t, exec (.fwBegin m) s = .next t ∧ Safe.onlyRecords s t ∧ t.hl.update = some u ∧ Safe.mboxSays s t m f mbBusy []) ∧
    (frameCmd f = 0x11 → 8 ≤ p.length → s.hl.update = some u → u.pcie = srcPcie m → leNat (slice p 0 4) = u.bytes.length →
      (u.erased = true ∧ c.flashOk = true) ∨ (u.erased = false ∧ u.bytes.length + (p.length - 4) < 0x5000) →
      ∃ t, exec (.fwData m c false) s = .next t ∧ Safe.onlyRecords s t ∧
        t.hl.update = some { u with bytes := u.bytes ++ p.drop 4 } ∧ Safe.mboxSays s t m f mbOk []) ∧
    (frameCmd f = 0x12 → p = [] → s.hl.update = some u → u.pcie = srcPcie m → s.hl.boot ≠ .recovery →
      u.erased = true → u.bytes.length = 0x5000 + imgBody u.bytes → bodyOk u.bytes = true → c.flashOk = true →
      ∃ t, exec (.fwEnd m ⟨c, faults⟩) s = .next t ∧ Safe.onlyRecordsAndFlash s t ∧
        t.flash = { s.flash with image := u.bytes, whole := true, secVersion := imgSec u.bytes } ∧
        t.hl.update = none ∧ t.hl.updated = true ∧ t.hl.running = s.hl.running) ∧
    (frameCmd f = 0x13 → p = [] → s.hl.update = some u → u.pcie = srcPcie m →
      ∃ t, exec (.fwAbort m) s = .next t ∧ Safe.onlyRecords s t ∧ t.hl.update = none ∧ t.hl.updated = s.hl.updated) ∧
    (frameCmd f = 0x14 → p = [] → s.hl.update = none → s.hl.boot = .up → s.flash.secVersion = imgSec s.hl.running →
      s.flash.svn < imgSec s.hl.running →
      ∃ t, exec (.svnCommit m (imgSec s.hl.running)) s = .next t ∧ Safe.onlyRecordsAndFlash s t ∧
        t.flash = { s.flash with svnFuses := blowTo (imgSec s.hl.running) s.flash.svnFuses } ∧ (∀ i, i < min (imgSec s.hl.running) s.flash.svnFuses.length → ∃ p, t.flash.svnFuses[i]? = some p ∧ (p.1 || p.2) = true) ∧ Safe.mboxSays s t m f mbOk [])

/-- R369, R389: ALERT_CLEAR clears the alert bits its mask names and leaves the others; SETTINGS_WRITE of the role, and of a power budget
between 1,000 W and the grade's, stores it in flash; RESET with the whole module's code begins a module reset; POWER_DOWN begins
the power-down where the rails are up. That HBM reads zero once its contents are lost (log 3), and that a module reset leaves BOOT in
starting (log 146), are the model's choices. -/
def Obligations.MailboxActionsTakeEffect : Prop :=
  ∀ (s : State) (m : MboxSrc) (f p : List Byte), Safe.mboxFrame s m f p →
    (frameCmd f = 0x33 → p.length = 4 →
      ∃ t, exec (.alertClear m) s = .next t ∧ Safe.onlyRecords s t ∧ Safe.mboxSays s t m f mbOk [] ∧
        ∀ i, i < 4 → rb t (pgHeadland + 0x88) (16 + i) = (rb s (pgHeadland + 0x88) (16 + i) && !bitOf (arg p 0) i)) ∧
    (frameCmd f = 0x50 → s.hl.boot ≠ .recovery → p.length = 8 → arg p 0 = 1 → leNat (slice (p.drop 4) 0 1) ≤ 1 →
      ∃ t, exec (.settingsWrite m) s = .next t ∧ Safe.onlyRecordsAndFlash s t ∧ Safe.mboxSays s t m f mbOk [] ∧
        t.flash = { s.flash with role := decide (leNat (slice (p.drop 4) 0 1) = 1) }) ∧
    (frameCmd f = 0x50 → s.hl.boot ≠ .recovery → p.length = 8 → arg p 0 = 3 → 1000 ≤ leNat (slice (p.drop 4) 0 2) →
      leNat (slice (p.drop 4) 0 2) ≤ s.grade.tdp →
      ∃ t, exec (.settingsWrite m) s = .next t ∧ Safe.onlyRecordsAndFlash s t ∧ Safe.mboxSays s t m f mbOk [] ∧
        t.flash = { s.flash with budget := some (leNat (slice (p.drop 4) 0 2)) }) ∧
    (frameCmd f = 0x40 → p.length = 4 → arg p 0 = 0x100 → canModule s = true →
      ∃ t, exec (.reset m) s = .next t ∧ t.hl.boot = .starting ∧ t.hl.update = none ∧ t.queues = [] ∧ t.tms = [] ∧ t.hbm = []) ∧
    (frameCmd f = 0x41 → p = [] →
      ∃ t, exec (.powerDown m) s = .next t ∧ Safe.onlyRecords s t ∧ t.hl.downing = railsUp s ∧ Safe.mboxSays s t m f mbOk [])

/-! ### Queue commands -/

/-- R165, R166, R216: a NOP, SIGNAL, WAIT or FENCE at the head that waits for nothing takes the next sequence number, HEAD moves past it, and
where its REPORT is 1 an OK record under its handle waits for its ring. Without an attached signal nothing else of the module
changes: no tidemark, no memory, no other queue. -/
def Obligations.ShortCommandsAdvanceTheirQueue : Prop :=
  ∀ (s : State) (q op : Nat) (c : Rec) (i : Instr),
    (i, op) ∈ [(Instr.nop q, opNop), (.signal q, opSignal), (.wait q, opWait), (.fence q, opFence)] →
    Safe.ready s q op c → cSigEn c = false →
    ∃ t, exec i s = .next t ∧ Safe.advanced s t q ∧ Safe.otherQueues s t q ∧
      t = { s with queues := t.queues, regs := t.regs, strands := t.strands, pends := t.pends, hl := t.hl, out := t.out } ∧
      (cReport c = false → t.pends = s.pends) ∧
      (cReport c = true → t.pends = s.pends ++
        [{ job := Safe.job s q, ring := ringFor s (getQ s q) c,
           words := recWords (Safe.handle s q) (finishRec (getQ s q).tainted {}) (islTime s islIo) }])

/-- R168, R223, R226: at the head of its queue a WAIT whose tidemark is below VALUE waits with WAIT_KIND 1 and shows the tidemark and the
value, a FENCE waits with kind 5 while a long command of its queue has no record written, and a START waits with kind 2 while its
slot is busy in a valley of its group. Nothing but the queue's wait changes. -/
def Obligations.HeadCommandsWaitForTheirCondition : Prop :=
  ∀ (s : State) (q : Nat) (c : Rec),
    let x := getQ s q
    let since := if x.waits then x.waitSince else islTime s islIo
    (Safe.atHead s q opWait c → tmGet s (wf' c 2 12 0) < wd c 3 →
      exec (.wait q) s = .next (setQ s q { x with waitKind := 1, waitTm := BitVec.ofNat 13 (wf' c 2 12 0), waitValue := c.getD 3 0,
                                                  waitSince := since, waitMem := false })) ∧
    (Safe.atHead s q opFence c → (∃ o ∈ s.ops, o.queue = q) →
      exec (.fence q) s = .next (setQ s q { x with waitKind := 5, waitTm := 0, waitValue := 0, waitSince := since, waitMem := false })) ∧
    (Safe.atHead s q opStart c → (∀ v ∈ cValleys c, ((getV s v).slot (cLslot c)).st ≠ .invalid) →
      (∃ v ∈ cValleys c, ((getV s v).slot (cLslot c)).st.busy = true) →
      exec (.start q) s = .next (setQ s q { x with waitKind := 2, waitTm := 0, waitValue := 0, waitSince := since, waitMem := false }))

/-- R165, R221, R222: the attached signal of a command that is not long is performed at once where its queue has no earlier long command in
progress, no signal held and no configuration on its way: the tidemark is set to word 1 or word 1 is added to it modulo 2^64,
TM_SIGNALS counts it, and no other tidemark changes. -/
def Obligations.AttachedSignalsArePerformed : Prop :=
  ∀ (s : State) (q op : Nat) (c : Rec) (i : Instr),
    (i, op) ∈ [(Instr.nop q, opNop), (.signal q, opSignal), (.wait q, opWait), (.fence q, opFence)] →
    Safe.ready s q op c → cSigEn c = true → (getQ s q).sigs = [] → (∀ o ∈ s.ops, o.queue ≠ q) →
    (∀ e ∈ s.valleys, ∀ m ∈ e.2.inbox, m.queue ≠ q) →
    ∃ t, exec i s = .next t ∧ Safe.advanced s t q ∧ (getQ t q).sigs = [] ∧
      tmGet t (cSigTm c) = (if cSigAdd c then (tmGet s (cSigTm c) + wd c 1) % 2 ^ 64 else wd c 1) ∧
      (∀ n, n ≠ cSigTm c → tmGet t n = tmGet s n) ∧ rd64 t (pgTm + 0x90) = (rd64 s (pgTm + 0x90) + 1) % 2 ^ 64 ∧
      t.hbm = s.hbm ∧ t.host = s.host ∧ t.sram = s.sram ∧ t.valleys = s.valleys ∧ t.streams = s.streams ∧ t.escs = s.escs

/-- R163, R185: a PATCH, and a CFG_WRITE whose source can be read, put their words in their slot of every valley of the group, and a
write of word 0 makes an EMPTY or INVALID slot LOADED. No other word, slot or valley changes. -/
def Obligations.ConfigurationReachesItsSlots : Prop :=
  ∀ (s : State) (q : Nat) (c : Rec), cSigEn c = false →
    (Safe.ready s q opPatch c → (∀ v ∈ cValleys c, valleyTakes s v = true) →
      ∃ t, exec (.patch q) s = .next t ∧ Safe.advanced s t q ∧ Safe.otherQueues s t q ∧
        Safe.slotsTake s t c (wf' c 3 8 0) ((c.drop 4).take (wf' c 3 11 9)) ∧
        t = { s with queues := t.queues, regs := t.regs, strands := t.strands, pends := t.pends, valleys := t.valleys, hl := t.hl,
                     out := t.out }) ∧
    (Safe.ready s q opCfgWrite c → bitOf (wd c 4) 19 = false →
      let g := nread (slCommand (takeHead s q).1 q (Safe.seq s q) c false false) (Safe.job s q) (Safe.handle s q) (wd c 3) (8 * wf' c 4 18 9)
      g.failed = none → g.s.hostWait = false → (∀ v ∈ cValleys c, valleyTakes g.s v = true) →
      ∃ t, exec (.cfgWrite q) s = .next t ∧ Safe.advanced s t q ∧ Safe.slotsTake s t c (wf' c 4 8 0) (words64 g.bytes) ∧
        t.hbm = g.s.hbm ∧ t.host = g.s.host ∧ t.sram = s.sram ∧ t.tms = s.tms ∧ t.streams = s.streams ∧ t.escs = s.escs)

/-- R168, R181, R418: a START whose slots stand LOADED in every valley of its group, with images that pass, no parameter blocks to check
and no linked abort, arms its task in every valley of the group: the slot takes its handle and keeps its words, the task names the
cores that take part. No other valley changes. -/
def Obligations.StartArmsItsSlots : Prop :=
  ∀ (s : State) (q : Nat) (c : Rec), Safe.ready s q opStart c → cSigEn c = false → opFind s q (Safe.seq s q) = none →
    (∀ h ∈ s.holdOps, h.late = []) →
    let l := cLslot c
    let m := fun v => ((getV s v).slot l).words
    cValleys c ≠ [] → iPbCount (m ((cValleys c).headD 0)) = 0 → iGuardEn (m ((cValleys c).headD 0)) = false →
    (∀ v ∈ cValleys c, valleyTakes s v = true ∧ ((getV s v).slot l).st = .loaded ∧ ((getV s v).slot l).linkAbort = none ∧
      imageBad s.grade (m v) = none ∧ imageForeign s (Safe.job s q) v (m v) = none ∧ imageAbsent s v (m v) = none) →
    ∃ t, exec (.start q) s = .next t ∧ Safe.advanced s t q ∧ Safe.otherQueues s t q ∧ Safe.runs s t q c ∧
      (∀ v ∈ cValleys c, ((getV t v).slot l).st = .armed ∧ ((getV t v).slot l).words = m v ∧
        ((getV t v).slot l).handle = BitVec.ofNat 64 (Safe.handle s q) ∧
        ((getV t v).slot l).task = some { queue := q, seq := Safe.seq s q, cores := taskCores s v (m v), nonrestart := taskOverlap v (m v) }) ∧
      (∀ v, v ∉ cValleys c → getV t v = getV s v) ∧
      t.hbm = s.hbm ∧ t.host = s.host ∧ t.sram = s.sram ∧ t.tms = s.tms ∧ t.streams = s.streams

/-- R174, R188, R208, R209: a dispatched COPY joins the end of its stream, with the alternative list where its escalation entry holds E4M3
for its step, and waits at a held engine (R392); a dispatched SMALL whose DEST translates puts its bytes in the line buffer of their line. R249, R253, R255, R275, R276,
R287: a dispatched REDUCE of an enabled job, no other waiting, takes a free bucket context with the plan it read and is ARMED; a
dispatched UPDATE in an idle Berm unit begins with the optimiser record it read, and may claim blocks unless its norm tidemark
holds it. -/
def Obligations.TransfersReducesAndUpdatesBegin : Prop :=
  (∀ (s : State) (q : Nat) (c : Rec), cSigEn c = false →
     (∀ e, Safe.ready s q opCopy c → cTarget c = some (.engine e) → held s (pgEng e) = true →
       ∃ t, exec (.copy q) s = .next t ∧ Safe.advanced s t q ∧ Safe.runs s t q c ∧
         (getStream t e (wf' c 4 27 16)).copies = (getStream s e (wf' c 4 27 16)).copies ∧
         ∃ k, (getStream t e (wf' c 4 27 16)).input = (getStream s e (wf' c 4 27 16)).input ++ [.copy k] ∧
           k.queue = q ∧ k.seq = Safe.seq s q ∧ k.job = Safe.job s q ∧ k.count = wf' c 4 15 0) ∧
     (∀ e, Safe.ready s q opCopy c → cTarget c = some (.engine e) → held s (pgEng e) = false →
       ∃ t, exec (.copy q) s = .next t ∧ Safe.advanced s t q ∧ Safe.otherQueues s t q ∧ Safe.runs s t q c ∧
         (getStream t e (wf' c 4 27 16)).copies = (getStream s e (wf' c 4 27 16)).copies ++
           [{ queue := q, seq := Safe.seq s q, job := Safe.job s q, count := wf' c 4 15 0,
              list := if bitOf (wd c 4) 28 && (getEsc s (Safe.job s q) (wf' c 6 43 32)).stateFor (wf' c 6 31 0) then wd c 5 else wd c 3 }] ∧
         t = { s with queues := t.queues, regs := t.regs, strands := t.strands, ops := t.ops, streams := t.streams, escs := t.escs,
                      hl := t.hl, out := t.out }) ∧
     (Safe.ready s q opSmall c → s.lines = [] → rf s (pgNar + 0x80) 7 0 ≠ 0 →
       let p := translate (Safe.handed s q c) (narReq (Safe.job s q) (Safe.handle s q)) (wd c 3) true
       ∀ a, p.2 = some a → p.1.hostWait = false →
       ∃ t b, exec (.small q) s = .next t ∧ Safe.advanced s t q ∧ Safe.runs s t q c ∧ t.lines = [b] ∧ b.host = a.host ∧
         b.line = a.addr / 64 ∧ b.smalls = [(q, Safe.seq s q)] ∧
         (∀ i, i < min (wf' c 4 4 0) 24 → tget 0 b.bytes (a.addr % 64 + i) = (smallBytes c).getD i 0) ∧
         t.hbm = p.1.hbm ∧ t.host = s.host ∧ t.sram = s.sram ∧ t.tms = s.tms)) ∧
  (∀ (s : State) (q x h : Nat) (c : Rec), cSigEn c = false →
     (Safe.ready s q opReduce c → opFind s q (Safe.seq s q) = none → s.estWait = [] → s.early = [] → freeCtx s = some x →
       estEnabled s (Safe.job s q) = true → bucketBusy s (Safe.job s q) (rdBucket c) = false →
       let k : Ctx := { st := .armed, queue := q, seq := Safe.seq s q, job := Safe.job s q, cmd := c }
       let r := setCtx { settle { Safe.handed s q c with estWait := [(q, Safe.seq s q)] } pgEst with estWait := [] } x k
       let g := vread r (ctxReq k) (rdPlan c) 64
       g.failed = none → g.s.hostWait = false → planBad s.grade (words64 g.bytes) = false →
       ∃ t, exec (.reduce q) s = .next t ∧ Safe.advanced s t q ∧ Safe.otherQueues s t q ∧ Safe.runs s t q c ∧
         getCtx t x = { k with plan := words64 g.bytes } ∧ t.estWait = [] ∧ (∀ y, y ≠ x → getCtx t y = getCtx s y) ∧
         t.txFlows = s.txFlows ∧ t.host = s.host ∧ t.sram = s.sram ∧ t.tms = s.tms) ∧
     (Safe.ready s q opUpdate c → cTarget c = some (.berm h) → bermList s h = [] → 0 < uCount c →
       let u : Upd := { queue := q, seq := Safe.seq s q, job := Safe.job s q, cmd := c }
       let r := settle (setBerm (Safe.handed s q c) h [u]) (pgBerm h)
       let g := vread r (bermReq u) (wd c 6) 128
       g.failed = none → g.s.hostWait = false → working r (pgBerm h) = true → optBad (uNormWait c) (words64 g.bytes) = false →
       ∃ t, exec (.update q) s = .next t ∧ Safe.advanced s t q ∧ Safe.otherQueues s t q ∧ Safe.runs s t q c ∧
         bermList t h = [{ u with started := true, turn := 1, opt := words64 g.bytes,
                                  normOk := !uNormWait c || decide (oKind (words64 g.bytes) = 5) }] ∧
         (∀ k, k ≠ h → bermList t k = bermList s k) ∧ t.host = s.host ∧ t.sram = s.sram ∧ t.tms = s.tms))

/-- R302, R391, R392: a dispatched SNAP stands at Tideway, and every other queue of its job is paused; a dispatched HOLD whose blocks are
all armed and running makes each of them enter the hold, under its wake tidemark and value. -/
def Obligations.SnapAndHoldBegin : Prop :=
  ∀ (s : State) (q : Nat) (c : Rec), cSigEn c = false →
    (Safe.ready s q opSnap c →
      ∃ t, exec (.snap q) s = .next t ∧ Safe.advanced s t q ∧ Safe.runs s t q c ∧
        t.snaps = s.snaps ++ [{ queue := q, seq := Safe.seq s q, job := Safe.job s q }] ∧
        (∀ p, rf s (bk (pgJob + 0x90) (Safe.job s q)) 13 0 ≤ p →
          p < rf s (bk (pgJob + 0x90) (Safe.job s q)) 13 0 + rf s (bk (pgJob + 0x90) (Safe.job s q)) 30 16 → p ≠ q →
          getQ t p = (getQ s p).pause (q, Safe.seq s q) (islTime s islIo)) ∧
        (∀ p, p ≠ q → ownsQueue s (Safe.job s q) p = false → getQ t p = getQ s p) ∧
        t.hbm = s.hbm ∧ t.host = s.host ∧ t.sram = s.sram ∧ t.tms = s.tms) ∧
    (Safe.ready s q opHold c → cPages c ≠ [] →
      (∀ pg ∈ cPages c, armedHold s pg = true ∧ held s pg = false ∧ (blk s pg).entering = false ∧ (blk s pg).scope = none ∧
        stewardless s pg = false) →
      ∃ t, exec (.hold q) s = .next t ∧ Safe.advanced s t q ∧ Safe.otherQueues s t q ∧ Safe.runs s t q c ∧
        t.holdOps = s.holdOps ++ [{ queue := q, seq := Safe.seq s q, pages := cPages c, held := 0, unarmed := 0 }] ∧
        (∀ pg ∈ cPages c, (blk t pg).entering = true ∧ (blk t pg).wakeTm = wf' c 3 12 0 ∧ (blk t pg).wakeVal = c.getD 4 0) ∧
        (∀ pg, pg ∉ cPages c → blk t pg = blk s pg) ∧
        t.hbm = s.hbm ∧ t.host = s.host ∧ t.sram = s.sram ∧ t.tms = s.tms)

/-- R161, R175, R177, R230, R393: a dispatched CALL_CHART whose chart and parameters can be read begins its replay, every reference
substituted and checked, once a verify-at-load check finds nothing in it, and stops its queue where it does; a RELEASE wakes each of its blocks held or entering the hold; a CANCEL of a
command not yet dispatched enters it in its queue's cancellation list, and one of a command already completed changes nothing. -/
def Obligations.ChartsReleasesAndCancelsAct : Prop :=
  ∀ (s : State) (q : Nat) (c : Rec),
    (∀ cmds ps, Safe.ready s q opCallChart c → opFind s q (Safe.seq s q) = none →
      let r := chartRead (Safe.handed s q c) (Safe.job s q) (Safe.handle s q) c
      let cs := cmds.map (substRec ps)
      let g := scanLoad (slParams r.1 (Safe.job s q) (wd c 3) ps) q (Safe.seq s q + 1) true 0 cs
      r.2 = .ok cmds ps → g.1.hostWait = false →
      (g.2 = none → ∃ t, exec (.callChart q) s = .next t ∧ Safe.advanced s t q ∧ Safe.runs s t q c ∧
        (getQ t q).replay = some { seq := Safe.seq s q, cmd := c, cmds := (List.range cs.length).map (fun i => (i, cs.getD i [])) } ∧
        (boundTo g.1 q = none → t.tms = s.tms) ∧ t.sram = s.sram ∧ t.valleys = s.valleys) ∧
      (∀ i reason, g.2 = some (i, reason) → ∃ t, exec (.callChart q) s = .next t ∧ (getQ t q).replay = none ∧
        (getQ t q).stopped = true ∧ (getQ t q).stopCause = 1 ∧ (getQ t q).nextSeq = (getQ s q).nextSeq + 1 ∧
        Safe.ended t q (Safe.seq s q) { status := stRejected, badReason := reason, index := i } ∧
        t.tms = s.tms ∧ t.sram = s.sram ∧ t.valleys = s.valleys)) ∧
    (Safe.ready s q opRelease c → cSigEn c = false →
      ∃ t, exec (.release q) s = .next t ∧ Safe.advanced s t q ∧ Safe.otherQueues s t q ∧
        (∀ pg ∈ cPages c, wakeable s pg (blk s pg) = true → blk t pg = { blk s pg with wake := true }) ∧
        (∀ pg, pg ∉ cPages c ∨ wakeable s pg (blk s pg) = false → blk t pg = blk s pg) ∧
        t = { s with queues := t.queues, regs := t.regs, strands := t.strands, pends := t.pends, blks := t.blks, hl := t.hl, out := t.out }) ∧
    (Safe.ready s q opCancel c → cSigEn c = false →
      let p := wd c 2 / 2 ^ 50
      let n := wd c 2 % 2 ^ 50
      (p ≠ q → (getQ s p).nextSeq.toNat ≤ n → (getQ s p).cancels.contains n = false →
        ∃ t, exec (.cancel q) s = .next t ∧ Safe.advanced s t q ∧ getQ t p = { getQ s p with cancels := (getQ s p).cancels ++ [n] } ∧
          (∀ k, k ≠ q → k ≠ p → getQ t k = getQ s k) ∧
          t = { s with queues := t.queues, regs := t.regs, strands := t.strands, pends := t.pends, hl := t.hl, out := t.out }) ∧
      (n < (getQ s p).nextSeq.toNat → opFind s p n = none → Safe.seq s q + 1 < 2 ^ 50 →
        ∃ t, exec (.cancel q) s = .next t ∧ Safe.advanced s t q ∧ Safe.otherQueues s t q ∧
          t = { s with queues := t.queues, regs := t.regs, strands := t.strands, pends := t.pends, hl := t.hl, out := t.out }))

/-! ### The queue manager -/

/-- R213, R215: a DOORBELL by a function that reaches its queue moves TAIL, and the commands added form one load; a value not below the
ring's size sets BAD_DOORBELL and changes no queue. COMMAND_FETCH reads the next record of the ring behind those fetched. -/
def Obligations.DoorbellsSubmitAndFetchesRead : Prop :=
  ∀ (s : State) (fn q : Nat) (v : Word32), s.hostWait = false →
    let x := getQ s q
    let n := (v.toNat + ringLen x - x.tail.toNat % ringLen x) % ringLen x
    (fnOk s fn (fun j => ownsQueue s j q) = true → jobState s x.job.toNat < 2 →
      (v.toNat < ringLen x → v.toNat < 2 ^ 16 → (x.loads.filter (fun l => !l.checked)).length < 64 →
        exec (.doorbell fn q v) s = .next (setQ s q { x with
          tail := BitVec.ofNat 16 v.toNat, loads := if n = 0 then x.loads else x.loads ++ [{ count := n }] })) ∧
      (ringLen x ≤ v.toNat → ∃ t, exec (.doorbell fn q v) s = .next t ∧ rb t (pgQm + 0x14) 8 = true ∧ Safe.onlyRecords s t)) ∧
    (queueLive s x = true → x.skipMode = false → x.fetchBad = none →
      x.fetched.length < (x.tail.toNat + ringLen x - x.head.toNat % ringLen x) % ringLen x →
      let g := nread s x.job.toNat (handleOf q (x.nextSeq.toNat + x.fetched.length))
        (x.cmdBase.toNat * 4096 + 64 * ((x.head.toNat + x.fetched.length) % ringLen x)) 64
      g.failed = none → g.s.hostWait = false →
      ∃ t, exec (.commandFetch q) s = .next t ∧ getQ t q = { x with fetched := x.fetched ++ [words64 g.bytes] } ∧
        Safe.otherQueues s t q ∧ t.hbm = g.s.hbm ∧ t.tms = s.tms ∧ t.sram = s.sram)

/-- R178, R180: Breakwater checks the front load once its records are fetched. A load in which it finds nothing is checked; one with a bad
command is rejected whole: a REJECTED record with the reason and the command's index in the load waits on the queue's default ring,
and the queue stops with STOP_CAUSE 1. -/
def Obligations.LoadsAreCheckedWhole : Prop :=
  ∀ (s : State) (q : Nat) (l : Load) (rest : List Load),
    let x := getQ s q
    let g := scanLoad s q (x.nextSeq.toNat - l.gone.length) false l.gone.length (l.gone ++ x.fetched.take l.count)
    queueLive s x = true → x.skipMode = false → x.replay = none → x.loads = l :: rest → l.checked = false → x.fetched ≠ [] →
    l.count ≤ x.fetched.length → g.1.hostWait = false →
    (g.2 = none → ∃ t, exec (.loadCheck q) s = .next t ∧ getQ t q = { x with loads := { l with checked := true } :: rest } ∧
      Safe.otherQueues s t q ∧ t.pends = g.1.pends ∧ t.ops = g.1.ops ∧ t.tms = s.tms) ∧
    (∀ i reason, g.2 = some (i, reason) → ∃ t, exec (.loadCheck q) s = .next t ∧ (getQ t q).stopped = true ∧
      (getQ t q).stopCause = 1 ∧ (getQ t q).head = x.head ∧ (getQ t q).nextSeq = x.nextSeq ∧ (getQ t q).fetched = [] ∧
      Safe.otherQueues s t q ∧ t.ops = g.1.ops ∧ t.tms = s.tms ∧
      t.pends = g.1.pends ++ [{
        job := x.job.toNat, ring := x.defaultRing.toNat
        words := recWords (handleOf q x.nextSeq.toNat)
          (finishRec x.tainted { status := stRejected, badReason := reason, index := i }) (islTime g.1 islIo) }])

/-- R219, R221, R222: SIGNAL_RELEASE performs the oldest held signal of its queue once its rule is met, and nothing before.
COMPLETION_WRITE puts the oldest record that waits for a ring into host memory with the ring's PHASE, WRITE_IDX moves on and PHASE
turns at the ring's end. Clearing FAULT of a ring for which nothing waits changes that bit alone. -/
def Obligations.SignalsAndRecordsAreReleased : Prop :=
  ∀ (s : State) (q fn n : Nat), s.hostWait = false →
    let r := getRing s n
    (∀ g rest, up s = true → (getQ s q).sigs = g :: rest →
      (sigReady s q g = true → ∃ t, exec (.signalRelease q) s = .next t ∧ (getQ t q).sigs = rest ∧
        tmGet t g.tm = (if g.add then (tmGet s g.tm + g.value.toNat) % 2 ^ 64 else g.value.toNat) ∧
        (∀ k, k ≠ g.tm → tmGet t k = tmGet s k) ∧ rd64 t (pgTm + 0x90) = (rd64 s (pgTm + 0x90) + 1) % 2 ^ 64 ∧
        t.hbm = s.hbm ∧ t.host = s.host ∧ t.sram = s.sram ∧ Safe.otherQueues s t q) ∧
      (sigReady s q g = false → exec (.signalRelease q) s = .next s)) ∧
    (s.jobCmds = [] → (∀ e ∈ s.queues, e.2.resetting = false) →
      (∀ p, up s = true → s.pends.find? (fun p => p.ring = n) = some p → r.enable = true → r.fault = false → ringFull r = false →
        s.lines = [] → (∀ o ∈ s.ops, o.job = p.job → o.phase ≠ .ended) →
        let u := translate s (narReq r.job.toNat (p.words.getD 0 0).toNat)
          (r.base.toNat * 4096 + 32 * (r.writeIdx.toNat % 2 ^ r.sizeLog2.toNat)) true
        ∀ a, u.2 = some a → a.host = true → p.words.length = 4 → (hostTouch u.1 (.narrows r.job.toNat)).hostWait = false →
        ∃ t, exec (.completionWrite n) s = .next t ∧ t.pends = s.pends.erase p ∧
          getRing t n = { r with
            writeIdx := r.writeIdx + 1, records := r.records + 1
            phase := if (r.writeIdx + 1).toNat % 2 ^ r.sizeLog2.toNat = 0 then !r.phase else r.phase } ∧
          (∀ m, m ≠ n → getRing t m = getRing s m) ∧ t.host = memSet s.host a.addr (bytes64 (withPhase p.words r.phase)) ∧
          (∀ k, p.op = some k → ∀ o ∈ t.ops, ¬(o.queue = k.1 ∧ o.seq = k.2)) ∧
          t.hbm = u.1.hbm ∧ t.sram = s.sram ∧ t.tms = s.tms ∧ t.queues = s.queues) ∧
      (fnOk s fn (fun j => ownsRing s j n) = true → (∀ p ∈ s.pends, p.ring ≠ n) →
        exec (.ringFaultRetry fn n) s = .next (setRing s n { r with fault := false })))

/-- R217, R228, R229, R233: an expired watchdog whose command still waits stops its queue with STOP_CAUSE 2, the command taking its number
and completing WAIT_TIMEOUT, and a stall report of its job stands; where the condition now holds nothing changes. A head command
whose memory requests are held (R407) times out likewise. STALL_ACK releases the report. A STOP stops the queue with STOP_CAUSE 3, a RESUME lets it run on; a QUEUE_RESET of a queue with no long command in
progress leaves it empty, numbering from 0. -/
def Obligations.QueuesStopResumeAndReset : Prop :=
  ∀ (s : State) (fn q : Nat), s.hostWait = false → (∀ e ∈ s.queues, e.2.paused = false) →
    let x := getQ s q
    let j := x.job.toNat
    (∀ c, up s = true → x.stopped = false → x.waitMem = true → headOf x = some ⟨c, none, 0xFFFF⟩ →
      (memReady s j = true → exec (.watchdogExpiry q) s = .next s) ∧
      (memReady s j = false → cOp c ≠ opSnap → isLong (cOp c) = false →
        ∃ t, exec (.watchdogExpiry q) s = .next t ∧ (getQ t q).stopped = true ∧ (getQ t q).stopCause = 2 ∧
          t.pends = s.pends ++ [{
            job := j, ring := ringFor s x c
            words := recWords (handleOf q x.nextSeq.toNat) (finishRec x.tainted { status := stTimeout }) (islTime s islIo) }])) ∧
    (∀ c, up s = true → x.stopped = false → x.waitKind ≠ 0 → x.waitMem = false → headOf x = some ⟨c, none, 0xFFFF⟩ →
      (waitsFor s q ⟨c, none, 0xFFFF⟩ = none → exec (.watchdogExpiry q) s = .next s) ∧
      (∀ w, waitsFor s q ⟨c, none, 0xFFFF⟩ = some w → isLong (cOp c) = true → cOp c ≠ opSnap → opFind s q x.nextSeq.toNat = none →
        ∃ t, exec (.watchdogExpiry q) s = .next t ∧ (getQ t q).stopped = true ∧ (getQ t q).stopCause = 2 ∧
          (getQ t q).nextSeq = x.nextSeq + 1 ∧ (tget {} t.stalls j).valid = true ∧
          Safe.ended t q x.nextSeq.toNat
            { status := stTimeout, detail := if w.kind = 1 then tmGet s w.tm else 0, index := if w.kind = 1 then w.tm else 0 } ∧
          Safe.otherQueues s t q ∧ t.tms = s.tms ∧ t.hbm = s.hbm ∧ t.host = s.host) ∧
      (∀ w, waitsFor s q ⟨c, none, 0xFFFF⟩ = some w → isLong (cOp c) = false →
        ∃ t, exec (.watchdogExpiry q) s = .next t ∧ (getQ t q).stopped = true ∧ (getQ t q).stopCause = 2 ∧
          (getQ t q).nextSeq = x.nextSeq + 1 ∧ (tget {} t.stalls j).valid = true ∧
          ((tget {} s.stalls j).valid = false → (tget {} t.stalls j).trigger = q) ∧
          t.pends = s.pends ++ [{
            job := j, ring := ringFor s x c
            words := recWords (handleOf q x.nextSeq.toNat)
              (finishRec x.tainted { status := stTimeout, detail := if w.kind = 1 then tmGet s w.tm else 0, index := if w.kind = 1 then w.tm else 0 }) (islTime s islIo) }] ∧
          Safe.otherQueues s t q ∧ t.ops = s.ops ∧ t.tms = s.tms ∧ t.hbm = s.hbm ∧ t.host = s.host)) ∧
    (∀ job, up s = true → exec (.stallAck job) s = .next { s with stalls := tput {} s.stalls job {} }) ∧
    (fnOk s fn (fun j => ownsQueue s j q) = true →
      (x.stopped = true → exec (.stop fn q) s = .next s) ∧
      (x.stopped = false → ∃ t, exec (.stop fn q) s = .next t ∧
        getQ t q = { x with
          stopped := true, stopCause := 3, fetched := [], fetchBad := none, loads := x.loads.map (fun l => { l with checked := false })
          waitKind := 0, waitTm := 0, waitValue := 0, waitSince := 0, waitFloor := 0, waitMem := false } ∧
        rb t (pgQm + 0x28) 9 = true ∧ t = { s with queues := t.queues, regs := t.regs, hl := t.hl, out := t.out } ∧
        Safe.otherQueues s t q) ∧
      exec (.resume fn q) s = .next (setQ s q { x with stopped := false, stopCause := 0 }) ∧
      (x.resetting = false → x.sigs = [] → (∀ o ∈ s.ops, o.queue ≠ q) →
        ∃ t, exec (.queueReset fn q) s = .next t ∧
          getQ t q = { x with
            nextSeq := 0, head := x.tail, tainted := false, stopped := false, stopCause := 0, waitKind := 0, waitTm := 0
            waitValue := 0, waitSince := 0, waitFloor := 0, waitMem := false, cancels := [], sigs := [], loads := [], fetched := []
            fetchBad := none, replay := none, resetting := false } ∧
          Safe.otherQueues s t q ∧ t = { s with queues := t.queues, regs := t.regs, valleys := t.valleys } ∧
          ((∀ e ∈ s.valleys, ∀ m ∈ e.2.inbox, m.queue ≠ q) → t.valleys = s.valleys)))

/-! ### Tidemarks and the escalation table -/

/-- R221, R224: through the window a function that reaches a tidemark sets it with a 64-bit write, which is no signal, and reads one
consistent value; a narrower write is dropped with BAD_TM_ACCESS. A write of TM_ADD_VALUE adds to the tidemark of TM_ADD_INDEX as
one signal, a 32-bit one with the latched low half, and clears the latch. No other tidemark changes. -/
def Obligations.TidemarksAreSetReadAndAdded : Prop :=
  ∀ (s : State) (fn n w : Nat) (v : Word64) (lo : Word32) (wide : Bool), up s = true →
    (fnOk s fn (fun j => ownsTm s j n) = true →
      (∃ t, exec (.tmWrite fn n 64 v) s = .next t ∧ tmGet t n = v.toNat ∧ (∀ k, k ≠ n → tmGet t k = tmGet s k) ∧
        rd64 t (pgTm + 0x90) = rd64 s (pgTm + 0x90) ∧
        t = { s with tms := t.tms, blks := t.blks, strands := t.strands, regs := t.regs }) ∧
      (w ≠ 64 → ∃ t, exec (.tmWrite fn n w v) s = .next t ∧ rb t (pgQm + 0x14) 11 = true ∧ Safe.onlyRecords s t) ∧
      exec (.tmRead fn n w) s = .next { s with out := s.out ++ [.data (tmGet s n % 2 ^ w)] }) ∧
    (fnOk s fn (fun j => ownsTm s j n) = false → ∃ t, exec (.tmWrite fn n w v) s = .next t ∧ Safe.onlyRecords s t) ∧
    exec (.tmAddLatch lo) s = .next { s with tmLatch := lo } ∧
    (let k := rf s (pgTm + 0x80) 12 0
     ∃ t, exec (.tmAdd wide v) s = .next t ∧ t.tmLatch = 0 ∧
       tmGet t k = (tmGet s k + (if wide then v.toNat else v.toNat % 2 ^ 32 * 2 ^ 32 + s.tmLatch.toNat)) % 2 ^ 64 ∧
       (∀ m, m ≠ k → tmGet t m = tmGet s m) ∧ rd64 t (pgTm + 0x90) = (rd64 s (pgTm + 0x90) + 1) % 2 ^ 64 ∧
       t = { s with tms := t.tms, blks := t.blks, strands := t.strands, regs := t.regs, tmLatch := 0 })

/-- R72, R73, R75, R77: a report moves an enabled entry's LAST_STEP on and shifts HISTORY, and a guard report that brings TRIPS to
TRIP_LIMIT changes an unpinned PJ4 entry to E4M3 with ESCALATED; a report for an entry not enabled is dropped. READ shows the entry's
eight words, all 0 with NO_JOB for a job that does not exist. COMMIT writes the RW fields, and a change of state where the pin asks
for it; a refused COMMIT leaves the table as it was. That the clear bit also clears what the entry remembers of its last report is the
model's choice (log 173). -/
def Obligations.EscalationFollowsReportsAndCommits : Prop :=
  ∀ (s : State) (r : Report) (rest : List Report) (clear again : Bool), up s = true →
    let e := getEsc s r.job r.layer
    let moved := { e with history := e.history <<< (r.step - e.lastStep.toNat), lastStep := BitVec.ofNat 32 r.step, rep := true, shut := false }
    let ix := escIndex s
    let old := getEsc s ix.1 ix.2.1
    let n := old.staged (rd s (pgEsc + 0xA0)) (rd s (pgEsc + 0xA4))
    (s.reports = r :: rest →
      (e.enable = false → exec .escalationReport s = .next { s with reports := rest }) ∧
      (e.enable = true → e.lastStep.toNat < r.step → e.toE4m3 = false →
        (r.guard = false → exec .escalationReport s = .next (setEsc { s with reports := rest } r.job r.layer moved)) ∧
        (r.guard = true → e.pin = 0 → e.tripLimit.toNat ≤ ({ moved with history := setBit moved.history 0 true } : Esc).trips →
          ∃ t, exec .escalationReport s = .next t ∧ rb t (pgEsc + 0x28) 8 = true ∧
            (getEsc t r.job r.layer).toE4m3 = true ∧ (getEsc t r.job r.layer).history = 0 ∧
            (getEsc t r.job r.layer).switches.toNat = min (e.switches.toNat + 1) 65535 ∧
            (getEsc t r.job r.layer).switchStep = BitVec.ofNat 32 (max r.step e.dispatchStep.toNat + 1) ∧
            (∀ k, k ≠ escKey r.job r.layer → tget {} t.escs k = tget {} s.escs k) ∧
            t = { s with reports := rest, escs := t.escs, regs := t.regs, hl := t.hl, out := t.out }))) ∧
    (∃ t, exec .read s = .next t ∧ Safe.onlyRecords s t ∧
      (∀ k, k < 8 → rd t (pgEsc + 0xA0 + 4 * k) = if ix.2.2 then old.words.getD k 0 else 0) ∧
      rb t (pgEsc + 0x88) 0 = !ix.2.2 ∧ (ix.2.2 = false → rb t (pgEsc + 0x14) 9 = true)) ∧
    (ix.2.2 = true → n.refused = false →
      ∃ t, exec (.commit clear again) s = .next t ∧ rb t (pgEsc + 0x88) 1 = false ∧
        t = { s with escs := t.escs, regs := t.regs, hl := t.hl, out := t.out } ∧
        (∀ k, k ≠ escKey ix.1 ix.2.1 → tget {} t.escs k = tget {} s.escs k) ∧
        (n.pin = 1 → (getEsc t ix.1 ix.2.1).toE4m3 = false) ∧ (n.pin = 2 → (getEsc t ix.1 ix.2.1).toE4m3 = true) ∧
        (n.pin = 0 → getEsc t ix.1 ix.2.1 =
          if clear then { n with history := 0, cleanCount := 0, lastStep := 0, rep := false, shut := false } else n)) ∧
    (ix.2.2 = true → n.refused = true →
      ∃ t, exec (.commit clear again) s = .next t ∧ Safe.onlyRecords s t ∧ rb t (pgEsc + 0x88) 1 = true ∧ rb t (pgEsc + 0x14) 8 = true)

/-! ### Jobs, resets -/

/-- R315 to R317, R320: a CREATE of a free job whose ranges and table are good makes it active: its queues and rings stand at their reset
values under it, its tidemarks and escalation entries read 0. One of a job that exists is refused with REFUSE 1 and BAD_JOB_CMD. -/
def Obligations.CreateMakesAJobActive : Prop :=
  ∀ (s : State) (j : Nat) (vf : Bool), up s = true → s.hostWait = false → s.jobCmds = [] → (∀ e ∈ s.queues, e.2.resetting = false) →
    (jobState s j = 0 → rangeClash s j = false → rootBad s j = false →
      ∃ t, exec (.create j vf) s = .next t ∧ jobState t j = 1 ∧ vfEn t j = vf ∧ t.jobCmds = [] ∧
        (∀ q ∈ ownedRange s j 0x90, getQ t q = { job := BitVec.ofNat 6 j }) ∧ (∀ q, q ∉ ownedRange s j 0x90 → getQ t q = getQ s q) ∧
        (∀ n ∈ ownedRange s j 0x98, getRing t n = { job := BitVec.ofNat 6 j }) ∧
        (∀ n, n ∉ ownedRange s j 0x98 → getRing t n = getRing s n) ∧
        (∀ n ∈ ownedRange s j 0x94, tmGet t n = 0) ∧ (∀ n, n ∉ ownedRange s j 0x94 → tmGet t n = tmGet s n) ∧
        (∀ l, l < 4096 → getEsc t j l = {}) ∧ (∀ i, i ≠ j → jobState t i = jobState s i) ∧
        t.hbm = s.hbm ∧ t.host = s.host ∧ t.sram = s.sram ∧ t.owners = s.owners) ∧
    (jobState s j ≠ 0 → ∃ t, exec (.create j vf) s = .next t ∧ Safe.onlyRecords s t ∧ jobState t j = jobState s j ∧
      rf t (jobCtl j) 11 8 = 1 ∧ rb t (pgJob + 0x14) 8 = true)

/-- R233, R318 to R320, R326: a JOB_RESET of a job with no long command in progress and no valley leaves it active with its queues empty
and numbering from 0, its tidemarks and escalation entries at 0; a DESTROY leaves it free, with no range and no valley, and
JOB_DESTROYED set. Either is without effect on a free job, which is the model's choice (log 134). INVAL takes the job's translations
from every translating unit, sets INVAL_BUSY while a walk has still to end, and changes nothing else. -/
def Obligations.ResetAndDestroyClearAJob : Prop :=
  ∀ (s : State) (j : Nat), up s = true → s.hostWait = false → s.jobCmds = [] →
    (∀ e ∈ s.queues, e.2.resetting = false ∧ e.2.paused = false) →
    (jobState s j ≠ 0 → ownedValleys s j = [] →
      (∀ q ∈ ownedRange s j 0x90, (∀ o ∈ s.ops, o.queue ≠ q) ∧ (getQ s q).sigs = []) →
      (∃ t, exec (.jobReset j) s = .next t ∧ jobState t j = 1 ∧ t.jobCmds = [] ∧
        (∀ q ∈ ownedRange s j 0x90, (getQ t q).nextSeq = 0 ∧ (getQ t q).head = (getQ s q).tail ∧ (getQ t q).loads = [] ∧
          (getQ t q).fetched = [] ∧ (getQ t q).stopped = false ∧ (getQ t q).tainted = false ∧ (getQ t q).job = (getQ s q).job) ∧
        (∀ q, q ∉ ownedRange s j 0x90 → getQ t q = getQ s q) ∧
        (∀ n ∈ ownedRange s j 0x94, tmGet t n = 0) ∧ (∀ n, n ∉ ownedRange s j 0x94 → tmGet t n = tmGet s n) ∧
        (∀ l, l < 4096 → getEsc t j l = {}) ∧ (∀ i, i ≠ j → jobState t i = jobState s i) ∧
        t.hbm = s.hbm ∧ t.host = s.host ∧ t.sram = s.sram ∧ t.owners = s.owners) ∧
      (slOn s j = false → ∃ t, exec (.destroy j) s = .next t ∧ jobState t j = 0 ∧ vfEn t j = false ∧ rb t (pgJob + 0x28) 8 = true ∧
        ownedRange t j 0x90 = [] ∧ ownedRange t j 0x94 = [] ∧ ownedRange t j 0x98 = [] ∧ ownedRange t j 0x9C = [] ∧
        (∀ v, ownsValley t j v = false) ∧ (∀ i v, i ≠ j → ownsValley s i v = true → ownsValley t i v = true) ∧
        (∀ n ∈ ownedRange s j 0x94, tmGet t n = 0) ∧ (∀ n, n ∉ ownedRange s j 0x94 → tmGet t n = tmGet s n) ∧
        (∀ i, i ≠ j → jobState t i = jobState s i) ∧ t.hbm = s.hbm ∧ t.host = s.host ∧ t.sram = s.sram)) ∧
    (jobState s j = 0 → exec (.jobReset j) s = .next s ∧ exec (.destroy j) s = .next s) ∧
    (∃ t, exec (.inval j false) s = .next t ∧ t = { s with xlats := t.xlats } ∧ (∀ x ∈ t.xlats, x.job ≠ j) ∧
      ∀ x, x.job ≠ j → (x ∈ t.xlats ↔ x ∈ s.xlats)) ∧
    (∃ t, exec (.inval j true) s = .next t ∧ j ∈ t.invalBusy ∧ (∀ i, i ≠ j → (i ∈ t.invalBusy ↔ i ∈ s.invalBusy)) ∧
      (∀ x ∈ t.xlats, x.job ≠ j) ∧ t = { s with invalBusy := t.invalBusy, xlats := t.xlats })

/-- R316, R266: ASSIGN gives a free, unbound valley to an active job and is refused with REFUSE 5 where it has an owner. A release of an
unbound valley begins its reset, in which its SRAM reads zero, and OWNED stays until the reset has ended; one by a job that does not
own it is refused. A write of DS_SEQ_CTRL stores it in a context not enabled, unless the binding is bad, and only ENABLE in another. -/
def Obligations.ValleysAndContextsAreBound : Prop :=
  ∀ (s : State) (j v d x : Nat) (w : Word32), up s = true → s.hostWait = false →
    (jobState s j = 1 → tget 0 s.owners v = 0 → valleyBound s v = false →
      ∃ t, exec (.assign j v) s = .next t ∧ ownsValley t j v = true ∧ (∀ u, u ≠ v → tget 0 t.owners u = tget 0 s.owners u) ∧
        t = { s with owners := t.owners }) ∧
    (jobState s j = 1 → tget 0 s.owners v ≠ 0 →
      ∃ t, exec (.assign j v) s = .next t ∧ Safe.onlyRecords s t ∧ rf t (jobCtl j) 11 8 = 5 ∧ rb t (pgJob + 0x14) 8 = true) ∧
    (ownsValley s j v = true → v < 1200 → valleyBound s v = false → present s (pgValley v) = true → s.starts = [] →
      ((getV s v).slot 0).task = none → ((getV s v).slot 1).task = none →
      ∃ t, exec (.valleyRelease j v) s = .next t ∧ v ∈ t.releasing ∧ (blk t (pgValley v)).inReset = true ∧
        stateOf t (pgValley v) = 1 ∧ ownsValley t j v = true ∧ (∀ a, valleyOf (a / 163840) = v → tget 0 t.sram a = 0) ∧
        (∀ a, valleyOf (a / 163840) ≠ v → tget 0 t.sram a = tget 0 s.sram a) ∧ t.hbm = s.hbm ∧ t.host = s.host ∧ t.tms = s.tms) ∧
    (ownsValley s j v = false → ∃ t, exec (.valleyRelease j v) s = .next t ∧ Safe.onlyRecords s t ∧ rf t (jobCtl j) 11 8 = 5) ∧
    (rb s (seqReg d x 0x84) 31 = false → (bitOf w.toNat 31 = true → bindBad s d x w.toNat = false) →
      ∃ t, exec (.seqEnable d x w) s = .next t ∧ rd t (seqReg d x 0x84) = w.toNat ∧ t = { s with regs := t.regs } ∧
        ∀ k, k ≠ seqReg d x 0x84 → rd t k = rd s k) ∧
    (rb s (seqReg d x 0x84) 31 = false → bitOf w.toNat 31 = true → bindBad s d x w.toNat = true →
      ∃ t, exec (.seqEnable d x w) s = .next t ∧ Safe.onlyRecords s t ∧ rb t (pgSeq d + 0x14) 8 = true ∧
        rd t (seqReg d x 0x84) = rd s (seqReg d x 0x84)) ∧
    (rb s (seqReg d x 0x84) 31 = true →
      ∃ t, exec (.seqEnable d x w) s = .next t ∧ t = { s with regs := t.regs } ∧ rb t (seqReg d x 0x84) 31 = bitOf w.toNat 31 ∧
        (∀ i, i < 31 → rb t (seqReg d x 0x84) i = rb s (seqReg d x 0x84) i) ∧ ∀ k, k ≠ seqReg d x 0x84 → rd t k = rd s k)

/-- R321, R388, R407: a device reset, also as a function-level reset of the physical function, returns every queue, ring, tidemark, valley
and engine to its reset state and leaves host memory, flash and Headland; HBM is kept only with HBM_PRESERVE. A function-level reset
of a function not exposed and a hot reset change configuration space alone. R23, R30, R31, R316: the end of a device reset lets every
island count from 0; the end of a block's own reset, where nothing waits for it, clears RESET_REQ and leaves it in ready, or in low
water; a valley whose release waited for it has no owner then. The model's choices: that RESET_COMPLETE of any page ends a device
reset (log 45), what of configuration space a reset returns (log 138), and that lost HBM reads zero (log 3). -/
def Obligations.DeviceResetsBeginAndEnd : Prop :=
  ∀ (s : State) (fn : Nat), s.hl.boot = .up → s.hostWait = false →
    let kept := rb s (pgPwr + 0x98) 0
    let space := s.hl.cfgReset
    let calm := kept = false ∨ ∀ j, j < 64 → slOn s j = false
    let cleared := fun (t : State) => t.devInit = true ∧ t.queues = [] ∧ t.rings = [] ∧ t.tms = [] ∧ t.escs = [] ∧ t.ops = [] ∧
      t.pends = [] ∧ t.valleys = [] ∧ t.cores = [] ∧ t.streams = [] ∧ t.berms = [] ∧ t.ctxs = [] ∧ t.links = [] ∧ t.sram = [] ∧
      t.owners = [] ∧ t.pending = s.pending ∧ t.grade = s.grade ∧ t.host = s.host ∧ t.flash.image = s.flash.image ∧
      (kept = false → t.hbm = []) ∧ (calm → t.out = s.out ∧ t.flash = s.flash ∧ (kept = true → t.hbm = s.hbm))
    (∃ t, exec .deviceReset s = .next t ∧ cleared t ∧ (calm → t.hl = s.hl)) ∧
    (∃ t, exec (.functionLevelReset 0) s = .next t ∧ cleared t ∧ (calm → t.hl = space)) ∧
    (fn ≠ 0 → vfUp s (fn - 1) = false → exec (.functionLevelReset fn) s = .next
      { s with hl := { s.hl with busMaster := s.hl.busMaster.filter (· ≠ fn), d3hot := s.hl.d3hot.filter (· ≠ fn) } }) ∧
    exec .hotReset s = .next { s with hl := space } ∧
    space = { s.hl with busMaster := [], numVFs := 0, d3hot := [], bar0 := 0, vfBar0 := 0 } ∧
    (s.devInit = true → lowWater s = false →
      ∀ pg, ∃ t, exec (.resetComplete pg) s = .next t ∧ t.devInit = false ∧ t.clkBase = s.cycles ∧
        t = { s with devInit := false, clkBase := s.cycles, regs := t.regs, chans := t.chans, hl := t.hl, out := t.out } ∧
        (s.chans = [] → s.flash.holes = [] → t = { s with devInit := false, clkBase := s.cycles, regs := t.regs })) ∧
    (∀ pg p, s.devInit = false → pageOf pg = some p → pg % 4096 = 0 → (blk s pg).inReset = true → s.jobCmds = [] →
      (∀ e ∈ s.queues, e.2.resetting = false) → s.starts = [] → (∀ e ∈ s.valleys, e.2.inbox = []) → s.berms = [] → s.snaps = [] →
      s.twyQ = [] → s.twySigs = [] → s.rounds = [] → s.chans = [] → s.flash.holes = [] → (∀ h ∈ s.holdOps, h.late = []) →
      (∀ e ∈ s.streams, e.2.input = []) → holdsWork s p = false →
      ∃ t, exec (.resetComplete pg) s = .next t ∧ (blk t pg).inReset = false ∧ (blk t pg).reload = none ∧
        stateOf t pg = idleState s false ∧ rb t (pg + 0x10) 1 = false ∧
        (p.kind = .valley → p.inst ∈ s.releasing → tget 0 t.owners p.inst = 0 ∧ p.inst ∉ t.releasing) ∧
        (ownIsland p = true → islTime t (islandOf p) = 0) ∧ t.hbm = s.hbm ∧ t.host = s.host ∧ t.queues = s.queues ∧ t.tms = s.tms)

/-! ### Blocks as a whole -/

/-- R392, R393: a block that enters the hold with its work in flight ended stands in the slack hold, HOLD_ARM is cleared, HOLD_ENTERED is
set and the clock of a valley or steward stops at its count. A held block that has been woken leaves it: where nothing waits for it,
STATE returns to ready or running by whether it holds work, or to low water, and its clock runs on. -/
def Obligations.BlocksEnterAndLeaveTheHold : Prop :=
  ∀ (s : State) (pg : Nat) (p : Page), up s = true → s.hostWait = false → pageOf pg = some p → pg % 4096 = 0 →
    ((blk s pg).entering = true → clocked s pg = true → quiet s p = true →
      ∃ t, exec (.holdEntered pg) s = .next t ∧ stateOf t pg = 5 ∧ (blk t pg).entering = false ∧ (blk t pg).back = stateOf s pg ∧
        ((blk s pg).wake = true → (blk t pg).wake = true) ∧ rb t (pg + 0x10) 4 = false ∧ rb t (pg + 0x28) 1 = true ∧
        (∀ h ∈ t.holdOps, h.cancelled = false → pg ∉ h.pages) ∧ (ownIsland p = true → clkOf t (islandOf p) = .halted (islTime s (islandOf p))) ∧
        t.hbm = s.hbm ∧ t.host = s.host ∧ t.sram = s.sram ∧ t.tms = s.tms ∧ t.valleys = s.valleys ∧ t.streams = s.streams) ∧
    ((blk s pg).entering = false → exec (.holdEntered pg) s = .next s) ∧
    (held s pg = true → (blk s pg).wake = true → (blk s pg).back ∈ [3, 4, 6] → s.starts = [] → (∀ e ∈ s.valleys, e.2.inbox = []) →
      bermList s p.inst = [] → s.snaps = [] → s.twyQ = [] → s.twySigs = [] → s.rounds = [] → (∀ h ∈ s.holdOps, h.late = []) →
      (∀ e ∈ s.streams, e.2.input = []) →
      ∃ t, exec (.holdLeft pg) s = .next t ∧ blk t pg = {} ∧ rb t (pg + 0x28) 2 = true ∧
        stateOf t pg = (if lowWater s then 6 else if holdsWork t p then 4 else 3) ∧
        (ownIsland p = true → clkOf t (islandOf p) = .running s.cycles (islTime s (islandOf p))) ∧
        t.hbm = s.hbm ∧ t.host = s.host ∧ t.sram = s.sram ∧ t.tms = s.tms ∧
        (p.kind ≠ .flood → p.kind ≠ .ebb → t.streams = s.streams)) ∧
    ((blk s pg).wake = false → exec (.holdLeft pg) s = .next s)

/-- R31, R34, R35, R37, R358, R360, R361: a SOUND_CTRL START with a good scope in a block that stands in ready or the slack hold isolates it
in sounding with STATUS 1, and one in a block that cannot be sounded is refused with STATUS 4. A sounding that finds nothing ends in
STATUS 2 and returns the block; a fault in a block leaves it faulted, or retired where RETIRE_ON_FAIL is 1. RESET_REQ puts a block
that has an island reset into init, and is a bad write elsewhere; COUNT_CLR clears the error counts alone. -/
def Obligations.SoundingsResetsAndCounts : Prop :=
  ∀ (s : State) (pg sc : Nat) (p : Page) (w : Word32), up s = true → s.hostWait = false → pageOf pg = some p → pg % 4096 = 0 →
    present s pg = true → s.chans = [] → s.flash.holes = [] → s.starts = [] → (∀ e ∈ s.berms, ∀ u ∈ e.2, u.claimed = []) →
    (∀ h, h < 8 → pgHbm h ≠ pg → stateOf s (pgHbm h) ≠ 1 ∧ stateOf s (pgHbm h) ≠ 2) →
    (p.kind = .valley → ∀ l, ((getV s p.inst).slot l).task = none) →
    (bitOf w.toNat 0 = true → bitsOf w.toNat 3 1 ≤ 2 → canSound p.kind = true → (stateOf s pg = 3 ∨ stateOf s pg = 5) →
      (p.kind = .twyLink → (getLink s p.inst).trained = false) →
      ∃ t, exec (.soundStart pg w) s = .next t ∧ stateOf t pg = 2 ∧ rf t (pg + 0x34) 2 0 = 1 ∧
        (blk t pg).scope = some (bitsOf w.toNat 3 1) ∧ (blk t pg).fromHold = decide (stateOf s pg = 5) ∧
        rb t (pg + 0x30) 4 = bitOf w.toNat 4 ∧ t.hbm = s.hbm ∧ t.sram = s.sram ∧ t.tms = s.tms) ∧
    (bitOf w.toNat 0 = true → canSound p.kind = false →
      ∃ t, exec (.soundStart pg w) s = .next t ∧ t = { s with regs := t.regs } ∧ rf t (pg + 0x34) 2 0 = 4 ∧ stateOf t pg = stateOf s pg) ∧
    ((blk s pg).scope = some sc → stateOf s pg = 2 →
      (∃ t, exec (.soundDone pg []) s = .next t ∧ (blk t pg).scope = none ∧ rf t (pg + 0x34) 7 0 = 2 ∧ rb t (pg + 0x28) 3 = true ∧
        stateOf t pg = (if (blk s pg).fromHold then 5 else idleState s (holdsWork t p)) ∧ t.flash = s.flash) ∧
      (p.kind ≠ .valley → (soundReport p.kind sc).2 ≠ 0 →
        ∃ t, exec (.soundDone pg [.block]) s = .next t ∧ (blk t pg).scope = none ∧ rf t (pg + 0x34) 7 0 = 3 ∧
          rb t (pg + 0x14) 3 = true ∧
          (rb s (pg + 0x30) 4 = false → stateOf t pg = 7 ∧ t.flash = s.flash) ∧
          (rb s (pg + 0x30) 4 = true → stateOf t pg = 8 ∧ pageId pg ∈ t.flash.blocksRetired))) ∧
    (canReset p.kind = true →
      ∃ t, exec (.resetReq pg) s = .next t ∧ (blk t pg).inReset = true ∧ stateOf t pg = 1 ∧ rb t (pg + 0x10) 1 = true) ∧
    (canReset p.kind = false →
      ∃ t, exec (.resetReq pg) s = .next t ∧ Safe.onlyRecords s t ∧ rb t (pg + 0x14) 2 = true ∧ stateOf t pg = stateOf s pg) ∧
    (∃ t, exec (.countClr pg) s = .next t ∧ rd t (pg + 0x20) = 0 ∧ rd t (pg + 0x24) = 0 ∧
      (∀ k, k ≠ pg + 0x20 → k ≠ pg + 0x24 → rd t k = rd s k) ∧ t = { s with regs := t.regs })

/-- R26, R33, R36, R43: the physical function reads LOCAL_TIME of a present page whole with one 64-bit read, or with two 32-bit reads of
which the second gives the upper half latched by the first; a virtual function reads 0. A write narrower than 32 bits is a bad write;
one of ERR_STAT or EVT_STAT clears the bits written as 1, one of ERR_EN stores the bits the page defines; a virtual function's write
to a page is dropped. -/
def Obligations.RegistersAreReadAndWritten : Prop :=
  ∀ (s : State) (fn pg off width : Nat) (p : Page) (v : Word64), up s = true → s.hostWait = false → pageOf pg = some p → pg % 4096 = 0 →
    off < 4096 → s.hl.d3hot.contains fn = false →
    (fn = 0 → present s pg = true →
      exec (.localTimeRead fn pg 0x38 64) s = .next { s with out := s.out ++ [.data (localTime s pg % 2 ^ 64)] } ∧
      (∃ t, exec (.localTimeRead fn pg 0x38 32) s = .next t ∧ t.out = s.out ++ [.data (localTime s pg % 2 ^ 32)] ∧
        t = { s with latch := t.latch, out := t.out } ∧
        ∀ u : State, u.hl.boot = .up → u.hl.d3hot.contains fn = false → u.latch = t.latch →
          ∃ w, exec (.localTimeRead fn pg 0x3C 32) u = .next w ∧ w.out = u.out ++ [.data (localTime s pg / 2 ^ 32 % 2 ^ 32)])) ∧
    (fn ≠ 0 → exec (.localTimeRead fn pg 0x38 width) s = .next { s with out := s.out ++ [.data 0] }) ∧
    (fn = 0 → present s pg = true → width < 32 →
      ∃ t, exec (.registerWrite fn (pg + off) width v) s = .next t ∧ Safe.onlyRecords s t ∧ rb t (pg + 0x14) 2 = true) ∧
    (fn = 0 → present s pg = true →
      (∃ t, exec (.registerWrite fn (pg + 0x14) 32 v) s = .next t ∧ t = { s with regs := t.regs } ∧
        ∀ i, i < 32 → rb t (pg + 0x14) i = (rb s (pg + 0x14) i && !bitOf v.toNat i)) ∧
      (∃ t, exec (.registerWrite fn (pg + 0x28) 32 v) s = .next t ∧ t = { s with regs := t.regs } ∧
        ∀ i, i < 32 → rb t (pg + 0x28) i = (rb s (pg + 0x28) i && !bitOf v.toNat i)) ∧
      (∃ t, exec (.registerWrite fn (pg + 0x18) 32 v) s = .next t ∧ t = { s with regs := t.regs } ∧
        rd t (pg + 0x18) = v.toNat % 2 ^ 32 &&& errBits p.kind)) ∧
    (fn ≠ 0 → width ≤ 32 → ∃ t, exec (.registerWrite fn (pg + off) width v) s = .next t ∧ Safe.onlyRecords s t)

/-! ### Strandlines and the stewards -/

/-- R372, R373, R374, R377: SL_EN turns a job's record on and off; one that starts a new ring begins with a MARK and a total of 0. FLUSH
writes everything staged and counts it in the total; SL_LINE_WRITE writes up to the next 4 KiB line once that much is staged.
SL_HEADER_REWRITE stores the ring's header at its base and changes no other byte. That a MARK's body is 16 zero bytes, and the header's
24 bytes, are the model's choice (log 24). -/
def Obligations.StrandlinesAreWritten : Prop :=
  ∀ (s : State) (j : Nat) (w : Word32), up s = true → s.hostWait = false →
    (∀ h, h < 8 → stateOf s (pgHbm h) ≠ 1 ∧ stateOf s (pgHbm h) ≠ 2) →
    let k := slReg j 0x100
    let total := slReg j 0x120
    let x := strand s j
    (∃ t, exec (.slEnable j w) s = .next t ∧ slOn t j = bitOf w.toNat 31 ∧ rb t k 30 = bitOf w.toNat 30 ∧
      (bitOf w.toNat 29 = false → slOn s j = bitOf w.toNat 31 → t = { s with regs := t.regs }) ∧
      (bitOf w.toNat 29 = false → bitOf w.toNat 31 = true → slOn s j = false → 0 < rf s (slReg j 0x110) 11 0 →
        (slResume (wf (wf s k 31 31 1) k 30 30 (bitsOf w.toNat 30 30)) j).2 = 0 →
        rd64 t total = 0 ∧ (strand t j).staged = slBytes 9 0 (leBytes 16 0) ∧ (strand t j).seq = 1 ∧ (strand t j).place = 0)) ∧
    (slOn s j = false → exec (.flush j) s = .next s ∧ exec (.slHeaderRewrite j) s = .next s) ∧
    (slOn s j = true → x.dropped = 0 → (strand (slMark s j) j).dropped = 0 →
      ∃ t, exec (.flush j) s = .next t ∧ (strand t j).staged = [] ∧
        rd64 t total = (rd64 s total + (strand (slMark s j) j).staged.length) % 2 ^ 64 ∧ t.host = s.host ∧ t.queues = s.queues ∧
        t.tms = s.tms ∧ ∀ i, i ≠ j → strand t i = strand s i) ∧
    (x.staged.length < 4096 - x.place % 4096 → exec (.slLineWrite j) s = .next s) ∧
    (4096 - x.place % 4096 ≤ x.staged.length → x.dropped = 0 →
      ∃ t, exec (.slLineWrite j) s = .next t ∧ (strand t j).staged = x.staged.drop (4096 - x.place % 4096) ∧
        rd64 t total = (rd64 s total + (4096 - x.place % 4096)) % 2 ^ 64 ∧ t.host = s.host ∧ t.queues = s.queues ∧ t.tms = s.tms) ∧
    (slOn s j = true → slBase s j % 64 = 0 → isHbm s.grade (slBase s j) = true → tget false s.hbmPoison (slBase s j / 64) = false →
      tget [] s.hbmUpset (slBase s j / 64) = [] →
      ∃ t, exec (.slHeaderRewrite j) s = .next t ∧ memGet t.hbm (slBase s j) 24 = slHeader s j ∧
        (∀ a, (a < slBase s j ∨ slBase s j + 24 ≤ a) → tget 0 t.hbm a = tget 0 s.hbm a) ∧
        t.host = s.host ∧ t.sram = s.sram ∧ t.queues = s.queues ∧ t.tms = s.tms)

/-- R310, R366, R376: RELOAD from the running image puts a working steward into an island reset that reloads it; from flash it needs an
accepted update and is a bad write without one. A steward whose heartbeat is lost is faulted, with its error. Each powered hour
stores the counts of the hour in the window of 720, and INTERVAL is what the stored window gives. -/
def Obligations.StewardsReloadAndIntervalsUpdate : Prop :=
  ∀ (s : State) (d : Nat) (src : Bool), s.hostWait = false →
    let pg := pgSteward d
    (up s = true → d < 12 → present s pg = true → stateOf s pg ≠ 1 → stateOf s pg ≠ 5 →
      (src = false ∨ (s.hl.updated = true ∧ s.hl.update = none) →
        ∃ t, exec (.reload d src) s = .next t ∧ (blk t pg).inReset = true ∧ (blk t pg).reload = some src ∧ stateOf t pg = 1) ∧
      (src = true → s.hl.updated = false →
        ∃ t, exec (.reload d src) s = .next t ∧ Safe.onlyRecords s t ∧ rb t (pg + 0x14) 2 = true ∧ stateOf t pg = stateOf s pg)) ∧
    (up s = true → clocked s pg = true →
      ∃ t, exec (.heartbeatLost d) s = .next t ∧ stateOf t pg = 7 ∧ rb t (pg + 0x14) 8 = true ∧ Safe.onlyRecords s t) ∧
    (hlOn s = true → ∃ t, exec .intervalUpdate s = .next t ∧ t.flash = ckptStore s.flash s.hl.ckptNow ∧
      t.flash.hours = s.flash.hours + 1 ∧ t.hl = { s.hl with ckptNow := List.replicate 8 0 } ∧
      rf t (pgHeadland + 0xC08) 15 0 = ckptInterval t.flash % 2 ^ 16 ∧
      (t.flash.ckptHours < 24 → rf t (pgHeadland + 0xC08) 15 0 = 3600) ∧ t = { s with flash := t.flash, hl := t.hl, regs := t.regs })

/-! ### Power, clocks, boot -/

/-- R338, R339, R379, R387, R390: POWER_ON and a module reset boot the image in flash: a good one brings the module up, running it, with no
work, no job and HBM lost; a bad one leaves recovery mode with FAIL as R338 orders the checks, both fault outputs and the alert. A boot
that times out leaves recovery mode with FAIL 9. MOD_RESET_N low for less than 10 µs does nothing. The model's choices: BOOT_TIMEOUT
from off or stopped (log 142), the order of the FAIL codes where several checks fail (log 145), what a module reset without an
accepted update checks and keeps (log 146), and that lost HBM reads zero (log 3). -/
def Obligations.BootsEndUpOrInRecovery : Prop :=
  ∀ (s : State) (c : ImageChecks) (n : Nat) (fs : List BootFault),
    let blank := fun (t : State) => t.queues = [] ∧ t.tms = [] ∧ t.ops = [] ∧ t.valleys = [] ∧ t.streams = [] ∧ t.hbm = [] ∧
      t.sram = [] ∧ t.owners = [] ∧ t.host = s.host ∧ t.pending = s.pending ∧ t.flash.image = s.flash.image
    let good := fun (t : State) => blank t ∧ t.hl.boot = .up ∧ t.hl.fail = 0 ∧ t.devInit = false ∧ t.hl.modFault = false ∧
      t.hl.running = s.flash.image.take 0x5000 ∧ t.flash = s.flash ∧
      rd t (pgPwr + 0x88) = s.flash.budget.getD s.grade.tdp % 2 ^ 32
    let bad := fun (t : State) (why : Nat) => blank t ∧ t.hl.boot = .recovery ∧ t.hl.fail = why ∧ t.hl.modPg = true ∧
      t.hl.modFault = true ∧ rb t (pgHeadland + 0x88) 19 = true ∧ t.flash = s.flash
    (s.hl.boot ≠ .up → s.hl.boot ≠ .starting →
      (imageFail s c = 0 → ∃ t, exec (.powerOn c []) s = .next t ∧ good t ∧ t.hl.mainIn = true) ∧
      (imageFail s c ≠ 0 → ∃ t, exec (.powerOn c fs) s = .next t ∧ bad t (imageFail s c) ∧ t.hl.mainIn = true)) ∧
    (s.hl.boot = .starting ∨ ((s.hl.boot = .off ∨ s.hl.boot = .stopped) ∧ s.hl.mainIn = false) →
      ∃ t, exec .bootTimeout s = .next t ∧ bad t 9) ∧
    (s.hl.boot = .up ∨ s.hl.boot = .recovery ∨ s.hl.boot = .clockLost → exec .bootTimeout s = .next s) ∧
    (∀ i, (i = .moduleReset c [] ∧ (s.hl.boot = .starting ∨ (s.hl.boot = .up ∧ s.hl.d3hot.contains 0 = false))) ∨
        (i = .modResetN n c [] ∧ 10 ≤ n ∧ canModule s = true) →
      (s.hl.updated = true →
        (imageFail s c = 0 → ∃ t, exec i s = .next t ∧ good t) ∧ (imageFail s c ≠ 0 → ∃ t, exec i s = .next t ∧ bad t (imageFail s c))) ∧
      (s.hl.updated = false →
        (s.flash.whole = true → s.hl.running ≠ [] → ∃ t, exec i s = .next t ∧ good t ∧
          (s.hl.update = none → s.chans = [] → s.flash.holes = [] → t.hl.log = s.hl.log)) ∧
        (s.flash.whole = true → s.hl.running = [] → s.hl.fail ≠ 9 → ∃ t, exec i s = .next t ∧ bad t s.hl.fail) ∧
        (s.flash.whole = true → s.hl.running = [] → s.hl.fail = 9 →
          (imageFail s c = 0 → ∃ t, exec i s = .next t ∧ good t) ∧ (imageFail s c ≠ 0 → ∃ t, exec i s = .next t ∧ bad t (imageFail s c))) ∧
        (s.flash.whole = false → ∃ t, exec i s = .next t ∧ bad t 8))) ∧
    (n < 10 → exec (.modResetN n c fs) s = .next s)

/-- R379, R384 to R386, R389: a main input above 60.5 V or at 38.0 V, an expired power-down and a die above 110 degrees make a controlled
stop: the crash record with its MAGIC and CAUSE goes into the journal and CRASH_SEQ counts it, everything outside Headland is lost,
and Headland runs on where it still has power. Which input stays after a stop (log 148), and that lost HBM reads zero (log 3), are the
model's choices. -/
def Obligations.ControlledStopsLeaveACrashRecord : Prop :=
  ∀ (s : State) (mv minMv : Nat) (x : Temps), railsUp s = true →
    let slot := s.flash.crashSeq % 64
    let stopped := fun (t : State) (cause : Nat) (input : Bool) =>
      t.hl.boot = (if input || s.hl.stby then .stopped else .off) ∧ t.hl.mainIn = input ∧
      t.flash = { s.flash with crashSeq := s.flash.crashSeq + 1 } ∧
      (tget [] t.hl.journal slot).take 4 = leBytes 4 0x4B435231 ∧ slice (tget [] t.hl.journal slot) 16 4 = leBytes 4 cause ∧
      (∀ i, i ≠ slot → tget [] t.hl.journal i = tget [] s.hl.journal i) ∧ t.queues = [] ∧ t.ops = [] ∧ t.hbm = [] ∧ t.sram = [] ∧
      t.host = s.host ∧ t.pending = s.pending
    (60500 < mv → ∃ t, exec (.overvoltage mv minMv) s = .next t ∧ stopped t 2 false) ∧
    (mv ≤ 60500 → exec (.overvoltage mv minMv) s = .next s) ∧
    (mv ≤ 38000 → ∃ t, exec (.undervoltage mv minMv) s = .next t ∧ stopped t 1 false) ∧
    (38000 < mv → exec (.undervoltage mv minMv) s = .next s) ∧
    (s.hl.downing = true → ∃ t, exec .powerDownExpiry s = .next t ∧ stopped t 4 s.hl.mainIn) ∧
    (s.hl.downing = false → exec .powerDownExpiry s = .next s) ∧
    (110 < (x.dies.take 12).foldl max 0 → ∃ t, exec (.thermalSample x) s = .next t ∧ stopped t 3 s.hl.mainIn)

/-- R382, R383: at 42.5 V the module enters low-water mode: SUPPLY reads 1, HL_PWR_WARN_N asserts, every block in ready or running takes
STATE 6, LOW_WATER_IN is set, and no work in progress is touched. A dip records its voltage. Above 43.5 V the module leaves the
mode: each block in STATE 6 takes running or ready by whether it holds work. R380, R385, R395: each governor tick records the draw, and moves the skip count up by one at a draw
above the budget in force and down by one below 97 % of it; 10,000 ticks in a row above it set TRANSIENT_LIMIT. A thermal sample within
its limits caps the budget from 100 degrees until the hottest die has fallen below 95, with THERMAL_WARN as the cap begins. That THERMAL_WARN comes with the cap, and
TRANSIENT_LIMIT after 10,000 ticks, are the model's choices (log 150). -/
def Obligations.LowWaterGovernorAndThermalLimits : Prop :=
  (∀ (s : State) (mv : Nat), railsUp s = true → mv < 2 ^ 16 →
     (lowWater s = false → mv ≤ 42500 →
       ∃ t, exec (.lowWaterEntry mv) s = .next t ∧ Safe.onlyRecords s t ∧ lowWater t = true ∧ t.hl.pwrWarn = true ∧
         rf t (pgPwr + 0x80) 15 0 = mv ∧ rf t (pgPwr + 0x8C) 9 8 = 1 ∧ rb t (pgPwr + 0x28) 8 = true ∧
         ∀ pg ∈ allPages, stateOf t pg = if stateOf s pg = 3 ∨ stateOf s pg = 4 then 6 else stateOf s pg) ∧
     (∃ t, exec (.lowWaterDip mv) s = .next t ∧ t = { s with regs := t.regs, hl := { s.hl with mvs := t.hl.mvs } } ∧ rf t (pgPwr + 0x80) 15 0 = mv ∧
       ∀ k, k ≠ pgPwr + 0x80 → rd t k = rd s k) ∧
     (lowWater s = true → 43500 < mv →
       ∃ t, exec (.lowWaterExit mv) s = .next t ∧ Safe.onlyRecords s t ∧ lowWater t = false ∧ t.hl.pwrWarn = false ∧
         rf t (pgPwr + 0x80) 15 0 = mv ∧ rb t (pgPwr + 0x28) 9 = true ∧
         rd64 t (pgPwr + 0xA0) = (rd64 s (pgPwr + 0xA0) + 1) % 2 ^ 64 ∧
         ∀ pg ∈ allPages, ∀ p, pageOf pg = some p →
           stateOf t pg = if stateOf s pg = 6 then (if holdsWork s p then 4 else 3) else stateOf s pg)) ∧
  (∀ (s : State) (watts peak : Nat) (x : Temps),
     let skip := rf s (pgPwr + 0x8C) 3 0
     let above := budgetNow s < watts * 100
     let die := (x.dies.take 12).foldl max 0
     (railsUp s = true →
       ∃ t, exec (.governorTick watts peak) s = .next t ∧ Safe.onlyRecords s t ∧
         rf t (pgPwr + 0x84) 15 0 = min 0xFFFF watts ∧ rf t (pgPwr + 0x84) 31 16 = min 0xFFFF peak ∧
         (above → rf t (pgPwr + 0x8C) 3 0 = min 15 (skip + 1) ∧ t.hl.overTicks = s.hl.overTicks + 1) ∧
         (¬above → t.hl.overTicks = 0 ∧
           rf t (pgPwr + 0x8C) 3 0 = if watts * 10000 < budgetNow s * 97 then skip - 1 else skip) ∧
         (above → s.hl.overTicks = 9999 → rb t (pgPwr + 0x14) 8 = true)) ∧
     (railsUp s = true → die ≤ 110 → x.io ≤ 110 → (x.bases.take s.grade.stacks).foldl max 0 ≤ 95 →
       ∃ t, exec (.thermalSample x) s = .next t ∧ Safe.onlyRecords s t ∧ t.hl.boot = s.hl.boot ∧ t.hl.dieTemps = x.dies.take 12 ∧
         t.hl.thermCap = (decide (100 < die) || (s.hl.thermCap && decide (95 ≤ die))) ∧
         rf t (pgPwr + 0x90) 7 0 = min 255 (max die x.io) ∧
         (100 < die → s.hl.thermCap = false → rb t (pgPwr + 0x28) 10 = true)))

/-- R331, R332, R384, R404, R405, R407: a loss of REFCLK100 logs an error of the power page and resets everything outside Headland; one of
REFCLK156 takes every port and Tideway link down, and what a link had not had acknowledged waits to be sent again. STBY_12V keeps Headland's records while it or the main input is there; without either they are lost,
the journal and the flash apart. A configuration request is answered with Retry Status until the boot is locked, and then acts on its
function's configuration space alone: a read answers what R406 fixes, Bus Master Enable, NumVFs, the power state and BAR0 take what is
written, a BAR of 64 MiB keeps its size, and a request to a function that NumVFs does not give, or with a non-zero AT field, is an
Unsupported Request. The model's choices: lost HBM reads zero (log 3), which error bit the loss of REFCLK100 sets (log 17), and at
which place of the configuration space a value stands (log 202). -/
def Obligations.ClocksStandbyAndConfigurationAct : Prop :=
  ∀ (s : State) (fn n : Nat) (b : Bool), s.hostWait = false →
    (railsUp s = true → s.hl.boot ≠ .clockLost →
      ∃ t, exec .refclk100Loss s = .next t ∧ t.hl.boot = .clockLost ∧ t.hl.modFault = true ∧ t.queues = [] ∧ t.ops = [] ∧ t.hbm = [] ∧
        t.sram = [] ∧ t.host = s.host ∧ t.flash = s.flash ∧ t.pending = s.pending ∧
        ∃ i ∈ [0, 1, 2, 3, 4, 5, 8], rb t (pgPwr + 0x14) i = true) ∧
    (up s = true → s.snaps = [] →
      ∃ t, exec .refclk156Loss s = .next t ∧ (∀ p, p < s.grade.ports → rf t (pgPort p + 0x80) 31 29 = 0) ∧
        (∀ l ∈ bothLinks, (getLink t l).trained = false ∧
          ((getLink s l).trained = true → rb t (pgLink l + 0x80) 31 = false ∧ rb t (pgLink l + 0x14) 8 = true ∧
            ∀ e ∈ (getLink s l).unacked, (e.2.ty ≠ 3 → e.2 ∈ t.twyQ) ∧ (e.2.ty = 3 → e.2 ∈ t.twySigs))) ∧
        (∀ f ∈ s.twyQ, f ∈ t.twyQ) ∧ (∀ f ∈ s.twySigs, f ∈ t.twySigs) ∧
        t.hbm = s.hbm ∧ t.host = s.host ∧ t.sram = s.sram ∧ t.queues = s.queues ∧ t.tms = s.tms) ∧
    (s.hl.mainIn = true ∨ (hlOn s = true ∧ b = true) → exec (.stby12vChange b) s = .next { s with hl := { s.hl with stby := b } }) ∧
    (s.hl.mainIn = false →
      ∃ t, exec (.stby12vChange false) s = .next t ∧ t.hl.log = [] ∧ t.hl.boot = .off ∧ t.hl.journal = s.hl.journal ∧
        t.flash = s.flash ∧ (∀ e ∈ t.regs, keptPage e.1 = false) ∧ t.host = s.host) ∧
    (hlOn s = false → ∃ t, exec (.stby12vChange true) s = .next t ∧ hlOn t = true ∧ t.hl.boot = .off ∧ t.hl.slotId = s.hl.strapSlot ∧
      t.hl.pairId = s.hl.strapPair ∧ islTime t islHeadland = 0 ∧ t.flash = s.flash) ∧
    (∀ r, s.hl.boot = .starting → exec (.configurationRequest r) s = .next { s with out := s.out ++ [.cfg true 0] }) ∧
    (s.hl.boot = .up →
      (∀ reg, s.hl.numVFs < fn → exec (.configurationRequest (.read fn reg)) s = .next { s with out := s.out ++ [.unsupported] }) ∧
      exec (.configurationRequest .translated) s = .next { s with out := s.out ++ [.unsupported] } ∧
      (∀ reg, fn ≤ s.hl.numVFs → ∃ v, exec (.configurationRequest (.read fn reg)) s = .next { s with out := s.out ++ [.cfg false v] } ∧
        (reg = .header 0 → v / 2 ^ 16 = if fn = 0 then 0x0900 else 0x0901) ∧ (reg = .header 8 → v / 2 ^ 8 = 0x120000) ∧
        (reg = .header 4 → bitOf v 2 = s.hl.busMaster.contains fn) ∧ (reg = .pcie 4 → bitsOf v 2 0 = 2 ∧ bitOf v 28 = true) ∧
        (reg = .header 0x10 → fn = 0 → v = s.hl.bar0 % 2 ^ 32 / 2 ^ 26 * 2 ^ 26 + 4) ∧ (reg = .msix 0 → bitsOf v 26 16 = 2047) ∧
        (reg = .power 4 → bitOf v 3 = true ∧ bitsOf v 1 0 = if s.hl.d3hot.contains fn then 3 else 0) ∧
        (reg = .rebar 4 → v = 2 ^ 10) ∧ (reg = .sriov 0xC → fn = 0 → v = 64 * 2 ^ 16 + 64) ∧
        (reg = .sriov 0x10 → fn = 0 → s.hl.numVFs < 2 ^ 16 → bitsOf v 15 0 = s.hl.numVFs)) ∧
      (∀ high (v : Word32), ∃ t, exec (.configurationRequest (.bar false high v)) s = .next t ∧
        t = { s with hl := { s.hl with bar0 := t.hl.bar0 } } ∧
        (high = false → t.hl.bar0 / 2 ^ 32 = s.hl.bar0 / 2 ^ 32 ∧ t.hl.bar0 % 2 ^ 32 = v.toNat / 2 ^ 26 * 2 ^ 26) ∧
        (high = true → t.hl.bar0 / 2 ^ 32 = v.toNat ∧ t.hl.bar0 % 2 ^ 32 = s.hl.bar0 % 2 ^ 32)) ∧
      exec (.configurationRequest (.resize b n)) s = .next s ∧
      (∃ t, exec (.configurationRequest (.busMaster fn true)) s = .next t ∧ fn ∈ t.hl.busMaster ∧
        (∀ f, f ≠ fn → (f ∈ t.hl.busMaster ↔ f ∈ s.hl.busMaster)) ∧ (∀ e ∈ t.heldMsgs, e.1 ≠ fn) ∧
        t = { s with hl := { s.hl with busMaster := t.hl.busMaster }, heldMsgs := t.heldMsgs, out := t.out }) ∧
      (∃ t, exec (.configurationRequest (.busMaster fn false)) s = .next t ∧ fn ∉ t.hl.busMaster ∧
        t = { s with hl := { s.hl with busMaster := t.hl.busMaster } }) ∧
      (n ≤ 64 → exec (.configurationRequest (.numVFs n)) s = .next { s with hl := { s.hl with numVFs := n } }) ∧
      (∃ t, exec (.configurationRequest (.powerState fn true)) s = .next t ∧ fn ∈ t.hl.d3hot ∧
        (∀ f, f ≠ fn → (f ∈ t.hl.d3hot ↔ f ∈ s.hl.d3hot)) ∧ t = { s with hl := { s.hl with d3hot := t.hl.d3hot } }) ∧
      (∃ t, exec (.configurationRequest (.powerState fn false)) s = .next t ∧ fn ∉ t.hl.d3hot ∧
        (∀ f, f ≠ fn → (f ∈ t.hl.d3hot ↔ f ∈ s.hl.d3hot)) ∧ t = { s with hl := { s.hl with d3hot := t.hl.d3hot } }))

/-! ### Estuary and the scale-out ports -/

/-- R275, R276, R281, R287, R288: CONTEXT_TAKE gives a free context to the first REDUCE that may have one, ARMED under the plan it reads.
An expired fill wait completes the REDUCE as WAIT_TIMEOUT with the tidemark that fell short; an expired wait for packets completes it
as LATE_CONTRIBUTION with the first position and offset awaited; the context is DONE. R275, R282, R283, R289: an ARMED context whose
tidemarks have come begins its exchange with its own first packets: in a ring it is EXCHANGING and has sent SCATTER packets of HOPS 1
with the segment of its own position to its successor; a member of a tree is SPREADING and has sent its whole bucket to its leader in
UP packets of HOPS 1; a leader that has members begins by waiting for theirs. One that a
tidemark still keeps, and one not ARMED, does nothing. -/
def Obligations.ContextsAreTakenBeginAndTimeOut : Prop :=
  ∀ (s : State) (x : Nat), up s = true → clocked s pgEst = true → s.hostWait = false →
    let c := getCtx s x
    let a := ctxBegin (setCtx s x { c with st := .exchanging, held := [] }) x
    (c ≠ {} → exec (.contextTake x) s = .next s) ∧
    (∀ o, c = {} → nextReduce s = some o → s.early = [] →
      let k : Ctx := { st := .armed, queue := o.queue, seq := o.seq, job := o.job, cmd := o.cmd }
      let r := setCtx { s with estWait := s.estWait.filter (fun e => !(e.1 = o.queue && e.2 = o.seq)) } x k
      let g := vread r (ctxReq k) (rdPlan o.cmd) 64
      g.failed = none → g.s.hostWait = false → planBad s.grade (words64 g.bytes) = false →
      ∃ t, exec (.contextTake x) s = .next t ∧ getCtx t x = { k with plan := words64 g.bytes } ∧ t.estWait = r.estWait ∧
        (∀ y, y ≠ x → getCtx t y = getCtx s y) ∧ t.txFlows = s.txFlows ∧ t.host = s.host ∧ t.sram = s.sram ∧ t.tms = s.tms) ∧
    (c.st = .armed → opRunning s c.queue c.seq = true → ∀ tm, ctxShort s c = some tm →
      ∃ t, exec (.fillWaitTimeout x) s = .next t ∧ (getCtx t x).st = .done ∧ (∀ y, y ≠ x → getCtx t y = getCtx s y) ∧
        Safe.ended t c.queue c.seq { status := stTimeout, index := tm, detail := tmGet s tm, partialOut := c.partialOut } ∧
        rdStep c.cmd ≤ tget 0 t.estLast (lastKey c.job (rdBucket c.cmd)) ∧ t.txFlows = s.txFlows ∧ Safe.contents s t) ∧
    (c.st ≠ .armed ∨ ctxShort s c = none → exec (.fillWaitTimeout x) s = .next s) ∧
    (c.moving = true → opRunning s c.queue c.seq = true → (∀ i ∈ c.group, tget [] c.entries i ≠ []) →
      ∀ e, c.awaited.find? (fun e => !(c.has e.1 e.2.1 e.2.2.1 e.2.2.2)) = some e →
      ∃ t, exec (.lateTimeout x) s = .next t ∧ (getCtx t x).st = .done ∧ rb t (pgEst + 0x28) 9 = true ∧
        Safe.ended t c.queue c.seq { status := stLate, index := e.2.1, detail := e.2.2.1 * 8192, partialOut := c.partialOut } ∧
        Safe.contents s t) ∧
    (c.moving = false → exec (.lateTimeout x) s = .next s) ∧
    (c.st ≠ .armed ∨ ctxShort s c ≠ none → exec (.exchangeStart x) s = .next s) ∧
    (c.st = .armed → ctxShort s c = none → c.held = [] →
      (pTree c.plan = true → c.leads = true → c.members ≠ [] → c.ownDone = false →
        exec (.exchangeStart x) s = .next (setCtx s x { c with st := .exchanging, held := [] })) ∧
      (a.2 = none → a.1.hostWait = false → (getCtx a.1 x).ownDone = false → (getCtx a.1 x).st = .exchanging →
        exec (.exchangeStart x) s = .next a.1) ∧
      (pTree c.plan = false → c.me < c.n → c.ownDone = false → a.2 = none → a.1.hostWait = false →
        ∃ t, exec (.exchangeStart x) s = .next t ∧ (getCtx t x).st = .exchanging ∧ ∀ num ∈ partPackets c.q c.n c.me,
          ∃ body, Safe.sentTo t c.job (tget [] (getCtx t x).entries c.succ) 1 num 1 c.me body) ∧
      (pTree c.plan = true → c.leads = false → c.written = [] → 0 < c.q → a.2 = none → a.1.hostWait = false →
        ∃ t, exec (.exchangeStart x) s = .next t ∧ (getCtx t x).st = .spreading ∧ ∀ num, num < c.q →
          ∃ body, Safe.sentTo t c.job (tget [] (getCtx t x).entries (c.leader c.me)) 3 num 1 c.me body))

/-- R278 to R283, R286, R287: a good data packet of the type of its command, next in its flow, is accepted: it is held by an ARMED
context; at an EXCHANGING one a SCATTER packet is added to the own contribution and goes on to the successor with HOPS one more, or, in
the last round, is written to the result and goes on as a GATHER packet; at a moving one the last GATHER and a member's DOWN packet
are written to the result, an UP packet of a member is added to the leader's running sum. One whose plan or content does not fit is
dropped with its counter and error, one beyond the next number is not taken. A frame that fills three quarters of its port's buffer
sends a pause on PRIO, counted. The model's choices: a packet is dropped before its number is taken (log 103), what a position that
the topology does not expect is (log 104), that an ARMED context holds its packets (log 105), and how a pause is signalled and counted
(log 113, log 203). -/
def Obligations.DataPacketsReachTheirContext : Prop :=
  ∀ (s : State) (i : Instr) (ty port x : Nat) (src : UdpSrc) (pkt : List Byte), s.hostWait = false →
    (i, ty) ∈ [(Instr.scatter port src pkt, 1), (.gather port src pkt, 2), (.up port src pkt, 3), (.down port src pkt, 4)] →
    portTakes s port = true → clocked s pgEst = true → louberBad s pkt = false →
    let h := louberOf pkt
    let j := louberJob s h
    let c := getCtx s x
    let f := rxFlow s j src.port src.ip
    let num := h.off / 8192
    let fits := h.planId = pPlanId c.plan ∧ c.expects h = true
    let took := fun (t : State) => (rxFlow t j src.port src.ip).expect = (f.expect + 1) % 2 ^ 32 ∧ t.tms = s.tms ∧ t.sram = s.sram
    let pauses := fun (t : State) => src.fills = true → .pause port (estPrio s) ∈ t.out ∧
      rd64 t (pgPort port + 0xC0) = (rd64 s (pgPort port + 0xC0) + 1) % 2 ^ 64
    let new := ¬ ∃ e ∈ c.seen, e.ty = h.ty ∧ e.pos = h.srcPos ∧ e.num = num ∧ e.hops = h.hops
    h.ty = ty → ctxFor s j h = some x →
    (c.st = .armed → fits → arrival f.expect h.psn = .next →
      ∃ t, exec i s = .next t ∧ pauses t ∧ getCtx t x = { c with held := c.held ++ [pkt] } ∧ (∀ y, y ≠ x → getCtx t y = getCtx s y) ∧ took t ∧
        t.txFlows = s.txFlows ∧ t.hbm = s.hbm ∧ t.host = s.host) ∧
    (c.st = .exchanging → fits → arrival f.expect h.psn = .next → new → pTree c.plan = false → ty = 1 → c.ownDone = false →
      let k : Ctx := { c with seen := c.seen ++ [⟨h.ty, h.srcPos, h.copy, num, h.hops, h.crc⟩] }
      let o := ownPart (setCtx (rxAccept (louberIn s port src) f port src.mac pkt) x k) x num
      ∀ own, o.2 = .ok own →
      let sum := wordBytes (addWords (wordsOf (payload pkt)) own)
      (c.scatterRound num + 2 < c.n →
        let e := ctxEntry o.1 x c.succ
        ∀ r, e.2 = .ok r → e.1.hostWait = false → estTwin e.1 c.job = false →
        ∃ t, exec i s = .next t ∧ took t ∧ getCtx t x = { k with entries := (getCtx t x).entries } ∧
          Safe.sentTo t c.job r 1 num ((c.scatterRound num + 2) % 2 ^ 8) c.me sum) ∧
      (c.scatterRound num + 2 = c.n →
        let w := vwrite o.1 (ctxReq c) (pResult c.plan + 8192 * num) sum
        let e := ctxEntry (setCtx w.s x { getCtx o.1 x with
          written := tput [] c.written num sum, partialOut := true
          nonfin := c.nonfin || (addWords (wordsOf (payload pkt)) own).any (fun v => !isFinite32 v) }) x c.succ
        ∀ r, w.fault = none → e.2 = .ok r → e.1.hostWait = false → estTwin e.1 c.job = false →
        ∃ t, exec i s = .next t ∧ took t ∧ tget [] (getCtx t x).written num = sum ∧ t.hbm = e.1.hbm ∧ t.host = e.1.host ∧
          Safe.sentTo t c.job r 2 num (c.n % 2 ^ 8) c.me sum)) ∧
    (c.moving = true → fits → arrival f.expect h.psn = .next → new →
      (((pTree c.plan = false ∧ ty = 2 ∧ c.gatherRound num + 2 = c.n) ∨ (pTree c.plan = true ∧ ty = 4 ∧ c.leads = false)) →
        let u := setCtx (rxAccept (louberIn s port src) f port src.mac pkt) x { c with seen := c.seen ++ [⟨h.ty, h.srcPos, h.copy, num, h.hops, h.crc⟩] }
        let w := vwrite u (ctxReq c) (pResult c.plan + 8192 * num) (wordBytes (wordsOf (payload pkt)))
        w.fault = none → w.s.hostWait = false →
        ∃ t, exec i s = .next t ∧ took t ∧ t.hbm = w.s.hbm ∧ t.host = w.s.host ∧
          tget [] (getCtx t x).written num = wordBytes (wordsOf (payload pkt))) ∧
      (pTree c.plan = true → ty = 3 → h.hops = 1 → c.st = .exchanging → c.ownDone = false → (getSum c num).words ≠ [] →
        (getSum c num).members + 1 < c.members.length →
        ∃ t, exec i s = .next t ∧ took t ∧ t.hbm = s.hbm ∧ t.host = s.host ∧
          getSum (getCtx t x) num = { getSum c num with
            words := addWords (wordsOf (payload pkt)) (getSum c num).words, members := (getSum c num).members + 1
            order := (getSum c num).order ++ [h.srcPos] })) ∧
    (¬fits → ∃ t, exec i s = .next t ∧ pauses t ∧ Safe.onlyRecords s t ∧ rb t (pgEst + 0x14) 9 = true ∧
      (src.fills = true → rd64 t (pgPort port + 0xA0) = (rd64 s (pgPort port + 0xA0) + 1) % 2 ^ 64) ∧
      rd64 t (pgEst + 0xA0) = (rd64 s (pgEst + 0xA0) + 1) % 2 ^ 64) ∧
    (fits → arrival f.expect h.psn = .ahead → exec i s = .next (louberIn s port src))

/-- R277, R278, R279, R280, R287: a LOUBER_ACK takes from its flow every packet up to its number; an ACK sent names the last number accepted
and leaves none owed, where its port may send; one of another plan is dropped; a resend repeats the flow's unacknowledged packets in order and counts them; a frame carries PRIO, VLAN, UDP_PORT and the port's source
port 49,152 + p. An ABORT from a position the
context exchanges with ends its REDUCE as LATE_CONTRIBUTION, and one from another position ends nothing. The path an ACK takes and its
source position are the model's choice (log 29). -/
def Obligations.FlowsAreAcknowledgedAndResent : Prop :=
  ∀ (s : State) (port srcPort job hi lo x : Nat) (src : UdpSrc) (pkt : List Byte), up s = true → clocked s pgEst = true → s.hostWait = false →
    let h := louberOf pkt
    let j := louberJob s h
    let ip := ipAddr hi lo
    let sends := fun (fr : Frame) (p : Nat) => fr.port = p ∧ fr.pcp = estPrio s ∧ fr.vid = rf s (pgEst + 0x80) 27 16 ∧
      fr.sport = 49152 + p ∧ fr.dport = rf s (pgEst + 0x80) 15 0
    (portTakes s port = true → louberBad s pkt = false → h.ty = 5 →
      ((∀ x, ctxFor s j h = some x → h.planId = pPlanId (getCtx s x).plan) →
        exec (.louberAck port src pkt) s = .next { louberIn s port src with
          txFlows := s.txFlows.map (fun f => if flowIs j port src.ip f then
            { f with unacked := f.unacked.filter (fun p => arrival p.psn h.psn = .behind) } else f) }) ∧
      (∀ x, ctxFor s j h = some x → h.planId ≠ pPlanId (getCtx s x).plan →
        ∃ t, exec (.louberAck port src pkt) s = .next t ∧ Safe.onlyRecords s t ∧ rb t (pgEst + 0x14) 9 = true ∧
          rd64 t (pgEst + 0xA0) = (rd64 s (pgEst + 0xA0) + 1) % 2 ^ 64)) ∧
    (∀ f, s.rxFlows.find? (rxIs job srcPort ip) = some f → portSends s f.port = false → exec (.louberAckSend job srcPort hi lo) s = .next s) ∧
    (∀ f, s.rxFlows.find? (rxIs job srcPort ip) = some f → f.unacked ≠ 0 → portSends s f.port = true →
      ∃ (t : State) (a : Louber) (fr : Frame), exec (.louberAckSend job srcPort hi lo) s = .next t ∧ t.out = s.out ++ [.louber fr] ∧
        sends fr f.port ∧ fr.dstMac = f.srcMac ∧ fr.pkt = a.bytes ∧ a.ty = 5 ∧
        a.psn = (f.expect + 2 ^ 32 - 1) % 2 ^ 32 ∧ a.len = 0 ∧ a.netJob = estNetJob s f.job ∧
        rxFlow t job srcPort ip = { f with unacked := 0, due := false } ∧
        t = { s with out := t.out, regs := t.regs, rxFlows := t.rxFlows, freeCount := t.freeCount, sublinks := t.sublinks }) ∧
    (s.rxFlows.find? (rxIs job srcPort ip) = none → exec (.louberAckSend job srcPort hi lo) s = .next s) ∧
    (∀ f, portSends s port = true → s.txFlows.find? (flowIs job port ip) = some f →
      ∃ (t : State) (frs : List Frame), exec (.resendTimeout job port hi lo) s = .next t ∧ t = { s with out := t.out, regs := t.regs, sublinks := t.sublinks } ∧
        t.out = s.out ++ frs.map Out.louber ∧ frs.map (fun fr => (fr.pkt, fr.dstMac)) = f.unacked.map (fun p => (p.pkt, p.mac)) ∧
        (∀ fr ∈ frs, sends fr port) ∧
        rd64 t (pgEst + 0xB0) = (rd64 s (pgEst + 0xB0) + f.unacked.length) % 2 ^ 64) ∧
    (portTakes s port = true → louberBad s pkt = false → h.ty = 6 → ctxFor s j h = some x → h.planId = pPlanId (getCtx s x).plan →
      arrival (rxFlow s j src.port src.ip).expect h.psn = .next →
      let c := getCtx s x
      (h.srcPos ∈ c.group → opRunning s c.queue c.seq = true →
        ∃ t, exec (.abort port src pkt) s = .next t ∧ (getCtx t x).st = .done ∧ rb t (pgEst + 0x28) 9 = true ∧
          Safe.ended t c.queue c.seq { status := stLate, index := h.srcPos, partialOut := c.partialOut } ∧ Safe.contents s t) ∧
      (h.srcPos ∉ c.group → ∃ t, exec (.abort port src pkt) s = .next t ∧ t.ctxs = s.ctxs ∧ t.ops = s.ops ∧ Safe.contents s t))

/-- R279, R280, R291, R292, R408: a pause on PRIO holds the port and ends with its expiry, when the port sends what it held; one on another
priority does not. A frame of another kind is counted and dropped. A change of its link shows in LINK_UP and SPEED, a RETRAIN takes
it down; one sublink alone comes up only in breakout mode. A write of EST_JOB is stored and, where it enables the job, its flows start
anew; it is a bad write while the job has a REDUCE in a context. That a write which leaves ENABLE at 1 restarts no flow is the model's
choice (log 112). -/
def Obligations.PortsPauseDropAndTrain : Prop :=
  ∀ (s : State) (port prio speed j : Nat) (k : FrameKind) (v : Word32), up s = true → s.hostWait = false →
    let r := pgPort port
    (portTakes s port = true →
      (prio = estPrio s → ∃ t, exec (.pauseFrame port prio) s = .next t ∧ port ∈ t.paused ∧ rd64 t (r + 0xB8) = (rd64 s (r + 0xB8) + 1) % 2 ^ 64 ∧
        (∀ p, p ≠ port → (p ∈ t.paused ↔ p ∈ s.paused)) ∧ t = { s with regs := t.regs, paused := t.paused }) ∧
      (prio ≠ estPrio s → exec (.pauseFrame port prio) s = .next (frameIn s port)) ∧
      (∃ t, exec (.otherFrame port k) s = .next t ∧ Safe.onlyRecords s t ∧
        (k = .badFcs → rb t (r + 0x14) 8 = true ∧ rd64 t (r + 0xB0) = (rd64 s (r + 0xB0) + 1) % 2 ^ 64) ∧
        (k ≠ .badFcs → rd64 t (r + 0xC8) = (rd64 s (r + 0xC8) + 1) % 2 ^ 64 ∧ rd64 t (r + 0xA8) = (rd64 s (r + 0xA8) + 1) % 2 ^ 64))) ∧
    (∃ t, exec (.pauseExpiry port) s = .next t ∧ port ∉ t.paused ∧ (∀ p, p ≠ port → (p ∈ t.paused ↔ p ∈ s.paused)) ∧
      (linkUp s port = true → ∀ f ∈ t.txFlows, f.port = port → ∀ p ∈ f.unacked, p.sent = true) ∧
      (linkUp s port = true → ∀ f ∈ t.rxFlows, f.port = port → f.due = false) ∧
      t = { s with regs := t.regs, hl := t.hl, paused := t.paused, txFlows := t.txFlows, rxFlows := t.rxFlows, out := t.out,
                   sublinks := t.sublinks, freeCount := t.freeCount }) ∧
    (clocked s r = true → port < 16 →
      (speed = 1 → breakout s port = false → exec (.linkChange port speed) s = .next s) ∧
      (speed ≤ 2 → (speed ≠ 1 ∨ breakout s port = true) → ∃ t, exec (.linkChange port speed) s = .next t ∧ rb t (r + 0x80) 31 = decide (speed = 2) ∧ rf t (r + 0x80) 30 29 = speed ∧
        (rb s (r + 0x80) 31 ≠ decide (speed = 2) → rb t (r + 0x28) 8 = true) ∧ (speed ≠ 2 → port ∉ t.paused) ∧ Safe.contents s t ∧
        t.ctxs = s.ctxs ∧ t.queues = s.queues) ∧
      (∃ t, exec (.retrain port) s = .next t ∧ rb t (r + 0x80) 31 = false ∧ rf t (r + 0x80) 30 29 = 0 ∧ port ∉ t.paused ∧
        Safe.contents s t ∧ t.ctxs = s.ctxs ∧ t.queues = s.queues)) ∧
    (clocked s pgEst = true →
      (jobInCtx s j = false → estJobBad s j v.toNat = false →
        ∃ t, exec (.estJobEnable j v) s = .next t ∧ rd t (estReg j 0x88) = v.toNat &&& 0xE000FFFF ∧
          (bitOf v.toNat 31 = true → estEnabled s j = false →
            (∀ f ∈ t.txFlows, f.job ≠ j) ∧ (∀ f ∈ t.rxFlows, f.job ≠ j) ∧ (∀ f ∈ s.txFlows, f.job ≠ j → f ∈ t.txFlows)) ∧
          (bitOf v.toNat 31 = false ∨ estEnabled s j = true → t = { s with regs := t.regs })) ∧
      (jobInCtx s j = true →
        ∃ t, exec (.estJobEnable j v) s = .next t ∧ Safe.onlyRecords s t ∧ rb t (pgEst + 0x14) 2 = true ∧
          rd t (estReg j 0x88) = rd s (estReg j 0x88)))

/-! ### Tideway -/

/-- R293, R294, R301, R305, R411, R412, R393: what a good flit from the partner does at a trained link that has nothing outstanding. A WRITE
with the number expected lands at DEST in the named job's memory; a SIGNAL sets PEER_TM or raises SNAP_TM by 1; a WAKE wakes the blocks
with HOLD_WAKE_PARTNER; a heartbeat finds the partner. A WRITE that cannot be translated is taken and the partner told, which is the
model's choice (log 30), as is that TWY_SNAP_TM is one register for the module (log 163). A bad flit, and a numbered one with another
number, is answered by a NAK. -/
def Obligations.FlitsFromThePartnerLand : Prop :=
  ∀ (s : State) (l ty : Nat) (i : Instr) (b : List Byte), up s = true → s.hostWait = false → (getLink s l).trained = true →
    clocked s pgTwy = true → (getLink s l).unacked = [] → s.twyQ = [] → s.twySigs = [] → s.snaps = [] →
    (i, ty) ∈ [(Instr.tidewayWrite l b, 2), (.tidewaySignal l b, 3), (.tidewayWake l b, 4), (.heartbeat l b, 5), (.tidewayAck l b, 6),
      (.nak l ⟨b, none⟩, 7)] →
    let j := flitField b 1 1 % 64
    let k := if flitField b 2 1 = 0 then rf s (twyReg j 0x90) 28 16 else rf s (pgTwy + 0x94) 12 0
    let expected := flitField b 4 4 = (getLink s l).rxNext
    let nak := Out.flit l (flitBytes { ty := 7 } 0 (getLink s l).rxNext)
    let next := fun (t : State) => getLink t l = { getLink s l with rxNext := ((getLink s l).rxNext + 1) % 2 ^ 32 }
    (flitGood b = false → ∃ t, exec i s = .next t ∧ t = { s with out := s.out ++ [nak], regs := t.regs }) ∧
    (flitGood b = true → flitTy b = ty →
      (ty ≤ 4 → ¬expected → ∃ t, exec i s = .next t ∧ Safe.onlyLinks s t ∧ Safe.says s t [nak] ∧ getLink t l = getLink s l) ∧
      (ty = 2 → expected →
        let w := vwrite (twyRun (setLink s l (getLink s l))) (twyReq j 0) (flitField b 16 8 % 2 ^ 52) (b.drop 32)
        w.s.hostWait = false →
        ∃ t, exec i s = .next t ∧ next t ∧ t.hbm = w.s.hbm ∧ t.host = w.s.host ∧ t.sram = s.sram ∧ t.tms = s.tms ∧
          rd64 t (pgLink l + 0x90) = (rd64 s (pgLink l + 0x90) + 4096) % 2 ^ 64 ∧
          (w.fault ≠ none → Out.refusal l (flitField b 4 4) ∈ t.out)) ∧
      (ty = 3 → expected → ∃ t, exec i s = .next t ∧ next t ∧
        tmGet t k = (if flitField b 2 1 = 0 then flitField b 16 8 else (tmGet s k + 1) % 2 ^ 64) ∧
        (∀ n, n ≠ k → tmGet t n = tmGet s n) ∧ t.hbm = s.hbm ∧ t.host = s.host ∧ t.sram = s.sram) ∧
      (ty = 4 → expected → ∃ t, exec i s = .next t ∧ next t ∧ Safe.contents s t ∧
        ∀ pg ∈ allPages, blk t pg =
          if wakeable s pg (blk s pg) && rb s (pg + 0x10) 6 then { blk s pg with wake := true } else blk s pg) ∧
      (ty = 5 → s.rounds = [] → ∃ t, exec i s = .next t ∧ partnerUp t = true ∧ Safe.contents s t ∧ getLink t l = getLink s l ∧
        (partnerUp s = false → rb t (pgTwy + 0x28) 9 = true) ∧ (partnerUp s = true → Safe.onlyLinks s t ∧ Safe.says s t [])) ∧
      (6 ≤ ty → ∃ t, exec i s = .next t ∧ Safe.onlyLinks s t ∧ Safe.says s t [] ∧ getLink t l = getLink s l))

/-- R301, R312, R412: an acknowledgement in a flit takes the acknowledged flits from its link, and one of a mirror round's SIGNAL ends the
round: SENT takes its value and MIRROR_DONE is set. A NAK and a replay timeout send again every flit not acknowledged, in order, under
its own number, each counted in REPLAYS, and nothing else before them. Where the partner could not translate a WRITE of a mirror round,
the round stops at the WRITE's entry with MIRROR_FAULT; that a NAK bears the partner's word for it is the model's choice (log 30). -/
def Obligations.FlitsAreAcknowledgedAndReplayed : Prop :=
  ∀ (s : State) (l : Nat) (b : List Byte), up s = true → s.hostWait = false → (getLink s l).trained = true →
    clocked s pgTwy = true → s.twyQ = [] → s.twySigs = [] → s.snaps = [] →
    let x := getLink s l
    let acked := fun (e : Nat × Flit) => arrival e.1 (flitField b 8 4) = .ahead
    let rest := x.unacked.filter (fun e => !decide (acked e))
    let again := fun (t : State) (es : List (Nat × Flit)) =>
      Safe.says s t (es.map (fun e => Out.flit l (flitBytes e.2 e.1 x.rxNext))) ∧
      rd t (pgLink l + 0x98) = (rd s (pgLink l + 0x98) + es.length) % 2 ^ 32
    (flitGood b = true → (∀ e ∈ x.unacked, e.2.ty = 3 → ¬acked e) →
      (flitTy b = 6 → ∃ t, exec (.tidewayAck l b) s = .next t ∧ getLink t l = { x with unacked := rest } ∧
        Safe.onlyLinks s t ∧ Safe.says s t []) ∧
      (flitTy b = 7 → ∃ t, exec (.nak l ⟨b, none⟩) s = .next t ∧ getLink t l = { x with unacked := rest } ∧ again t rest ∧
        Safe.onlyLinks s t) ∧
      (flitTy b = 7 → ∀ n f r, x.unacked.find? (fun e => e.1 = n && e.2.ty = 2) = some (n, f) → f.image = false →
        getRound s f.owner = some r → r.failed = false →
        ∃ t, exec (.nak l ⟨b, some n⟩) s = .next t ∧ getRound t f.owner = some { value := r.value, failed := true } ∧
          rf t (twyReg f.owner 0xA4) 31 16 = f.entry % 2 ^ 16 ∧ rb t (pgTwy + 0x14) 9 = true ∧ getLink t l = { x with unacked := rest } ∧
          Safe.contents s t)) ∧
    (∃ t, exec (.replayTimeout l) s = .next t ∧ again t x.unacked ∧ t = { s with out := t.out, regs := t.regs }) ∧
    (∀ n f r, flitGood b = true → flitTy b = 6 → x.unacked = [(n, f)] → acked (n, f) → f.ty = 3 → f.which = 0 →
      getRound s f.owner = some r → r.failed = false → r.lost = false →
      tmGet s (rf s (twyReg f.owner 0x90) 12 0) % 2 ^ 32 ≤ r.value % 2 ^ 32 →
      ∃ t, exec (.tidewayAck l b) s = .next t ∧ getRound t f.owner = none ∧ rd t (twyReg f.owner 0xA0) = r.value % 2 ^ 32 ∧
        rb t (pgTwy + 0x28) 10 = true ∧ (getLink t l).unacked = [] ∧ Safe.contents s t)

/-- R293, R412, R413: a trained link sends heartbeats and ACKs under no number; one not trained sends its TRAIN flit with pair, role and
serial until it has received one. A TRAIN flit that matches trains the link, numbering from 0; one that does not sets PAIR_MISMATCH and trains nothing. A link
that goes down or is retrained loses its training, and what it had not been acknowledged waits for another. That ROLE is taken from
flash as TRAIN is sent (log 117), and that SIGNAL and WAKE flits are kept too (log 31), are the model's choices. -/
def Obligations.LinksTrainSendAndGoDown : Prop :=
  ∀ (s : State) (l : Nat) (b : List Byte), up s = true → s.hostWait = false → l < 2 → clocked s pgTwy = true →
    let x := getLink s l
    let id := flitField b 32 1 % 4
    let role := flitField b 32 1 / 4 % 2
    let fits := id = pairId s ∧ role ≠ b2n s.flash.role ∧ ((getLink s (1 - l)).trained = true → (getLink s (1 - l)).serial = flitField b 40 8)
    let lost := fun (t : State) => getLink t l = {} ∧ rb t (pgLink l + 0x80) 31 = false ∧ rb t (pgTwy + 0x80) l = false ∧
      t.twyQ = (x.unacked.map (·.2)).filter (fun f => decide (f.ty ≠ 3)) ++ s.twyQ ∧
      t.twySigs = (x.unacked.map (·.2)).filter (fun f => f.ty = 3) ++ s.twySigs ∧ Safe.contents s t
    (x.trained = true →
      (∃ t, exec (.heartbeatSend l) s = .next t ∧ t = { s with out := t.out, regs := t.regs } ∧
        t.out = s.out ++ [.flit l (flitBytes { ty := 5 } 0 x.rxNext)]) ∧
      (∃ t, exec (.tidewayAckSend l) s = .next t ∧ t = { s with out := t.out, regs := t.regs } ∧
        t.out = s.out ++ [.flit l (flitBytes { ty := 6 } 0 x.rxNext)]) ∧
      ((getLink s (1 - l)).trained = false → s.snaps = [] →
        (∃ t, exec (.linkDown l) s = .next t ∧ lost t ∧ rb t (pgLink l + 0x14) 8 = true) ∧
        (clocked s (pgLink l) = true → ∃ t, exec (.linkRetrain l) s = .next t ∧ lost t))) ∧
    (x.trained = false →
      exec (.heartbeatSend l) s = .next s ∧ exec (.tidewayAckSend l) s = .next s ∧ exec (.linkDown l) s = .next s ∧
      exec (.replayTimeout l) s = .next s ∧
      (clocked s (pgLink l) = true →
        exec (.linkRetrain l) s = .next (setLink s l { x with heard := false }) ∧
        (x.heard = true → exec (.trainSend l) s = .next s) ∧
        (x.heard = false → ∃ t body, exec (.trainSend l) s = .next t ∧ t.out = s.out ++ [.flit l (flitBytes { ty := 1, body := body } 0 x.rxNext)] ∧
          body.length = 64 ∧ body.take 2 = [BitVec.ofNat 8 (pairId s + 4 * b2n s.flash.role), BitVec.ofNat 8 l] ∧
          slice body 8 8 = leBytes 8 s.flash.serial.toNat ∧ rb t (pgTwy + 0x80) 8 = s.flash.role ∧
          t = { s with out := t.out, regs := t.regs }) ∧
        (flitGood b = true → flitTy b = 1 →
          (fits → s.twyQ = [] → s.twySigs = [] → s.snaps = [] →
            ∃ t, exec (.train l b) s = .next t ∧ getLink t l = { trained := true, heard := true, serial := flitField b 40 8 } ∧
              rb t (pgLink l + 0x80) 31 = true ∧ rb t (pgTwy + 0x80) l = true ∧ Safe.onlyLinks s t ∧ Safe.says s t []) ∧
          (¬fits → ∃ t, exec (.train l b) s = .next t ∧ rb t (pgTwy + 0x14) 8 = true ∧ getLink t l = { x with heard := true } ∧
            Safe.onlyLinks s t))))

/-- R300, R301: a mirror round of a job in mirror mode reads its list, takes the value of SEND_TM and queues one SIGNAL behind
its WRITEs; a list it cannot use fails the round with MIRROR_FAULT, and a retry runs a failed round again with its value. -/
def Obligations.MirrorRoundsAndThePartner : Prop :=
  ∀ (s : State) (i : Instr) (j v : Nat), up s = true → s.hostWait = false →
    (i = .mirrorRound j ∧ getRound s j = none ∧ v = tmGet s (rf s (twyReg j 0x90) 12 0) % 2 ^ 32 ∧ rd s (twyReg j 0xA0) < v) ∨
      (i = .mirrorRetry j ∧ ∃ r, getRound s j = some r ∧ r.failed = true ∧ v = r.value) →
    let va := rd64 s (twyReg j 0x98)
    let h := vread s (twyReq j 0) va 64
    let n := wf' (words64 h.bytes) 0 15 0
    let b := vread h.s (twyReq j 0) (va + 64) (32 * n)
    let es := (List.range n).map (fun i => ((words64 b.bytes).drop (4 * i)).take 4)
    let c := mirrorCopy j (partnerJob s j) 0 es b.s
    let bad := h.failed.isSome = true ∨ 4096 < n ∨ wf' (words64 h.bytes) 0 63 16 ≠ 0 ∨ (∃ w ∈ (words64 h.bytes).drop 1, w ≠ 0)
    (mirrorReady s j = false → clocked s pgTwy = true → exec i s = .next s) ∧
    (mirrorReady s j = true → bad → h.s.hostWait = false →
      ∃ t, exec i s = .next t ∧ getRound t j = some { value := v, failed := true } ∧ rb t (pgTwy + 0x14) 9 = true ∧
        rf t (twyReg j 0xA4) 31 16 = 0 ∧ t.host = s.host ∧ t.sram = s.sram ∧ t.tms = s.tms) ∧
    (mirrorReady s j = true → ¬bad → b.failed = none → (∀ i, i < n → mirrorEntryBad (es.getD i []) = false) → c.2 = none →
      c.1.hostWait = false →
      ∃ t, exec i s = .next t ∧ getRound t j = some { value := v } ∧ t.host = s.host ∧ t.sram = s.sram ∧ t.tms = s.tms ∧
        (nextLink c.1 = none → s.snaps = [] → t.twyQ = c.1.twyQ ∧
          t.twySigs = s.twySigs ++ [{ ty := 3, job := partnerJob s j, owner := j, dest := v }]))

/-- R293, R294, R301: the partner lost is down with PARTNER_LOST, each round not failed is broken off, and WRITE and SIGNAL flits that wait
are withdrawn. WAKE_PARTNER sends one WAKE flit under the next number of the link whose turn it is; that it is kept where no link can take it, or
Tideway enters the hold, is the model's choice (log 31, log 164). -/
def Obligations.PartnerIsLostAndWoken : Prop :=
  ∀ (s : State), up s = true → s.hostWait = false →
    (partnerUp s = false → exec .partnerLost s = .next s) ∧
    (partnerUp s = true → (∀ x ∈ s.snaps, x.phase = .waiting) →
      ∃ t, exec .partnerLost s = .next t ∧ partnerUp t = false ∧ rb t (pgTwy + 0x28) 8 = true ∧
        t.twyQ = s.twyQ.filter (fun f => !(f.ty = 2 || f.ty = 3)) ∧ t.twySigs = s.twySigs.filter (fun f => !(f.ty = 2 || f.ty = 3)) ∧
        (∀ j r, j < 64 → getRound s j = some r → getRound t j = some (if r.failed then r else { r with lost := true })) ∧
        t = { s with regs := t.regs, hl := t.hl, out := t.out, twyQ := t.twyQ, twySigs := t.twySigs, rounds := t.rounds }) ∧
    (clocked s pgTwy = true → s.twyQ = [] → s.twySigs = [] → s.snaps = [] →
      (∀ l, nextLink s = some l → (blk s pgTwy).entering = false →
        ∃ t, exec .wakePartner s = .next t ∧
          Safe.says s t [.flit l (flitBytes { ty := 4 } (getLink s l).txNext (getLink s l).rxNext)] ∧
          getLink t l = { getLink s l with txNext := ((getLink s l).txNext + 1) % 2 ^ 32
                                           unacked := (getLink s l).unacked ++ [((getLink s l).txNext, { ty := 4 })] } ∧
          t = { s with out := t.out, regs := t.regs, hl := t.hl, links := t.links, twyTurn := l + 1 }) ∧
      (nextLink s = none ∨ (blk s pgTwy).entering = true →
        ∃ t, exec .wakePartner s = .next t ∧ Safe.says s t [] ∧
          t = { s with out := t.out, regs := t.regs, hl := t.hl, twyQ := [{ ty := 4 }] }))

/-- R302 to R305, R307: a SNAP to the job's own memory writes its image, the header last, and completes OK, and it pauses no queue any
more; one whose list is bad completes with that fault, one to a partner that is down as ABSENT; one to the partner begins with
the flit that holds its header as zero. A restore is refused while its job has work or where the image's counts are not the job's, and
otherwise reads running; its end writes the selected parts and reads done. That an image to the partner fills its last flit with zeros
(log 33), and how an image's counts are known (log 34), are the model's choices. -/
def Obligations.SnapshotsAreWrittenAndRestored : Prop :=
  ∀ (s : State) (q seq : Nat) (x : SnapJob) (o : Op) (v : Word32), up s = true → s.hostWait = false →
    let g := snapImage s q seq x.job o.cmd
    let r := twyReq x.job (handleOf q seq)
    let ended := fun (t : State) (rec' : CompRec) => Safe.ended t q seq rec' ∧ (∀ y ∈ t.snaps, ¬(y.queue = q ∧ y.seq = seq)) ∧
      (∀ p, (q, seq) ∉ (getQ t p).pausedBy)
    (s.snaps.find? (fun y => y.queue = q && y.seq = seq) = some x → x.phase = .waiting → opFind s q seq = some o → o.phase = .running →
      (snPartner o.cmd = false →
        (∀ e, g.2 = .error e → g.1.hostWait = false → ∃ t, exec (.snapWrite q seq) s = .next t ∧ ended t e) ∧
        (∀ head body, g.2 = .ok (head, body) →
          let a := vwrite g.1 r (snDest o.cmd) (List.replicate 64 0)
          let b := vwrite a.s r (snDest o.cmd + 64) body
          let d := vwrite b.s r (snDest o.cmd) head
          a.fault = none → b.fault = none → d.fault = none → d.s.hostWait = false →
          ∃ t, exec (.snapWrite q seq) s = .next t ∧ ended t { status := stOk } ∧ t.hbm = d.s.hbm ∧ t.host = d.s.host ∧ t.tms = s.tms)) ∧
      (snPartner o.cmd = true → working s pgTwy = true → clocked s pgTwy = true →
        ((twyMode s x.job = 0 ∨ partnerUp s = false) → ∃ t, exec (.snapWrite q seq) s = .next t ∧ ended t { status := stAbsent } ∧ Safe.contents s t) ∧
        (twyMode s x.job ≠ 0 → partnerUp s = true → ∀ head body, g.2 = .ok (head, body) → g.1.hostWait = false → nextLink g.1 = none →
          s.snaps = [x] →
          ∃ t, exec (.snapWrite q seq) s = .next t ∧ (∃ y, t.snaps = [y] ∧ y.queue = q ∧ y.seq = seq ∧ y.phase = .zero ∧
              y.rest.length + 1 = cdiv (64 + body.length) 4096) ∧ (∃ f, t.twyQ = s.twyQ ++ [f] ∧ f.image = true ∧ f.dest = snDest o.cmd ∧ f.body.take 64 = List.replicate 64 0) ∧ t.host = s.host))) ∧
    (clocked s pgTwy = true →
      (bitOf v.toNat 31 = true → rf s rsKey 30 28 ≠ 1 →
        let u := wr s rsKey (rd s rsKey % 2 ^ 31 / 2 ^ 28 * 2 ^ 28 + (v.toNat &&& 0x3F013F))
        let j := bitsOf v.toNat 21 16
        let m := rsImage u j (rd64 u (pgTwy + 0xB0))
        (rsBusy u j = true → ∃ t, exec (.restore v) s = .next t ∧ Safe.onlyRecords s t ∧ rf t rsKey 30 28 = 3 ∧ rb t (pgTwy + 0x14) 10 = true) ∧
        (∀ h es, rsBusy u j = false → m.2 = .ok (h, es) → m.1.hostWait = false → wf' h 0 7 0 = 1 → bitOf (wd h 0) 8 = false →
          (imageUnfit m.1 j h es = false →
            ∃ t, exec (.restore v) s = .next t ∧ rf t rsKey 30 28 = 1 ∧ rf t rsKey 21 16 = j ∧ t.queues = s.queues ∧ t.tms = s.tms) ∧
          ((wd h 2 < imageLen m.1 j (wf' h 0 21 16) es ∨
              (∃ k ∈ m.1.images, m.1.images.find? (fun k => decide (k.handle = wd h 4)) = some k ∧ 0 ∈ partBits (wf' h 0 21 16) ∧
                k.counts.getD 0 0 ≠ (ownedRange m.1 j 0x90).length)) →
            ∃ t, exec (.restore v) s = .next t ∧ rf t rsKey 30 28 = 3 ∧ rb t (pgTwy + 0x14) 10 = true ∧ t.queues = s.queues))) ∧
      (rf s rsKey 30 28 ≠ 1 → exec .restoreDone s = .next s) ∧
      (rf s rsKey 30 28 = 1 →
        let j := rf s rsKey 21 16
        let va := rd64 s (pgTwy + 0xB0)
        let m := rsImage s j va
        ∀ h es, m.2 = .ok (h, es) → rb s rsKey 8 = false →
          let a := restoreParts (twyReq j 0) j va (wf' h 0 21 16) (rf s rsKey 5 0) (partBits (wf' h 0 21 16)) m.1
          a.2 = none → a.1.hostWait = false →
          ∃ t, exec .restoreDone s = .next t ∧ rf t rsKey 30 28 = 2 ∧ t = { a.1 with regs := t.regs, hl := t.hl, out := t.out })) ∧
    (∀ j b n, n < rf s (bk (pgJob + 0x94) j) 30 16 →
      tmGet (restorePart s j 1 b) (rf s (bk (pgJob + 0x94) j) 13 0 + n) = leNat (slice b (8 * n) 8))

/-! ### Flood and Ebb engines -/

/-- R189, R193, R196, R202, R204: an engine with room reads the next descriptor of its stream and, where it is good, takes it up; one that
breaks its limits ends its COPY with FAULT_KIND 4 and the descriptor's index. A Flood stream issues the read of its next run under
the stream's epoch once staging for it is free. A stream that waits for valleys to be told does neither. That RUN_READ of a stream whose
turn it is not has no effect is the model's choice (log 186). -/
def Obligations.DescriptorsAreReadAndRunsIssued : Prop :=
  ∀ (s : State) (e : Eng) (n : Nat) (i : Wired), s.hostWait = false → i.no = n →
    let x := getStream s e n
    let room := match e.kind with | .flood => decide (x.ahead.length < 64) | .ebb => (x.copies.flatMap (·.active)).isEmpty
    (streamWaits s x = true → exec (.descriptorRead e n) s = .next s ∧ exec (.runRead e i) s = .next s) ∧
    (∀ c, x.reads = some c → (∀ k ∈ x.copies, k.queue = c.queue → k.seq = c.seq → k = c) → engIssue s e = true →
      streamWaits s x = false → room = true →
      let g := nread s c.job (handleOf c.queue c.seq) (c.list + 64 * c.next) 64
      let d := words64 g.bytes
      g.failed = none → g.s.hostWait = false →
      (descBad (decide (e.kind = .ebb)) d = false → descForeign g.s c.job d = false → descAbsent g.s d = false →
        ∃ t, exec (.descriptorRead e n) s = .next t ∧ t.host = g.s.host ∧ t.hbm = g.s.hbm ∧ t.sram = s.sram ∧ t.tms = s.tms ∧
          getStream t e n = copyMod x c.queue c.seq (fun c => { c with
            next := c.next + 1, active := c.active ++ [{ idx := c.next, d := d, opened := !dGateEn d }]
            links := c.links ++ if dLinkEn d && decide (e.kind = .flood) then (descDests d).map (fun v => (v, dLinkSlot d)) else [] })) ∧
      (descBad (decide (e.kind = .ebb)) d = true → opRunning g.s c.queue c.seq = true → x.flight = [] → (∀ k ∈ x.copies, k.ending = none) → c.links = [] →
        ∃ t, exec (.descriptorRead e n) s = .next t ∧ rb t (pgEng e + 0x14) 9 = true ∧
          Safe.ended t c.queue c.seq { status := stFault, faultKind := 4, index := c.next, partialOut := c.wrote })) ∧
    (∀ c d, e.kind = .flood → engIssue s e = true → streamWaits s x = false → x.nextRun = some (c, d) →
      stageRoom s e x (dLen d.d) = true → runTurn s e n = true →
      ∃ t, exec (.runRead e i) s = .next t ∧ t = { s with streams := t.streams, engTurn := t.engTurn } ∧
        getStream t e n = { descMod x c.queue c.seq d.idx (fun d => { d with issued := d.issued + 1 }) with
          flight := x.flight ++ [⟨x.epoch, c.seq, c.queue, d.idx, d.issued, (runAddr d.d d.issued).toNat, dLen d.d⟩] }) ∧
    (runTurn s e n = false → exec (.runRead e i) s = .next s)

/-- R191, R194, R195, R196, R202: a run whose read returns is staged while its gate is shut and written into every destination core where it
is open; one of an older epoch is dropped. An Ebb stream moves a clean run from core memory to its address. A gate opens at its
tidemark. That a read is translated as it returns (log 91), and the order of the returns and writes (log 187), are the model's choices.
-/
def Obligations.RunsAreStagedAndWritten : Prop :=
  ∀ (s : State) (e : Eng) (n : Nat) (i : Wired), s.hostWait = false → i.no = n →
    let x := getStream s e n
    let s' := { s with engTurn := tput 4095 s.engTurn (streamKey e 0 / 4096) n }
    (∀ f rest c d o, engRun s e = true → x.flight = f :: rest → x.due = none → (∀ k ∈ x.copies, k.ending = none) →
      x.copies.find? (fun c => c.queue = f.queue && c.seq = f.seq) = some c → c.active.find? (fun d => d.idx = f.desc) = some d →
      opFind s f.queue f.seq = some o → o.cmd ≠ [] → slOn s c.job = false →
      let y := { x with flight := rest }
      let g := vread (setStream s e n y) (engReq e c) f.va f.len
      let r : Staged := { run := f.run, bytes := g.bytes, poison := (List.range (cdiv (dLen d.d) 32)).map (fun i =>
        ((g.bad.drop (32 * i)).take 32).any id) }
      g.s.hostWait = false →
      (f.epoch ≠ x.epoch → ∃ t, exec (.readReturn e i) s = .next t ∧ getStream t e n = y ∧ t.sram = s.sram ∧ t.host = s.host ∧ t.tms = s.tms) ∧
      (f.epoch = x.epoch → g.fault = none → d.opened = false →
        ∃ t, exec (.readReturn e i) s = .next t ∧ t.sram = s.sram ∧ t.host = s.host ∧ t.tms = s.tms ∧
          getStream t e n = descMod y c.queue c.seq d.idx (fun d => { d with staged := d.staged ++ [r] })) ∧
      (f.epoch = x.epoch → g.fault = none → d.opened = true → r.poison.any id = false →
        let w := floodWrite g.s (engReq e c) d.d r i.errs
        w.2.1 = true →
        ∃ t, exec (.readReturn e i) s = .next t ∧ t.sram = w.1.sram ∧ t.host = s.host ∧ t.tms = s.tms ∧
          getStream t e n = descMod (copyMod y c.queue c.seq (fun c => { c with wrote := c.wrote || w.2.2 })) c.queue c.seq d.idx
            (fun d => { d with written := d.written + 1 }))) ∧
    (∀ c cs d ds p ps core, e.kind = .ebb → engIssue s e = true → streamWaits s x = false → runTurn s e n = true → x.copies = c :: cs →
      c.active = d :: ds → c.ending = none → dMode d.d = 0 → d.opened = true → d.issued < dRuns d.d → runCores d.d d.issued = p :: ps → logical s p.1 p.2 = some core →
      let va := (runAddr d.d d.issued).toNat
      let g := ebbFetch s' e i.errs d.d d.issued
      let w := vwrite (carry g.s (.core core) [memPlace g.s (engReq e c) va] g.bytes.length) (engReq e c) va (slice g.bytes 0 (dLen d.d))
      g.bad.any id = false → w.fault = none → w.dropped = false → w.s.hostWait = false →
      ∃ t, exec (.runRead e i) s = .next t ∧ t.hbm = w.s.hbm ∧ t.host = w.s.host ∧ t.sram = g.s.sram ∧ t.tms = s.tms ∧
        getStream t e n = descMod (copyMod x c.queue c.seq (fun c => { c with wrote := c.wrote || w.stored })) c.queue c.seq d.idx
          (fun u => { u with issued := d.issued + 1, written := u.written + 1 })) ∧
    (x.gated s = none → exec (.gateOpen e i) s = .next s) ∧
    (∀ c d, x.gated s = some (c, d) → engIssue s e = true → streamKept s x = false → d.staged = [] →
      ∃ t, exec (.gateOpen e i) s = .next t ∧ t = { s with streams := t.streams } ∧
        getStream t e n = descMod x c.queue c.seq d.idx (fun d => { d with opened := true, staged := [] }))

/-- R195, R198, R199, R202, R203: a descriptor wholly written leaves its COPY and performs its DONE signal; a COPY whose descriptors are done
completes OK. A valley told of a stream's epoch keeps it and is no longer awaited. A hand-off unit from a core the descriptor does
not name is stray; a good one is laid in the combining store, and a line of 256 bytes that it fills goes out whole and leaves the
store. How the store gathers lines is the model's choice (log 189). -/
def Obligations.DescriptorsAndCopiesComplete : Prop :=
  ∀ (s : State) (e : Eng) (n v : Nat), s.hostWait = false →
    let x := getStream s e n
    (∀ c d rest, engRun s e = true → x.copies.find? (fun c => c.ending.isNone && !c.active.isEmpty) = some c → c.active = d :: rest →
      d.full = true → d.host = [] → streamKept s x = false →
      (x.copies.takeWhile (fun k => !(k.queue = c.queue && k.seq = c.seq))).any (fun k => k.ending.isNone) = false →
      let due := dDoneEn d.d && decide (c.doneTo ≤ d.idx)
      ∃ t, exec (.descriptorDone e n) s = .next t ∧ t.hbm = s.hbm ∧ t.host = s.host ∧ t.sram = s.sram ∧
        tmGet t (dDoneTm d.d) = (if due then (tmGet s (dDoneTm d.d) + 1) % 2 ^ 64 else tmGet s (dDoneTm d.d)) ∧
        (∀ m, m ≠ dDoneTm d.d → tmGet t m = tmGet s m) ∧
        getStream t e n = copyMod x c.queue c.seq (fun c => { c with active := rest, doneTo := max c.doneTo (d.idx + 1) })) ∧
    (∀ c rest, engRun s e = true → x.copies = c :: rest → c.ending = none → c.next = c.count → c.active = [] →
      opRunning s c.queue c.seq = true → (∀ k ∈ rest, ¬(k.queue = c.queue ∧ k.seq = c.seq)) →
      ∃ t, exec (.copyComplete e n) s = .next t ∧ Safe.ended t c.queue c.seq {} ∧ Safe.contents s t ∧
        getStream t e n = (if opKept t c.queue c.seq then x else { x with copies := rest })) ∧
    (engRun s e = true → v ∈ x.acks → ∃ t, exec (.epochAck e n v) s = .next t ∧ tget 0 (getV t v).epochs (streamKey e n) = x.epoch ∧
      (getStream t e n).acks = x.acks.filter (· ≠ v) ∧ (getStream t e n).epoch = x.epoch ∧ (∀ u, u ≠ v → getV t u = getV s u) ∧
      Safe.contents s t) ∧
    (v ∉ x.acks → exec (.epochAck e n v) s = .next s) ∧
    (∀ u c cs d ds, e.kind = .ebb → engRun s e = true → s.handoffs.find? (fun u => u.stack = e.stack && u.stream = n) = some u →
      x.copies = c :: cs → streamKept s x = false → c.ending = none → c.active = d :: ds → dMode d.d = 1 → d.opened = true →
      d.units < dCount d.d 1 * dCount d.d 2 →
      (handOk d.d u = false →
        ∃ t, exec (.handoffUnit e.stack n) s = .next t ∧ rb t (pgEng e + 0x14) 10 = true ∧ getStream t e n = x ∧
          t.handoffs = s.handoffs.erase u ∧ Safe.contents s t) ∧
      (handOk d.d u = true → 0 ≤ (handAddr d.d u).1 → (u.header.isSome = true → dHdrBase d.d % 64 = 0 ∧ 0 ≤ (handAddr d.d u).2) →
        d.units + 1 < dCount d.d 1 * dCount d.d 2 →
        let low := combPut d.comb (handAddr d.d u).1.toNat u.data
        let store := match u.header with | some w => combPut low (handAddr d.d u).2.toNat ((leBytes 2 w).map some) | none => low
        (∀ r ∈ combRuns store, r.2.length ≠ 256) → (∀ k ∈ cs, ¬(k.queue = c.queue ∧ k.seq = c.seq)) → (∀ k ∈ ds, k.idx ≠ d.idx) →
        ∃ t, exec (.handoffUnit e.stack n) s = .next t ∧ t.handoffs = s.handoffs.erase u ∧ Safe.contents s t ∧
          getStream t e n = { x with copies := { c with active := { d with comb := store, units := d.units + 1 } :: ds } :: cs }) ∧
      (handOk d.d u = true → 0 ≤ (handAddr d.d u).1 → (u.header.isSome = true → dHdrBase d.d % 64 = 0 ∧ 0 ≤ (handAddr d.d u).2) →
        d.units + 1 < dCount d.d 1 * dCount d.d 2 → (∀ k ∈ cs, ¬(k.queue = c.queue ∧ k.seq = c.seq)) → (∀ k ∈ ds, k.idx ≠ d.idx) →
        let low := combPut d.comb (handAddr d.d u).1.toNat u.data
        let store := match u.header with | some w => combPut low (handAddr d.d u).2.toNat ((leBytes 2 w).map some) | none => low
        let holds := fun (l : Tbl Byte) => { x with copies := { c with active := { d with comb := l, units := d.units + 1 } :: ds } :: cs }
        let from' := match logical s u.valley u.core with | some k => [Place.core k] | none => []
        let a := from'.foldl (fun s p => carry s p [memPlace s (engReq e c) (handAddr d.d u).1.toNat] (u.data.filterMap id).length)
          { s with handoffs := s.handoffs.erase u }
        ∀ line, (combRuns store).filter (fun r => decide (r.2.length = 256)) = [line] →
        let left := store.filter (fun b => !(decide (line.1 ≤ b.1) && decide (b.1 < line.1 + line.2.length)))
        let w := vwrite (setStream (setStream a e n (holds store)) e n (holds left)) (engReq e c) line.1 line.2
        w.fault = none → w.dropped = false → w.s.hostWait = false →
        ∃ t, exec (.handoffUnit e.stack n) s = .next t ∧ t.handoffs = s.handoffs.erase u ∧ t.hbm = w.s.hbm ∧ t.host = w.s.host ∧
          t.sram = s.sram ∧ t.tms = s.tms ∧
          getStream t e n = if w.stored then copyMod (holds left) c.queue c.seq (fun c => { c with wrote := true }) else holds left))

/-! ### Cores -/

/-- R84, R88, R95, R124 to R127, R167, R168: SLOT_RUN starts an ARMED task on a core the other slot does not hold back, and loads its seeds where
no drain of an earlier task is outstanding there; that the seeds wait for that drain is the model's choice (log 72). A row task's core
gathers its rows with it (the model's choice, log 178). PANEL_FILL fills the free panel slot with the next pass's two panels. PASS_ISSUE
issues the next pass whose panels are complete and whose tile awaits no drain. ROW_APPLY runs the next row of a row task that every core
has come to (one row for each command, log 73): each core writes its segment of the output row, OP's value at each included position, +0.0 at the
others, the canonical NaN throughout where a statistic was not finite. A slot whose cores have all issued stands in TAIL. -/
def Obligations.CoresRunTasksAndPasses : Prop :=
  ∀ (s : State) (v n l c : Nat) (t : Task), l < 2 → s.hostWait = false → coresIssue s v = true → logical s v n = some c →
    taskOf s v l = some t → t.ending = none →
    let y := (getV s v).slot l
    let m := y.words
    let x := getCore s c
    let pg := pgValley v
    let calm := fun (u : State) => u.hbm = s.hbm ∧ u.host = s.host ∧ u.tms = s.tms ∧ u.queues = s.queues ∧ u.ops = s.ops
    (n ∈ t.cores → (t.run n).on = false → slotBlocked s v l n y.armNo = false →
      let seeds := iSeedLoad m && !(t.run n).seeded && !otherBusy s v l n
      let r := { t.run n with on := true, seeded := (t.run n).seeded || seeds }
      let x' := if seeds then { x with rnd := seeded (cw m 1) v n 0x9E3779B97F4A7C15, rndLeft := []
                                       drp := seeded (cw m 6) v n 0xD1B54A32D192ED03, drpLeft := [] } else x
      (iKind m ≠ 2 →
        ∃ u t', exec (.slotRun v n l) s = .next u ∧ ((getV u v).slot l).st = .running ∧ taskOf u v l = some t' ∧
          t' = { t with runs := t'.runs } ∧ (∀ j, j ≠ n → t'.run j = t.run j) ∧ t'.run n = r ∧
          getCore u c = x' ∧ (∀ d, d ≠ c → getCore u d = getCore s d) ∧ calm u ∧ u.sram = s.sram) ∧
      (iKind m = 2 →
        let s1 := slotMod s v l (fun y => { y with st := .running, task := some (t.setRun n { t.run n with on := true }) })
        let g := coreGather (if otherBusy s1 v l n then s1 else seedCore s1 v l n) c n m
        g.bad = false →
        ∃ u t', exec (.slotRun v n l) s = .next u ∧ ((getV u v).slot l).st = .running ∧ taskOf u v l = some t' ∧ calm u ∧
          t'.run n = r ∧ tget [] t'.gathered n = g.stats ∧ (∀ j, j ≠ n → tget [] t'.gathered j = tget [] t.gathered j) ∧
          getCore u c = x' ∧ u.sram = g.s.sram ∧ (t.gathered = [] → rf u (pg + 0xC10) 31 30 = 1) ∧
          (t'.gatheredAll = true → rf u (pg + 0xC10) 12 0 = rRows m % 2 ^ 13))) ∧
    (∀ k p pr i, fillNext s v n = some (l, k) → passAt m n k = some p → pairOf (iFmtA m) (iFmtB m) = some pr →
      x.slotClear k = true → i.no = n →
      let a := sideLoad s v n i.errs p p.chain.a (iTensor m 8) (iFmtA m) pr.rank p.chain.rmask
      let b := sideLoad a.s v n i.errs p p.chain.b (iTensor m 9) (iFmtB m) pr.rank p.chain.cmask
      a.bad = false → b.bad = false →
      ∃ u, exec (.panelFill v i) s = .next u ∧ calm u ∧
        getCore u c = x.fill k { lslot := l, pass := k, a := a.rows, b := b.rows } ∧
        (∀ d, d ≠ c → getCore u d = getCore s d) ∧
        taskOf u v l = some { t.setRun n { t.run n with filled := k + 1 } with
          clipSum := t.clipSum + a.clip + b.clip, elemSum := t.elemSum + a.elems + b.elems }) ∧
    (∀ p, n ∈ t.cores → (t.run n).on = true → t.issuedAll m n = false → (x.panel l (t.run n).issued).isSome = true →
      (l = 1 → ∀ t0, taskOf s v 0 = some t0 → x.panel 0 (t0.run n).issued = none) → passAt m n (t.run n).issued = some p →
      (∀ e ∈ x.inArray ++ x.toDrain, drainsTile s v n e.1 e.2 p.tile = false) → tileWaits s v n p.tile = false →
      let t' := t.setRun n { t.run n with issued := (t.run n).issued + 1 }
      ∃ u, exec (.passIssue v n) s = .next u ∧ u = { s with cores := u.cores, valleys := u.valleys } ∧
        getCore u c = { x with inArray := x.inArray ++ [(l, (t.run n).issued)] } ∧ (∀ d, d ≠ c → getCore u d = getCore s d) ∧
        (getV u v).slot l = { y with task := some t', st := if t'.cores.all (t'.issuedAll m) then .tail else y.st }) ∧
    (iKind m = 2 → t.applied = false → t.gatheredAll = true → (∀ j ∈ t.cores, (t.run j).on = true) →
      (iHandOff m = true → rOp m ≠ 7 → streamTakes s m = true) →
      let st := rowStat m t t.row
      let last := decide (t.row + 1 = rRows m)
      let row := fun (n : Nat) (g : SegIn) => (List.range (rSeg m)).map (fun i =>
        if st.nan then f32Nan
        else if rowIncluded m t.row (segFirst m n + i) (g.x.getD i 0) then
          (rowOutput (rOp m) (rEps m) st.part (g.x.getD i 0) (g.dy.getD i 0) (g.gamma.getD i 0) (g.beta.getD i 0)).1
        else f32Zero)
      let written := t.cores.foldl (fun (a : State × Bool) n => match logical a.1 v n with
        | some c =>
          let g := segRead a.1 c m t.row true
          (segWrite g.s v n l c m t.row (row n g), a.2 && !g.bad)
        | none => (a.1, false)) (t.cores.foldl (fun s n => seedCore s v l n) s, true)
      ∃ u t', exec (.rowApply v l) s = .next u ∧ calm u ∧ taskOf u v l = some t' ∧ t'.row = t.row + 1 ∧ t'.applied = last ∧
        t'.cores = t.cores ∧ ((getV u v).slot l).st = (if last then .tail else y.st) ∧ ((getV u v).slot l).words = m ∧
        rd u (pg + 0xC14) = (rd s (pg + 0xC14) + 1) % 2 ^ 32 ∧ (rOp m ≠ 7 → rf u (pg + 0xC10) 31 30 = 2 ∧
          (st.nan = true → rf u (pg + 0xC18) 15 0 = satAdd 16 (rf s (pg + 0xC18) 15 0) 1)) ∧
        (written.2 = true → usesCrest m = false → (rColsum m && (rOp m = 4 || rOp m = 5)) = false →
          u.sram = written.1.sram ∧ u.handoffs = written.1.handoffs))

/-- R86, R95, R108 to R119, R169, R199, R205: TILE_COMPLETE leaves the oldest pass's result in its tile, frees its panel slot where it is
not filled anew, and queues its drain. DRAIN performs the oldest drain of a core, row by row: each accumulator through the stages, its rows written or
handed off, or joined to the open PJ4 group; flags of its cells to the task. A hand-off that waited too long ends the task with FAULT_KIND
3; that the core's waiting units are then handed off no more is the model's choice (log 211). TASK_COMPLETE
returns the slots of a finished group to LOADED and ends its START with OK and the flags of its valleys together. -/
def Obligations.PassesDrainAndTasksEnd : Prop :=
  ∀ (s : State) (v n l k c : Nat) (t : Task), l < 2 → s.hostWait = false → coresRun s v = true → logical s v n = some c →
    taskOf s v l = some t → t.ending = none →
    let m := ((getV s v).slot l).words
    let x := getCore s c
    let calm := fun (u : State) => u.hbm = s.hbm ∧ u.host = s.host ∧ u.tms = s.tms ∧ u.queues = s.queues ∧ u.ops = s.ops
    (∀ rest p pr pan, x.inArray = (l, k) :: rest → passAt m n k = some p → pairOf (iFmtA m) (iFmtB m) = some pr →
      x.panel l k = some pan →
      ∃ u, exec (.tileComplete v n []) s = .next u ∧ u = { s with cores := u.cores, valleys := u.valleys } ∧
        getCore u c = { (x.setTile p.tile (tilePass (x.tile p.tile) p pr.blk pan)).unpanel l k with
          inArray := rest, toDrain := if p.drains then x.toDrain ++ [(l, k)] else x.toDrain } ∧
        (∀ d, d ≠ c → getCore u d = getCore s d) ∧ taskOf u v l = some (t.setRun n { t.run n with done := k + 1 })) ∧
    (∀ rest p, x.toDrain = (l, k) :: rest → passAt m n k = some p → (drainHands s c l m = true → streamTakes s m = true) →
      let s1 := setCore (seedCore s v l n) c { getCore (seedCore s v l n) c with toDrain := rest }
      let tile := x.tile p.tile
      let r := (List.range 8).foldl (fun x i => drainRow x v n l c m p tile i) { s := s1 }
      let live := fun (i j : Nat) => bitOf p.chain.rmask i && bitOf p.chain.cmask j
      let flag := fun (b : Bool) (w : BitVec 64) => b || ((List.range 64).filter (fun k => live (k / 8) (k % 8))).any (bit w)
      let flags := b2n (flag r.sat tile.sat) * flSat + b2n (flag r.nf tile.nonfin) * flNonfinite + b2n tile.longSum * flLongSum
      ∃ u t', exec (.drain v n []) s = .next u ∧ calm u ∧ taskOf u v l = some t' ∧ (t'.run n).drained = (t.run n).drained + 1 ∧
        t'.cores = t.cores ∧ (∀ e ∈ (getCore u c).toDrain, e ∈ rest) ∧ (getCore u c).inArray = x.inArray ∧
        (iOutFmt m ≠ 5 → t'.flags = flOr t.flags flags ∧ u.sram = r.s.sram ∧ u.handoffs = r.s.handoffs) ∧
        (iOutFmt m = 5 → (openGroup s c l).length < 7 → u.sram = r.s.sram ∧ u.handoffs = s.handoffs) ∧
        (iOutFmt m = 5 → r.ecc = false → (openGroup s c l).length < 7 → (taskOf r.s v l).any (·.ending.isNone) = true →
          (getCore u c).group = some ⟨l, openGroup s c l ++ [r.rows]⟩) ∧
        (iOutFmt m = 5 →
          let w := groupDrain (drainFlags r.s v n l p.tile flags false) v n l c m p (openGroup s c l) r.rows
          u.sram = w.sram ∧ u.handoffs = w.handoffs) ∧
        (iBiasSrc m = 0 → iDeriv m = 0 → iDropEn m = false → ∀ i j, i < 8 → j < 8 → live i j = true →
          (r.rows.getD i []).getD j f32Zero =
            (drainValue m (scaleC m).1 ⟨0, []⟩ ⟨tget f32Zero tile.acc (8 * i + j), f32Zero, f32Zero, false⟩).val)) ∧
    (∀ o, handWaits s v n = some l → opFind s t.queue t.seq = some o → cLslot o.cmd = l → v ∈ cValleys o.cmd →
      ∃ u t', exec (.handoffTimeout v n) s = .next u ∧ calm u ∧ taskOf u v l = some t' ∧
        t' = { t with ending := some { status := stFault, faultKind := 3 }, runs := t'.runs } ∧
        u.handoffs = s.handoffs.filter (fun u => !(coreStuck s v n).contains u) ∧
        (∀ w ∈ coreStuck s v n, present s (pgEng ⟨.ebb, w.stack⟩) = true → rb u (pgEng ⟨.ebb, w.stack⟩ + 0x14) 11 = true) ∧
        (present s (pgEng ⟨.ebb, iEbbStack m⟩) = true → rb u (pgEng ⟨.ebb, iEbbStack m⟩ + 0x14) 11 = true)) ∧
    (∀ q seq o, opFind s q seq = some o → o.opcode = opStart → o.phase = .running → (q, seq) ∉ s.starts → cLslot o.cmd = l →
      v ∈ cValleys o.cmd →
      (∀ w ∈ cValleys o.cmd, stateOf s (pgSteward (w / 100)) ≠ 1 ∧ valleyStill s w = false ∧ taskDone s w l = true ∧
        iPbCount ((getV s w).slot l).words = 0 ∧ iGuardEn ((getV s w).slot l).words = false ∧ ((getV s w).slot l).spoil = false ∧
        ∃ t, taskOf s w l = some t ∧ t.queue = q ∧ t.seq = seq ∧ t.ending = none) →
      ∃ u r, exec (.taskComplete q seq) s = .next u ∧ Safe.contents s u ∧ Safe.ended u q seq r ∧ r = { flags := r.flags } ∧
        (∀ b, bitOf r.flags b = true ↔ ∃ w ∈ cValleys o.cmd, ∃ t, taskOf s w l = some t ∧ bitOf t.flags b = true) ∧
        (opKept u q seq = false →
          ∀ w ∈ cValleys o.cmd, (getV u w).slot l = { (getV s w).slot l with st := .loaded, armNo := 0, task := none }) ∧
        ∀ w, w ∉ cValleys o.cmd → getV u w = getV s w)

/-! ### The plain -/

/-- R134, R135, R138, R139, R146, R150, R203: a Flood packet of an old epoch is dropped. A plain write to a word without error stores its bytes; a read is answered at once where the merge
window is 0, and otherwise held until it expires, when every request for the word is answered by one read. A packet to a core that is
out of service is refused and counted; that one which does not lie in the core's SRAM is so refused whole is the model's choice (log 84). A
scrub step corrects a correctable word and marks an uncorrectable one poisoned. A channel that replays more than 16 times in a
microsecond is out of use, and more than 8 channels out of use fault the pass end: which microsecond is judged, and that spares which failed count, is
the model's choice (log 86). -/
def Obligations.PlainAccessesScrubsAndChannels : Prop :=
  ∀ (s : State) (p : PlainPkt) (c b chan die edge : Nat) (upset : List Byte), up s = true → die < 12 → edge < 4 → b < 8 →
    let v := p.valley
    let n := p.core
    let w := p.addr / 32
    let k := sramWord c w
    let clean := tget false s.sramPoison k = false ∧ tget [] s.sramUpset k = []
    let window := rf s (pgValley v + 0xD00) 11 8
    let bytes := memGet s.sram (32 * k) 32
    let fresh := ∀ f, p.flood = some f → staleEpoch s v f = false
    let held := (getV s v).reads
    (∀ f, p.flood = some f → staleEpoch s v f = true → exec (.plainPacket p) s = .next s) ∧
    (valleyRefuses s v = false → plainFits p = true → logical s v n = some c → fresh →
      (∀ d, p.data = some d → p.upset = [] → p.addr % 32 + d.length ≤ 32 → d ≠ [] → clean ∨ d.length = 32 →
        ∃ t, exec (.plainPacket p) s = .next t ∧
          t = { s with sram := t.sram, sramUpset := t.sramUpset, sramPoison := t.sramPoison, regs := t.regs, bankAt := t.bankAt } ∧
          memGet t.sram (32 * k + p.addr % 32) d.length = d ∧ tget false t.sramPoison k = p.poison ∧ tget [] t.sramUpset k = [] ∧
          tget 0 t.bankAt k = 0 ∧ (∀ j, j ≠ k → tget 0 t.bankAt j = tget 0 s.bankAt j) ∧
          (∀ a, a < 32 * k + p.addr % 32 ∨ 32 * k + p.addr % 32 + d.length ≤ a → tget 0 t.sram a = tget 0 s.sram a) ∧
          ∀ j, j ≠ k → tget false t.sramPoison j = tget false s.sramPoison j) ∧
      (p.data = none → window ≠ 0 →
        exec (.plainPacket p) s = .next (setV s v { getV s v with
          reads := held ++ plainReads p (held.foldl (fun a r => max a (r.pkt + 1)) 0) })) ∧
      (p.data = none → p.words = 1 → p.upset = [] → window = 0 → held = [] → clean →
        ∃ t, exec (.plainPacket p) s = .next t ∧ t.out = s.out ++ [.plain [⟨p.src, bytes, false⟩]] ∧ (getV t v).reads = [] ∧
          Safe.contents s t ∧ t.cores = s.cores) ∧
      ((∃ r ∈ held, r.core = n ∧ r.addr / 32 = w) →
        (∀ r ∈ held, r.core = n → r.addr / 32 = w → r.upset = []) → clean →
        let mine := held.filter (fun r => decide (r.core = n) && decide (r.addr / 32 = w))
        ∃ t, exec (.mergeWindowExpiry v n (bankOf w) (wordOf w)) s = .next t ∧
          t.out = s.out ++ [.plain (mine.map (fun r => ⟨r.src, bytes, false⟩))] ∧
          (getV t v).reads = held.filter (fun r => !(decide (r.core = n) && decide (r.addr / 32 = w))) ∧
          rd t (pgValley v + 0xD10) = (rd s (pgValley v + 0xD10) + (mine.length - 1)) % 2 ^ 32 ∧
          Safe.contents s t ∧ t.cores = s.cores)) ∧
    (valleyRefuses s v = true ∨ logical s v n = none ∨ plainFits p = false → fresh →
      ∃ t, exec (.plainPacket p) s = .next t ∧ Safe.contents s t ∧ t.valleys = s.valleys ∧ rb t (pgValley v + 0x14) 10 = true ∧
        rf t (pgValley v + 0xD14) 31 16 = satAdd 16 (rf s (pgValley v + 0xD14) 31 16) 1 ∧
        (p.data = none → t.out.getLast? = some (.plain ((List.range p.words).map (fun _ => ⟨p.src, List.replicate 32 0, true⟩))))) ∧
    (∀ r, valleyRefuses s v = true ∨ logical s v n = none → held.filter (fun r => decide (r.core = n) && decide (r.addr / 32 = w)) = [r] →
      let pkt := held.filter (fun x => decide (x.pkt = r.pkt))
      ∃ t x, exec (.mergeWindowExpiry v n (bankOf w) (wordOf w)) s = .next t ∧ Safe.contents s t ∧ x ∈ pkt ∧
        (getV t v).reads = held.filter (fun x => decide (x.pkt ≠ r.pkt)) ∧
        rf t (pgValley v + 0xD14) 31 16 = satAdd 16 (rf s (pgValley v + 0xD14) 31 16) 1 ∧
        t.out.getLast? = some (.plain (List.replicate pkt.length ⟨x.src, List.replicate 32 0, true⟩))) ∧
    (logical s v n = some c → clocked s (pgValley v) = true → rb s (pgValley v + 0xD00) 0 = true →
      let z := sramWord c (scrubCount (getV s v) n b % 640 * 8 + b)
      let e := xorBytes (slice upset 0 35) (tget [] s.sramUpset z)
      let seen := xorBytes (memGet s.sram (32 * z) 32) e
      e.all (· = 0) = false →
      (eccDecode 3 e = .bad →
        ∃ t, exec (.scrubStep v n b upset) s = .next t ∧ t.hbm = s.hbm ∧ t.host = s.host ∧ t.sram = s.sram ∧ t.tms = s.tms ∧
          tget false t.sramPoison z = true ∧ (∀ j, j ≠ z → tget false t.sramPoison j = tget false s.sramPoison j) ∧
          rb t (pgValley v + 0x14) 1 = true ∧ scrubCount (getV t v) n b = scrubCount (getV s v) n b + 1) ∧
      (∀ pos val, eccDecode 3 e = .fixed pos val → tget false s.sramPoison z = false →
        ∃ t, exec (.scrubStep v n b upset) s = .next t ∧ t.hbm = s.hbm ∧ t.host = s.host ∧ t.sramPoison = s.sramPoison ∧
          memGet t.sram (32 * z) 32 = (if pos < 32 then listSet seen pos (seen.getD pos 0 ^^^ BitVec.ofNat 8 val) else seen) ∧
          tget [] t.sramUpset z = [] ∧ (∀ a, a / 32 ≠ z → tget 0 t.sram a = tget 0 s.sram a) ∧ rb t (pgValley v + 0x14) 0 = true ∧
          scrubCount (getV t v) n b = scrubCount (getV s v) n b + 1)) ∧
    (∀ pg, pg = pgPass die edge → present s pg = true → stateOf s pg ≠ 1 → stateOf s pg ≠ 2 → stateOf s pg ≠ 7 →
      let inst := die * 4 + edge
      let y := tget {} s.chans (inst * 256 + chan)
      let recent := (localTime s pg :: y.times).filter (fun t => decide (localTime s pg - t < 1000))
      let z := fun (t : State) => tget {} t.chans (inst * 256 + chan)
      let over' := decide (16 < recent.length)
      ∃ t, exec (.channelReplay die edge chan) s = .next t ∧ rd t (pg + 0x98) = (rd s (pg + 0x98) + 1) % 2 ^ 32 ∧
        (z t).times = recent.take 17 ∧ (z t).failed = (y.failed || over') ∧ (z t).lost = y.lost + b2n (y.spare && over') ∧
        (∀ j, j ≠ inst * 256 + chan → tget {} t.chans j = tget {} s.chans j) ∧ Safe.contents s t ∧
        (over' = true → rb t (pg + 0x14) 9 = true) ∧ (over' = false → stateOf t pg = stateOf s pg) ∧
        (over' = true → y.failed = false ∨ y.spare = true → rb t (pg + 0x14) 8 = true ∧
          (stateOf s pg ≠ 8 → 8 < chanCount t inst (·.failed) + sparesLost t inst → stateOf t pg = 7)))

/-! ### HBM and the Berm units -/

/-- R209, R236, R238, R240 to R242: an access reads a unit without error, or writes all or part of it, and is charged to its job; a unit
with an uncorrectable error is delivered poisoned, with UNCORR and POISON_READ set. That a partial write is charged two slots, and one not
stored for want of a good unit one, is the model's choice (logs 22, 36). The patrol marks such a unit poisoned and goes on
to the next unit, counting a sweep at the last. A line buffer's bytes reach memory and its SMALL completes OK. -/
def Obligations.HbmIsReadWrittenAndPatrolled : Prop :=
  ∀ (s : State) (h unit off q n line : Nat) (who : HbmReq) (d upset : List Byte) (corr : Nat) (o : Op)
    (b : LineBuf), h < 8 → up s = true → s.hostWait = false →
    let pg := pgHbm h
    let next := tget 0 s.patrols h
    let k := h * 2 ^ 30 + unit
    let e := xorBytes (slice upset 0 68) (tget [] s.hbmUpset k)
    let clean := tget false s.hbmPoison k = false ∧ e.all (· = 0) = true
    let bad := tget false s.hbmPoison k = true ∨ (e.all (· = 0) = false ∧ eccDecode 4 e = .bad)
    let charged := fun (t : State) (n : Nat) => rd t (pg + 0x98) = (rd s (pg + 0x98) + corr) % 2 ^ 32 ∧ ∀ j, j < 64 → who = .job j →
      rd64 t (pgReg h + 0x200 + 8 * j) = (rd64 s (pgReg h + 0x200 + 8 * j) + n) % 2 ^ 64 ∧
      rd64 t (pgReg h + 0x400 + 8 * j) = (rd64 s (pgReg h + 0x400 + 8 * j) + 64 * n) % 2 ^ 64
    let others := fun (t : State) (a n : Nat) => ∀ i, i < a ∨ a + n ≤ i → tget 0 t.hbm i = tget 0 s.hbm i
    (present s pg = true → held s pg = false → stateOf s pg ≠ 1 → stateOf s pg ≠ 2 → 64 * unit < stackBytes →
      (clean → ∃ t, exec (.hbmAccess h unit who none ⟨upset, corr⟩) s = .next t ∧ charged t 1 ∧ Safe.contents s t ∧
        t.hbmPoison = s.hbmPoison ∧ t.out = s.out ++ [.hbm (memGet s.hbm (64 * k) 64) false]) ∧
      (bad → ∃ t bytes, exec (.hbmAccess h unit who none ⟨upset, corr⟩) s = .next t ∧ charged t 1 ∧ Safe.contents s t ∧
        t.hbmPoison = s.hbmPoison ∧ t.out.getLast? = some (.hbm bytes true) ∧ rb t (pg + 0x14) 1 = true ∧ rb t (pg + 0x14) 8 = true) ∧
      (off + d.length ≤ 64 → d ≠ [] → d.length = 64 ∨ clean →
        ∃ t, exec (.hbmAccess h unit who (some (off, d)) ⟨upset, corr⟩) s = .next t ∧ charged t (if d.length = 64 then 1 else 2) ∧
          memGet t.hbm (64 * k + off) d.length = d ∧
          others t (64 * k + off) d.length ∧ tget false t.hbmPoison k = false ∧ t.sram = s.sram ∧ t.host = s.host ∧ t.tms = s.tms) ∧
      (off + d.length ≤ 64 → d ≠ [] → d.length ≠ 64 → bad →
        ∃ t, exec (.hbmAccess h unit who (some (off, d)) ⟨upset, corr⟩) s = .next t ∧ charged t 1 ∧ Safe.contents s t ∧ t.hbmPoison = s.hbmPoison)) ∧
    (clocked s pg = true → rb s (pg + 0x84) 0 = true → unit = next → 64 * unit < stackBytes → clean ∨ bad →
      ∃ t, exec (.patrolStep h upset) s = .next t ∧ Safe.contents s t ∧
        tget 0 t.patrols h = (if next + 1 < stackUnits then next + 1 else 0) ∧
        rf t (pg + 0x9C) 31 16 = (rf s (pg + 0x9C) 31 16 + (if next + 1 < stackUnits then 0 else 1)) % 2 ^ 16 ∧
        (∀ i, tget false t.hbmPoison i = (tget false s.hbmPoison i || (decide (i = k) && !decide clean)))) ∧
    (s.lines[line]? = some b → b.smalls = [(q, n)] → opFind s q n = some o → o.phase = .running → (b.bytes.map (·.1)).Nodup →
      (∀ x ∈ b.bytes, x.1 < 64) →
      let done := fun (t : State) => Safe.ended t q n {} ∧ t.lines = s.lines.filter (fun x => decide (x ≠ b)) ∧ t.tms = s.tms ∧
        rd64 t (pgNar + 0x90) = (rd64 s (pgNar + 0x90) + 1) % 2 ^ 64
      (b.host = true → s.hl.busMaster.contains (hostFn s (.narrows o.job)) = true →
        ∃ t, exec (.lineBufferWrite line) s = .next t ∧ done t ∧ t.hbm = s.hbm ∧
          (∀ x ∈ b.bytes, tget 0 t.host (64 * b.line + x.1) = x.2) ∧
          ∀ a, (∀ x ∈ b.bytes, a ≠ 64 * b.line + x.1) → tget 0 t.host a = tget 0 s.host a) ∧
      (b.host = false → stateOf s (pgHbm (b.line / 2 ^ 30)) ≠ 1 → stateOf s (pgHbm (b.line / 2 ^ 30)) ≠ 2 →
        tget false s.hbmPoison b.line = false → tget [] s.hbmUpset b.line = [] →
        ∃ t, exec (.lineBufferWrite line) s = .next t ∧ done t ∧ t.host = s.host ∧
          (∀ x ∈ b.bytes, tget 0 t.hbm (64 * b.line + x.1) = x.2) ∧
          ∀ a, (∀ x ∈ b.bytes, a ≠ 64 * b.line + x.1) → tget 0 t.hbm a = tget 0 s.hbm a))

/-- R244, R245, R247, R248, R250: an operation of the header unit on a header without error. A version check answers whether the version is
present and, where it retains, raises IN_USE; a release lowers it; a claim that succeeds sets BUSY under the controller's epoch; a commit
stamps the block with its step, turns SEL over, clears BUSY and stores the handle. Every other field and every other unit of
memory is as before, and a header outside the stack is not touched (the model's choice, log 88). That an operation is charged two slots and 128
bytes is the model's choice (log 22). -/
def Obligations.HeaderOperationsAct : Prop :=
  ∀ (s : State) (h addr job : Nat) (op : HdrOp), h < 8 → up s = true → s.hostWait = false → present s (pgHbm h) = true →
    let w := leNat (memGet s.hbm addr 8)
    let word := fun (t : State) => leNat (memGet t.hbm addr 8)
    let busy := hBusy s h w
    let commits := match op with | .commit _ _ => true | _ => false
    let answers := fun (t : State) (ok : Bool) => exec (.headerOp h addr ⟨job, op⟩) s = .next t ∧ t.out.getLast? = some (.hdr w ok) ∧
      (job < 64 → rd64 t (pgReg h + 0x200 + 8 * job) = (rd64 s (pgReg h + 0x200 + 8 * job) + 2) % 2 ^ 64 ∧
        rd64 t (pgReg h + 0x400 + 8 * job) = (rd64 s (pgReg h + 0x400 + 8 * job) + 128) % 2 ^ 64) ∧
      (∀ a, a / 64 ≠ addr / 64 → tget 0 t.hbm a = tget 0 s.hbm a) ∧ t.host = s.host ∧ t.sram = s.sram ∧ t.tms = s.tms ∧
      hStash (word t) = hStash w ∧ (commits = false → memGet t.hbm (addr + 8) 8 = memGet s.hbm (addr + 8) 8 ∧
        hStamp (word t) = hStamp w ∧ hVer (word t) = hVer w ∧ hOld (word t) = hOld w ∧ hSel (word t) = hSel w)
    (addr / 2 ^ 36 ≠ h → exec (.headerOp h addr ⟨job, op⟩) s = .next { s with out := s.out ++ [.hdr 0 false] }) ∧
    (addr / 2 ^ 36 = h → isHbm s.grade addr = true → addr % 64 = 0 → stateOf s (pgHbm h) ≠ 1 → stateOf s (pgHbm h) ≠ 2 → tget false s.hbmPoison (addr / 64) = false →
      tget [] s.hbmUpset (addr / 64) = [] →
      (∀ step retain, op = .check step retain → ∃ t, answers t (hPresent busy step w) ∧ bitsOf (word t) 63 52 = bitsOf w 63 52 ∧
        hInUse (word t) = (if retain && hPresent busy step w && decide (hInUse w < 0xFFFF) then hInUse w + 1 else hInUse w)) ∧
      (∀ step dec, op = .release step dec → ∃ t, answers t (hPresent busy step w) ∧ bitsOf (word t) 63 52 = bitsOf w 63 52 ∧
        hInUse (word t) = (if dec then hInUse w - 1 else hInUse w) ∧
        (dec = true → hInUse w = 0 → rb t (pgHbm h + 0x14) 9 = true)) ∧
      (∀ step, op = .claim step → ∃ t, answers t (decide (hClaim busy step w = .claimed)) ∧ hInUse (word t) = hInUse w ∧
        (if hClaim busy step w = .claimed then bitOf (word t) 52 = true ∧ bitsOf (word t) 63 56 = hbmEpoch s h
         else word t = w)) ∧
      (∀ step handle, op = .commit step handle → ∃ t, answers t true ∧ hStamp (word t) = step % 2 ^ 32 ∧
        hVer (word t) = (if hStash w then 1 - hVer w else hVer w) ∧ hOld (word t) = hStash w ∧ hSel (word t) = 1 - hSel w ∧
        bitOf (word t) 52 = false ∧ hInUse (word t) = hInUse w ∧ leNat (memGet t.hbm (addr + 8) 8) = handle.toNat))

/-- R249, R250, R251 to R255: in a Berm unit with one UPDATE in progress whose last block is still to come, a claim of the next block
claims it, skips it, finds a mismatch or leaves it waiting, and counts its turn (how turns are counted is the model's choice, log 100); a
KIND 5 UPDATE adds the block's squares. A claimed block whose reads and
writes succeed is committed with its sums. The norm wait ends at its tidemark with a good factor, and fails with a bad one. A wait
that expires ends the UPDATE, or leaves its block as it is. -/
def Obligations.UpdateBlocksAreClaimedAndCommitted : Prop :=
  ∀ (s : State) (h blk w0 : Nat) (u : Upd), h < 8 → up s = true → s.hostWait = false → bermList s h = [u] → u.started = true →
    u.cancelled = false → u.parked = false → u.next < uCount u.cmd → opRunning s u.queue u.seq = true →
    let pg := pgBerm h
    let i := u.next
    let hd := handleOf u.queue u.seq
    let u1 := { u with turn := u.turn + 1 }
    let s1 := bermMod s h u.queue u.seq (fun _ => u1)
    let r := hdrAt s1 u.job hd (updBlock u i) (some h) (.claim (uStep u.cmd))
    let calm := fun (t : State) => t.sram = s.sram ∧ t.tms = s.tms ∧ t.ops = s.ops ∧ t.queues = s.queues
    (working s pg = true → u.normOk = true → u.waiting = [] → oKind u.opt ≠ 5 → r.2.kind = 0 → r.2.poison = false →
      r.1.hostWait = false →
      let gives := fun (x : Upd) => ∃ t, exec (.blockClaim h u.queue u.seq) s = .next t ∧ calm t ∧ t.hbm = r.1.hbm ∧ t.host = s.host ∧
        bermList t h = [x] ∧ (r.2.claim = .skip → rd64 t (pg + 0x98) = (rd64 s (pg + 0x98) + 1) % 2 ^ 64) ∧
        (r.2.claim = .mismatch → rb t (pg + 0x14) 8 = true)
      (r.2.claim = .claimed → gives { u1 with next := i + 1, claimed := u.claimed ++ [(i, r.2.word0)] }) ∧
      (r.2.claim = .busy ∨ r.2.claim = .defer → gives { u1 with next := i + 1, waiting := [i] }) ∧
      (i + 1 < uCount u.cmd → r.2.claim = .skip → gives { u1 with next := i + 1 }) ∧
      (i + 1 < uCount u.cmd → r.2.claim = .mismatch → gives ({ u1 with next := i + 1 }.addMismatch i r.2.word0))) ∧
    (working s pg = true → u.normOk = true → oKind u.opt = 5 → i + 1 < uCount u.cmd →
      let g := vread s1 (bermReq u) (gradAt u.opt i).1 (gradAt u.opt i).2
      g.fault = none → g.bad.any id = false → g.s.hostWait = false →
      ∃ t, exec (.blockClaim h u.queue u.seq) s = .next t ∧ calm t ∧ t.hbm = g.s.hbm ∧ t.host = s.host ∧
        bermList t h = [{ u1 with next := i + 1, sum64 := sumSquares u.opt u.sum64 (gradWords u.opt g.bytes) }]) ∧
    (clocked s pg = true → u.claimed.find? (fun e => e.1 = blk) = some (blk, w0) →
      let slot := if hStash w0 then 1 - hVer w0 else hVer w0
      let s' := bermMod s h u.queue u.seq (fun u => { u with touched := true })
      let g := readParts s' (bermReq u) ((List.range (optArrays u.opt)).map (fun k =>
        (updBlock u blk + arrayOff (hSel w0) k, 8192)) ++ [gradAt u.opt blk])
      let a := applyBlock u.opt u.clip blk slot g.bytes
      let w := writeParts g.s (bermReq u) ((List.range a.arrays.length).map (fun k =>
        (updBlock u blk + arrayOff (1 - hSel w0) k, arrayBytes (a.arrays.getD k []))) ++ a.copies)
      let c := hdrAt w.1 u.job hd (updBlock u blk) (some h) (.commit (uStep u.cmd) (BitVec.ofNat 64 hd))
      g.fault = none → g.bad.any id = false → w.2 = none → c.2.ok = true → c.1.hostWait = false →
      ∃ t, exec (.blockCommit h u.queue u.seq blk) s = .next t ∧ calm t ∧ t.hbm = c.1.hbm ∧ t.host = c.1.host ∧
        bermList t h = [{ u with touched := true }.addBlock blk a] ∧ rd64 t (pg + 0x90) = (rd64 s (pg + 0x90) + 1) % 2 ^ 64) ∧
    (working s pg = true → u.normOk = false → normReached s u = true →
      let g := vread s (bermReq u) (wf' u.opt 7 51 0) 4
      let c := BitVec.ofNat 32 (leNat g.bytes)
      g.failed = none → g.s.hostWait = false →
      (clipOk c = true → ∃ t, exec (.normWaitPass h u.queue u.seq) s = .next t ∧ calm t ∧ t.hbm = g.s.hbm ∧ t.host = s.host ∧
        bermList t h = [{ u with normOk := true, clip := c }]) ∧
      (clipOk c = false → ∃ t, exec (.normWaitPass h u.queue u.seq) s = .next t ∧ t.hbm = g.s.hbm ∧ t.host = s.host ∧ t.tms = s.tms ∧
        (opKept t u.queue u.seq = false → bermList t h = []) ∧ Safe.ended t u.queue u.seq { status := stFault, faultKind := 4 })) ∧
    (clocked s pg = true → u.normOk = false → normReached s u = false →
      ∃ t, exec (.bermWaitTimeout h u.queue u.seq none) s = .next t ∧ Safe.contents s t ∧ (opKept t u.queue u.seq = false → bermList t h = []) ∧
        rb t (pg + 0x14) 10 = true ∧
        Safe.ended t u.queue u.seq { status := stTimeout, detail := tmGet s (uNormTm u.cmd) }) ∧
    (clocked s pg = true → blk ∈ u.waiting →
      ∃ t, exec (.bermWaitTimeout h u.queue u.seq (some blk)) s = .next t ∧ calm t ∧ Safe.contents s t ∧ rb t (pg + 0x14) 10 = true ∧
        bermList t h = [{ u with waiting := u.waiting.filter (· ≠ blk) }.addTimeout blk])

/-! ### Numbers, and the machine as a whole -/

/-- R55, R61: PJ4i code c of the sixteen stands for c below 8 and for c − 16 from 8 on, and none of them is reserved. An element of a block
whose SCALE is 0x00 is zero in every Pajor format, whatever its code; a CLIP or ERR count from 65 to 127 is summed as 64, and the
module writes none: neither the header it quantises 64 values under nor the reserved codes it counts in 64 elements go beyond 64. -/
def Obligations.PajorElementsAndCounts : Prop :=
  (∀ c : Nat, (c < 8 → pj4iNum c = .fin false c 0) ∧ (8 ≤ c → c < 16 → pj4iNum c = .fin true (16 - c) 0)) ∧
  (∀ c : Nat, (pj4Elem 0 c).isZero = true ∧ (pj4iElem 0 c).isZero = true ∧ (pj2Elem 0 c).isZero = true) ∧
  (∀ h : Nat, hdrCount h = if bitsOf h 14 8 ≤ 64 then bitsOf h 14 8 else 64) ∧
  (∀ (xs : List Word32) (draws : List Nat), xs.length ≤ 64 → bitsOf (quantisePj4 xs draws).header 14 8 ≤ 64) ∧
  (∀ l : List Byte, pj2Reserved l ≤ 64)

/-- R50: a code of any format with every exponent bit set and a mantissa that is not 0, in E4M3 with every bit of both set, is a NaN
whatever its payload and sign; and a NaN rounded to any format, by nearest, saturating or stochastic rounding, or through FP32
arithmetic, is that format's one canonical code. -/
def Obligations.NansAreCanonical : Prop :=
  (∀ (f : FpFmt) (w : Nat), (w / 2 ^ f.mw) % 2 ^ f.ew = 2 ^ f.ew - 1 → (if f = .e4m3 then w % 8 = 7 else w % 2 ^ f.mw ≠ 0) →
    decodeNum f w = .nan) ∧
  (∀ (f : FpFmt) (d c : Nat),
    (f, c) ∈ [(FpFmt.fp32, 0x7FC00000), (.bf16, 0x7FC0), (.fp16, 0x7E00), (.e4m3, 0x7F), (.e5m2, 0x7E)] →
    roundNum f .nan = c ∧ (roundSat f .nan).1 = c ∧ roundStoch f d .nan = c ∧
    ∀ x : Machine.Num, x ≠ .nan → roundNum f x = c → False) ∧
  (∀ a b c : Word32, f32 a = .nan →
    fadd a b = 0x7FC00000 ∧ fadd b a = 0x7FC00000 ∧ fsub a b = 0x7FC00000 ∧ fsub b a = 0x7FC00000 ∧ fmul a b = 0x7FC00000 ∧
    fmul b a = 0x7FC00000 ∧ fdiv a b = 0x7FC00000 ∧ fdiv b a = 0x7FC00000 ∧ fsqrt a = 0x7FC00000 ∧ ffma a b c = 0x7FC00000 ∧
    ffma b a c = 0x7FC00000 ∧ ffma b c a = 0x7FC00000)

/-- A selection of what reset leaves: the reset values of the queue and ring contexts, of the generators and of the memories, and of those registers of
the chapters' tables, named below, whose reset value is not 0: the machine after reset. No job, work or command is there, and nothing has been booted. That every unlisted byte reads 0 is the model's choice
(log 3). -/
def Obligations.ResetLeavesTheSpecsValues : Prop :=
  let s := State.reset
  s.pending = [] ∧ s.hl.boot ≠ .up ∧ Safe.memories s = true ∧ (∀ n, tmGet s n = 0) ∧ s.ops = [] ∧ s.pends = [] ∧ s.lines = [] ∧
  (∀ q, (getQ s q).watchdog = 2000 ∧ (getQ s q).enable = false ∧ (getQ s q).stopped = false ∧ (getQ s q).skipMode = false) ∧
  (∀ r, (getRing s r).phase = true ∧ (getRing s r).enable = false ∧ (getRing s r).writeIdx = 0) ∧
  (∀ c, (getCore s c).rnd = 0x9E3779B97F4A7C15 ∧ (getCore s c).drp = 0xD1B54A32D192ED03) ∧
  (∀ v, v < 1200 → rf s (pgValley v + 0xD00) 11 8 = 4 ∧ rb s (pgValley v + 0xD00) 0 = true) ∧
  (∀ e : Eng, e.stack < 8 → rd s (pgEng e + 0x90) = 256) ∧ (∀ h, h < 8 → rd s (pgEng ⟨.ebb, h⟩ + 0xB0) = 10000) ∧
  (∀ h, h < 8 → rf s (pgHbm h + 0x84) 15 8 = 24 ∧ rb s (pgHbm h + 0x84) 0 = true ∧ rd s (pgBerm h + 0xA0) = 2000) ∧
  rf s (pgNar + 0x80) 11 8 = 1 ∧ rf s (pgNar + 0x80) 7 0 = 10 ∧ rf s (pgEst + 0x80) 30 28 = 3 ∧ rf s (pgEst + 0x80) 15 0 = 27746 ∧
  (∀ j, j < 64 → rf s (bk (pgEst + 0x90) j) 31 16 = 2000 ∧ rf s (bk (pgEst + 0x90) j) 15 0 = 500 ∧ rd s (jobCtl j) = 0) ∧
  rf s (pgTwy + 0x84) 15 0 = 1000 ∧ rf s (pgHeadland + 0xC08) 15 0 = 3600 ∧ rb s (pgHeadland + 0x88) 0 = true

/-- Every command is answered with a next state, in every state, and touches neither the commands that wait nor the grade (R2): no command
of the table ends in a fault or a refusal. That a command for an address outside the module, or with nothing to act
on, is answered so is the model's choice (log 15). -/
def Obligations.EveryCommandAnswersAndKeepsTheQueue : Prop :=
  ∀ (c : Instr) (s : State), ∃ t, exec c s = .next t ∧ t.pending = s.pending ∧ t.grade = s.grade

/-- Every step keeps the canonical form of HBM, host memory and core memory: from any state in which their addresses strictly rise and no
byte that reads 0 is listed, so that equal memories are equal data. -/
def Obligations.EveryStepKeepsMemoriesCanonical : Prop :=
  ∀ s t : State, Safe.memories s = true → step s = .next t → Safe.memories t = true
end

