-- ==== Sys2Proof/Laws/Tbl.lean ====
section
/-! SUPPORT. Laws of the sparse tables: a read after a store, and that every store keeps the canonical form. -/

namespace Sys2Proof.Machine

variable {β : Type}

@[simp] theorem tget_nil (d : β) (k : Nat) : tget d [] k = d := rfl

theorem tget_tins_same (d : β) (k : Nat) (v : β) (m : Tbl β) : tget d (tins k v m) k = v := by
  induction m with
  | nil => simp [tins, tget]
  | cons e r ih =>
    obtain ⟨a, b⟩ := e
    simp only [tins]
    split
    · simp [tget]
    · split
      · simp [tget]
      · rename_i h1 h2; simp [tget, h2, ih]

theorem tget_tins_ne (d : β) (k j : Nat) (v : β) (m : Tbl β) (h : j ≠ k) : tget d (tins k v m) j = tget d m j := by
  induction m with
  | nil => simp [tins, tget, h]
  | cons e r ih =>
    obtain ⟨a, b⟩ := e
    simp only [tins]
    split
    · simp [tget, h]
    · split
      · rename_i h1 h2; subst h2; simp [tget, h]
      · simp [tget, ih]

theorem tget_tdel_same (d : β) (k : Nat) (m : Tbl β) : tget d (tdel k m) k = d := by
  induction m with
  | nil => rfl
  | cons e r ih =>
    obtain ⟨a, b⟩ := e
    by_cases h : a = k
    · simpa [tdel, h] using ih
    · have h' : k ≠ a := fun e => h e.symm
      simpa [tdel, h, tget, h'] using ih

theorem tget_tdel_ne (d : β) (k j : Nat) (m : Tbl β) (h : j ≠ k) : tget d (tdel k m) j = tget d m j := by
  induction m with
  | nil => rfl
  | cons e r ih =>
    obtain ⟨a, b⟩ := e
    by_cases ha : a = k
    · subst ha; simpa [tdel, tget, h] using ih
    · by_cases hj : j = a
      · simp [tdel, ha, tget, hj]
      · simpa [tdel, ha, tget, hj] using ih

/-- A read after a store at the same key. -/
@[simp] theorem tget_tput_same [DecidableEq β] (d : β) (m : Tbl β) (k : Nat) (v : β) : tget d (tput d m k v) k = v := by
  unfold tput
  split
  · rename_i h; rw [h]; exact tget_tdel_same d k m
  · exact tget_tins_same d k v m

/-- A read after a store at another key. -/
theorem tget_tput_ne [DecidableEq β] (d : β) (m : Tbl β) (k j : Nat) (v : β) (h : j ≠ k) :
    tget d (tput d m k v) j = tget d m j := by
  unfold tput
  split
  · exact tget_tdel_ne d k j m h
  · exact tget_tins_ne d k j v m h

/-- Both cases of a read after a store. -/
theorem tget_tput [DecidableEq β] (d : β) (m : Tbl β) (k j : Nat) (v : β) :
    tget d (tput d m k v) j = if j = k then v else tget d m j := by
  split
  · rename_i h; rw [h]; exact tget_tput_same d m k v
  · rename_i h; exact tget_tput_ne d m k j v h

/-! ### The canonical form -/

/-- Keys strictly rise from above `lo` on, and no entry equals what its key reads as unlisted: the form of `twf`, by its head. -/
def tfrom [DecidableEq β] (d : Nat → β) (lo : Option Nat) : Tbl β → Prop
  | [] => True
  | (a, b) :: r => b ≠ d a ∧ (∀ l, lo = some l → l < a) ∧ tfrom d (some a) r

theorem twf_iff [DecidableEq β] (d : Nat → β) (m : Tbl β) : twf d m = true ↔ tfrom d none m := by
  have key : ∀ (m : Tbl β) (a : Nat) (b : β), twf d ((a, b) :: m) = true ↔ b ≠ d a ∧ tfrom d (some a) m := by
    intro m
    induction m with
    | nil => intro a b; simp [twf, tfrom]
    | cons e r ih =>
      intro a b
      obtain ⟨c, f⟩ := e
      simp only [twf, Bool.and_eq_true, decide_eq_true_eq, tfrom]
      rw [ih c f]
      constructor
      · rintro ⟨⟨h1, h2⟩, h3, h4⟩; exact ⟨h1, h3, fun l hl => by cases hl; exact h2, h4⟩
      · rintro ⟨h1, h3, h2, h4⟩; exact ⟨⟨h1, h2 a rfl⟩, h3, h4⟩
  cases m with
  | nil => simp [twf, tfrom]
  | cons e r => obtain ⟨a, b⟩ := e; rw [key]; simp [tfrom]

theorem tfrom_weaken [DecidableEq β] (d : Nat → β) (lo lo' : Option Nat) (m : Tbl β) (h : tfrom d lo m)
    (hl : ∀ a, (∀ l, lo = some l → l < a) → ∀ l, lo' = some l → l < a) : tfrom d lo' m := by
  cases m with
  | nil => trivial
  | cons e r => obtain ⟨a, b⟩ := e; exact ⟨h.1, hl a h.2.1, h.2.2⟩

theorem tfrom_tins [DecidableEq β] (d : Nat → β) (k : Nat) (v : β) (hv : v ≠ d k) (m : Tbl β) :
    ∀ lo, (∀ l, lo = some l → l < k) → tfrom d lo m → tfrom d lo (tins k v m) := by
  induction m with
  | nil => intro lo hl _; exact ⟨hv, hl, trivial⟩
  | cons e r ih =>
    intro lo hl h
    obtain ⟨a, b⟩ := e
    simp only [tins]
    split
    · rename_i hk
      exact ⟨hv, hl, h.1, fun l e => by cases e; exact hk, h.2.2⟩
    · split
      · rename_i hk; subst hk; exact ⟨hv, hl, h.2.2⟩
      · rename_i h1 h2
        exact ⟨h.1, h.2.1, ih (some a) (fun l e => by cases e; omega) h.2.2⟩

theorem tfrom_filter [DecidableEq β] (d : Nat → β) (p : Nat × β → Bool) (m : Tbl β) :
    ∀ lo, tfrom d lo m → tfrom d lo (m.filter p) := by
  induction m with
  | nil => intro _ h; exact h
  | cons e r ih =>
    intro lo h
    obtain ⟨a, b⟩ := e
    rw [List.filter_cons]
    split
    · exact ⟨h.1, h.2.1, ih _ h.2.2⟩
    · refine tfrom_weaken d (some a) lo _ (ih _ h.2.2) (fun c hc l hl => ?_)
      exact Nat.lt_trans (h.2.1 l hl) (hc a rfl)

/-- A store keeps the canonical form. -/
theorem twf_tput [DecidableEq β] (d : β) (m : Tbl β) (k : Nat) (v : β) (h : twf (fun _ => d) m = true) :
    twf (fun _ => d) (tput d m k v) = true := by
  rw [twf_iff] at *
  unfold tput
  split
  · exact tfrom_filter _ _ _ _ h
  · rename_i hv; exact tfrom_tins _ k v hv m none (by simp) h

/-- A filter keeps the canonical form. -/
theorem twf_filter [DecidableEq β] (d : Nat → β) (p : Nat × β → Bool) (m : Tbl β) (h : twf d m = true) :
    twf d (m.filter p) = true := by
  rw [twf_iff] at *
  exact tfrom_filter d p m none h

end Sys2Proof.Machine
end

