-- ==== Sys2Proof/Laws/Regs.lean ====
section
/-! SUPPORT. Laws of fields of words and of the register file: what a read gives after a store. -/

namespace Sys2Proof.Machine

theorem bitOf_eq_testBit (w i : Nat) : bitOf w i = w.testBit i := by
  unfold bitOf
  rw [Nat.testBit_eq_decide_div_mod_eq, Nat.shiftRight_eq_div_pow]
  rfl

theorem bitsOf_testBit (w hi lo i : Nat) : (bitsOf w hi lo).testBit i = (decide (i < hi + 1 - lo) && w.testBit (lo + i)) := by
  unfold bitsOf
  rw [Nat.testBit_mod_two_pow, Nat.testBit_shiftRight]

/-- A word cut into the bits above a field, the field, and the bits below. -/
theorem word_split (w hi lo : Nat) (h : lo ≤ hi) :
    w = 2 ^ lo * (2 ^ (hi + 1 - lo) * (w >>> (hi + 1)) + bitsOf w hi lo) + w % 2 ^ lo := by
  have e : w >>> (hi + 1) = w >>> lo / 2 ^ (hi + 1 - lo) := by
    rw [Nat.shiftRight_eq_div_pow, Nat.shiftRight_eq_div_pow, Nat.div_div_eq_div_mul, ← Nat.pow_add]
    congr 2; omega
  rw [e, bitsOf, Nat.div_add_mod, Nat.shiftRight_eq_div_pow, Nat.div_add_mod]

theorem setFld_toNat {n : Nat} (w : BitVec n) (hi lo v : Nat) (h : lo ≤ hi) (hn : hi < n) :
    (setFld w hi lo v).toNat =
      2 ^ lo * (2 ^ (hi + 1 - lo) * (w.toNat >>> (hi + 1)) + v % 2 ^ (hi + 1 - lo)) + w.toNat % 2 ^ lo := by
  have hs := word_split w.toNat hi lo h
  have hw := w.isLt
  have hv := Nat.mod_lt v (Nat.two_pow_pos (hi + 1 - lo))
  have hp : 2 ^ n = 2 ^ lo * (2 ^ (hi + 1 - lo) * 2 ^ (n - (hi + 1))) := by
    rw [← Nat.pow_add, ← Nat.pow_add]; congr 1; omega
  have hlo := Nat.mod_lt w.toNat (Nat.two_pow_pos lo)
  have ha : w.toNat >>> (hi + 1) < 2 ^ (n - (hi + 1)) := by
    rw [Nat.shiftRight_eq_div_pow]
    apply Nat.div_lt_of_lt_mul
    rw [← Nat.pow_add]
    have : hi + 1 + (n - (hi + 1)) = n := by omega
    rwa [this]
  have hc : 2 ^ (hi + 1 - lo) * (w.toNat >>> (hi + 1)) + v % 2 ^ (hi + 1 - lo) < 2 ^ (hi + 1 - lo) * 2 ^ (n - (hi + 1)) :=
    calc _ < 2 ^ (hi + 1 - lo) * (w.toNat >>> (hi + 1)) + 2 ^ (hi + 1 - lo) := by omega
      _ = 2 ^ (hi + 1 - lo) * (w.toNat >>> (hi + 1) + 1) := by rw [Nat.mul_succ]
      _ ≤ _ := Nat.mul_le_mul_left _ ha
  have hlt : 2 ^ lo * (2 ^ (hi + 1 - lo) * (w.toNat >>> (hi + 1)) + v % 2 ^ (hi + 1 - lo)) + w.toNat % 2 ^ lo < 2 ^ n := by
    rw [hp]
    calc _ < 2 ^ lo * (2 ^ (hi + 1 - lo) * (w.toNat >>> (hi + 1)) + v % 2 ^ (hi + 1 - lo)) + 2 ^ lo := by omega
      _ = 2 ^ lo * (2 ^ (hi + 1 - lo) * (w.toNat >>> (hi + 1)) + v % 2 ^ (hi + 1 - lo) + 1) := by rw [Nat.mul_succ]
      _ ≤ _ := Nat.mul_le_mul_left _ hc
  unfold setFld fld
  rw [BitVec.toNat_ofNat, Nat.shiftLeft_eq, Nat.shiftLeft_eq]
  have key : w.toNat - bitsOf w.toNat hi lo * 2 ^ lo + v % 2 ^ (hi + 1 - lo) * 2 ^ lo =
      2 ^ lo * (2 ^ (hi + 1 - lo) * (w.toNat >>> (hi + 1)) + v % 2 ^ (hi + 1 - lo)) + w.toNat % 2 ^ lo := by
    have e1 : w.toNat - bitsOf w.toNat hi lo * 2 ^ lo = 2 ^ lo * (2 ^ (hi + 1 - lo) * (w.toNat >>> (hi + 1))) + w.toNat % 2 ^ lo := by
      rw [Nat.mul_add, Nat.mul_comm (2 ^ lo) (bitsOf w.toNat hi lo)] at hs
      omega
    rw [e1, Nat.mul_add, Nat.mul_comm (2 ^ lo) (v % 2 ^ (hi + 1 - lo))]
    omega
  rw [key, Nat.mod_eq_of_lt hlt]

/-- A bit of a word after a field of it is set. -/
theorem bitOf_setFld {n : Nat} (w : BitVec n) (hi lo v i : Nat) (h : lo ≤ hi) (hn : hi < n) :
    bitOf (setFld w hi lo v).toNat i = if lo ≤ i ∧ i ≤ hi then bitOf v (i - lo) else bitOf w.toNat i := by
  simp only [bitOf_eq_testBit]
  rw [setFld_toNat w hi lo v h hn, Nat.testBit_two_pow_mul_add _ (Nat.mod_lt _ (Nat.two_pow_pos lo))]
  split
  · rename_i hi'
    rw [Nat.testBit_mod_two_pow]
    have : ¬ (lo ≤ i ∧ i ≤ hi) := by omega
    simp [hi', this]
  · rw [Nat.testBit_two_pow_mul_add _ (Nat.mod_lt _ (Nat.two_pow_pos _))]
    split
    · rename_i h1 h2
      have : lo ≤ i ∧ i ≤ hi := by omega
      simp [this, Nat.testBit_mod_two_pow, h2]
    · rename_i h1 h2
      have : ¬ (lo ≤ i ∧ i ≤ hi) := by omega
      simp only [this, if_false, Nat.testBit_shiftRight]
      congr 1; omega

/-- The field of a word after it is set. -/
theorem bitsOf_setFld {n : Nat} (w : BitVec n) (hi lo v : Nat) (h : lo ≤ hi) (hn : hi < n) :
    bitsOf (setFld w hi lo v).toNat hi lo = v % 2 ^ (hi + 1 - lo) := by
  apply Nat.eq_of_testBit_eq
  intro i
  rw [bitsOf_testBit, ← bitOf_eq_testBit, bitOf_setFld w hi lo v _ h hn, Nat.testBit_mod_two_pow]
  by_cases hi' : i < hi + 1 - lo
  · have : lo ≤ lo + i ∧ lo + i ≤ hi := by omega
    simp only [this, and_self, if_true, hi', decide_true, Bool.true_and, bitOf_eq_testBit]
    congr 1; omega
  · simp [hi']

/-- Another field of a word after a field is set. -/
theorem bitsOf_setFld_ne {n : Nat} (w : BitVec n) (hi lo v a b : Nat) (h : lo ≤ hi) (hn : hi < n) (hd : a < lo ∨ hi < b) :
    bitsOf (setFld w hi lo v).toNat a b = bitsOf w.toNat a b := by
  apply Nat.eq_of_testBit_eq
  intro i
  rw [bitsOf_testBit, bitsOf_testBit]
  by_cases hi' : i < a + 1 - b
  · rw [← bitOf_eq_testBit, bitOf_setFld w hi lo v _ h hn]
    have : ¬ (lo ≤ b + i ∧ b + i ≤ hi) := by omega
    simp [this, bitOf_eq_testBit]
  · simp [hi']

/-! ### The register file -/

theorem regReset_wr (s : State) (k v j : Nat) : regReset (wr s k v) j = regReset s j := rfl

/-- The register just stored. -/
theorem rd_wr_same (s : State) (k v : Nat) : rd (wr s k v) k = v % 2 ^ 32 := by
  show (tget (BitVec.ofNat 32 (regReset (wr s k v) k)) (wr s k v).regs k).toNat = _
  rw [regReset_wr]
  show (tget (BitVec.ofNat 32 (regReset s k)) (tput (BitVec.ofNat 32 (regReset s k)) s.regs k (BitVec.ofNat 32 v)) k).toNat = _
  rw [tget_tput_same, BitVec.toNat_ofNat]

theorem tget_tput_ne' {β : Type} [DecidableEq β] (d d' : β) (m : Tbl β) (k j : Nat) (v : β) (h : j ≠ k) :
    tget d (tput d' m k v) j = tget d m j := by
  unfold tput
  split
  · exact tget_tdel_ne d k j m h
  · exact tget_tins_ne d k j v m h

/-- Another register after a store. -/
theorem rd_wr_ne (s : State) (k v j : Nat) (h : j ≠ k) : rd (wr s k v) j = rd s j := by
  show (tget (BitVec.ofNat 32 (regReset (wr s k v) j)) (wr s k v).regs j).toNat = _
  rw [regReset_wr]
  show (tget (BitVec.ofNat 32 (regReset s j)) (tput (BitVec.ofNat 32 (regReset s k)) s.regs k (BitVec.ofNat 32 v)) j).toNat = _
  rw [tget_tput_ne' _ _ _ _ _ _ h]
  rfl

theorem rd_wr (s : State) (k v j : Nat) : rd (wr s k v) j = if j = k then v % 2 ^ 32 else rd s j := by
  split
  · rename_i h; rw [h, rd_wr_same]
  · rename_i h; exact rd_wr_ne s k v j h

theorem rd_lt (s : State) (k : Nat) : rd s k < 2 ^ 32 := (tget (BitVec.ofNat 32 (regReset s k)) s.regs k).isLt

theorem rd_wf_same (s : State) (k hi lo v : Nat) : rd (wf s k hi lo v) k = (setFld (BitVec.ofNat 32 (rd s k)) hi lo v).toNat := by
  unfold wf
  rw [rd_wr_same]
  exact Nat.mod_eq_of_lt (BitVec.isLt _)

theorem rd_wf_ne (s : State) (k hi lo v j : Nat) (h : j ≠ k) : rd (wf s k hi lo v) j = rd s j := rd_wr_ne _ _ _ _ h

/-- The field just stored. -/
theorem rf_wf_same (s : State) (k hi lo v : Nat) (h : lo ≤ hi) (hn : hi < 32) : rf (wf s k hi lo v) k hi lo = v % 2 ^ (hi + 1 - lo) := by
  unfold rf
  rw [rd_wf_same, bitsOf_setFld _ _ _ _ h hn]

/-- A bit of a register after a field of it is stored. -/
theorem rb_wf (s : State) (k hi lo v i : Nat) (h : lo ≤ hi) (hn : hi < 32) :
    rb (wf s k hi lo v) k i = if lo ≤ i ∧ i ≤ hi then bitOf v (i - lo) else rb s k i := by
  unfold rb
  rw [rd_wf_same, bitOf_setFld _ _ _ _ _ h hn, BitVec.toNat_ofNat, Nat.mod_eq_of_lt (rd_lt s k)]

theorem rb_wf_ne (s : State) (k hi lo v j i : Nat) (h : j ≠ k) : rb (wf s k hi lo v) j i = rb s j i := by
  unfold rb; rw [rd_wf_ne _ _ _ _ _ _ h]

theorem rf_wf_ne (s : State) (k hi lo v j a b : Nat) (h : j ≠ k) : rf (wf s k hi lo v) j a b = rf s j a b := by
  unfold rf; rw [rd_wf_ne _ _ _ _ _ _ h]

/-- Another field of the same register after a field is stored. -/
theorem rf_wf_other (s : State) (k hi lo v a b : Nat) (h : lo ≤ hi) (hn : hi < 32) (hd : a < lo ∨ hi < b) :
    rf (wf s k hi lo v) k a b = rf s k a b := by
  unfold rf
  rw [rd_wf_same, bitsOf_setFld_ne _ _ _ _ _ _ h hn hd, BitVec.toNat_ofNat, Nat.mod_eq_of_lt (rd_lt s k)]

end Sys2Proof.Machine
end

