-- ==== Sys2Proof/Laws/State.lean ====
section
/-! SUPPORT. What each shared update leaves unchanged: one lemma per update, a conjunction over every field of the state it does not
touch, each conjunct a rewrite rule for simp. -/

namespace Sys2Proof.Machine

/-- What every step of a fold keeps, the fold keeps. -/
theorem foldl_keeps {α β : Type} (p : β → Prop) (f : β → α → β) (l : List α) (h : ∀ b a, p b → p (f b a)) :
    ∀ b, p b → p (l.foldl f b) := by
  induction l with
  | nil => intro b hb; exact hb
  | cons a r ih => intro b hb; exact ih (f b a) (h b a hb)

@[simp] theorem wr_frame (s : State) (key v : Nat) :
    (wr s key v).pending = s.pending ∧ (wr s key v).heldCmds = s.heldCmds ∧ (wr s key v).xlats = s.xlats ∧
    (wr s key v).images = s.images ∧ (wr s key v).bankAt = s.bankAt ∧ (wr s key v).grade = s.grade ∧
    (wr s key v).latch = s.latch ∧ (wr s key v).blks = s.blks ∧ (wr s key v).cycles = s.cycles ∧ (wr s key v).clks = s.clks ∧
    (wr s key v).clkBase = s.clkBase ∧ (wr s key v).devInit = s.devInit ∧ (wr s key v).devPolicy = s.devPolicy ∧
    (wr s key v).sounded = s.sounded ∧ (wr s key v).hbm = s.hbm ∧ (wr s key v).host = s.host ∧ (wr s key v).sram = s.sram ∧
    (wr s key v).hbmPoison = s.hbmPoison ∧ (wr s key v).sramPoison = s.sramPoison ∧ (wr s key v).hbmUpset = s.hbmUpset ∧
    (wr s key v).sramUpset = s.sramUpset ∧ (wr s key v).queues = s.queues ∧ (wr s key v).rings = s.rings ∧
    (wr s key v).tms = s.tms ∧ (wr s key v).tmLatch = s.tmLatch ∧ (wr s key v).ops = s.ops ∧ (wr s key v).starts = s.starts ∧
    (wr s key v).pends = s.pends ∧ (wr s key v).stalls = s.stalls ∧ (wr s key v).escs = s.escs ∧
    (wr s key v).reports = s.reports ∧ (wr s key v).owners = s.owners ∧ (wr s key v).valleys = s.valleys ∧
    (wr s key v).cores = s.cores ∧ (wr s key v).chans = s.chans ∧ (wr s key v).streams = s.streams ∧
    (wr s key v).engTurn = s.engTurn ∧ (wr s key v).handoffs = s.handoffs ∧ (wr s key v).lines = s.lines ∧
    (wr s key v).berms = s.berms ∧ (wr s key v).patrols = s.patrols ∧ (wr s key v).ctxs = s.ctxs ∧
    (wr s key v).estWait = s.estWait ∧ (wr s key v).early = s.early ∧ (wr s key v).estLast = s.estLast ∧
    (wr s key v).estSelf = s.estSelf ∧ (wr s key v).txFlows = s.txFlows ∧ (wr s key v).rxFlows = s.rxFlows ∧
    (wr s key v).paused = s.paused ∧ (wr s key v).portTurns = s.portTurns ∧ (wr s key v).sublinks = s.sublinks ∧
    (wr s key v).links = s.links ∧ (wr s key v).twyQ = s.twyQ ∧ (wr s key v).twyTurn = s.twyTurn ∧
    (wr s key v).twySigs = s.twySigs ∧ (wr s key v).twyIn = s.twyIn ∧ (wr s key v).rounds = s.rounds ∧
    (wr s key v).snaps = s.snaps ∧ (wr s key v).holdOps = s.holdOps ∧ (wr s key v).strands = s.strands ∧
    (wr s key v).flash = s.flash ∧ (wr s key v).hl = s.hl ∧ (wr s key v).jobCmds = s.jobCmds ∧
    (wr s key v).releasing = s.releasing ∧ (wr s key v).invalBusy = s.invalBusy ∧ (wr s key v).hostWait = s.hostWait ∧
    (wr s key v).heldMsgs = s.heldMsgs ∧ (wr s key v).capAt = s.capAt ∧ (wr s key v).freeCount = s.freeCount ∧
    (wr s key v).out = s.out :=
  ⟨rfl, rfl, rfl, rfl, rfl, rfl, rfl, rfl, rfl, rfl, rfl, rfl, rfl, rfl, rfl, rfl, rfl, rfl, rfl, rfl, rfl, rfl, rfl, rfl, rfl, rfl,
    rfl, rfl, rfl, rfl, rfl, rfl, rfl, rfl, rfl, rfl, rfl, rfl, rfl, rfl, rfl, rfl, rfl, rfl, rfl, rfl, rfl, rfl, rfl, rfl, rfl, rfl,
    rfl, rfl, rfl, rfl, rfl, rfl, rfl, rfl, rfl, rfl, rfl, rfl, rfl, rfl, rfl, rfl, rfl, rfl⟩

@[simp] theorem wr64_frame (s : State) (key v : Nat) :
    (wr64 s key v).pending = s.pending ∧ (wr64 s key v).heldCmds = s.heldCmds ∧ (wr64 s key v).xlats = s.xlats ∧
    (wr64 s key v).images = s.images ∧ (wr64 s key v).bankAt = s.bankAt ∧ (wr64 s key v).grade = s.grade ∧
    (wr64 s key v).latch = s.latch ∧ (wr64 s key v).blks = s.blks ∧ (wr64 s key v).cycles = s.cycles ∧
    (wr64 s key v).clks = s.clks ∧ (wr64 s key v).clkBase = s.clkBase ∧ (wr64 s key v).devInit = s.devInit ∧
    (wr64 s key v).devPolicy = s.devPolicy ∧ (wr64 s key v).sounded = s.sounded ∧ (wr64 s key v).hbm = s.hbm ∧
    (wr64 s key v).host = s.host ∧ (wr64 s key v).sram = s.sram ∧ (wr64 s key v).hbmPoison = s.hbmPoison ∧
    (wr64 s key v).sramPoison = s.sramPoison ∧ (wr64 s key v).hbmUpset = s.hbmUpset ∧ (wr64 s key v).sramUpset = s.sramUpset ∧
    (wr64 s key v).queues = s.queues ∧ (wr64 s key v).rings = s.rings ∧ (wr64 s key v).tms = s.tms ∧
    (wr64 s key v).tmLatch = s.tmLatch ∧ (wr64 s key v).ops = s.ops ∧ (wr64 s key v).starts = s.starts ∧
    (wr64 s key v).pends = s.pends ∧ (wr64 s key v).stalls = s.stalls ∧ (wr64 s key v).escs = s.escs ∧
    (wr64 s key v).reports = s.reports ∧ (wr64 s key v).owners = s.owners ∧ (wr64 s key v).valleys = s.valleys ∧
    (wr64 s key v).cores = s.cores ∧ (wr64 s key v).chans = s.chans ∧ (wr64 s key v).streams = s.streams ∧
    (wr64 s key v).engTurn = s.engTurn ∧ (wr64 s key v).handoffs = s.handoffs ∧ (wr64 s key v).lines = s.lines ∧
    (wr64 s key v).berms = s.berms ∧ (wr64 s key v).patrols = s.patrols ∧ (wr64 s key v).ctxs = s.ctxs ∧
    (wr64 s key v).estWait = s.estWait ∧ (wr64 s key v).early = s.early ∧ (wr64 s key v).estLast = s.estLast ∧
    (wr64 s key v).estSelf = s.estSelf ∧ (wr64 s key v).txFlows = s.txFlows ∧ (wr64 s key v).rxFlows = s.rxFlows ∧
    (wr64 s key v).paused = s.paused ∧ (wr64 s key v).portTurns = s.portTurns ∧ (wr64 s key v).sublinks = s.sublinks ∧
    (wr64 s key v).links = s.links ∧ (wr64 s key v).twyQ = s.twyQ ∧ (wr64 s key v).twyTurn = s.twyTurn ∧
    (wr64 s key v).twySigs = s.twySigs ∧ (wr64 s key v).twyIn = s.twyIn ∧ (wr64 s key v).rounds = s.rounds ∧
    (wr64 s key v).snaps = s.snaps ∧ (wr64 s key v).holdOps = s.holdOps ∧ (wr64 s key v).strands = s.strands ∧
    (wr64 s key v).flash = s.flash ∧ (wr64 s key v).hl = s.hl ∧ (wr64 s key v).jobCmds = s.jobCmds ∧
    (wr64 s key v).releasing = s.releasing ∧ (wr64 s key v).invalBusy = s.invalBusy ∧ (wr64 s key v).hostWait = s.hostWait ∧
    (wr64 s key v).heldMsgs = s.heldMsgs ∧ (wr64 s key v).capAt = s.capAt ∧ (wr64 s key v).freeCount = s.freeCount ∧
    (wr64 s key v).out = s.out :=
  ⟨rfl, rfl, rfl, rfl, rfl, rfl, rfl, rfl, rfl, rfl, rfl, rfl, rfl, rfl, rfl, rfl, rfl, rfl, rfl, rfl, rfl, rfl, rfl, rfl, rfl, rfl,
    rfl, rfl, rfl, rfl, rfl, rfl, rfl, rfl, rfl, rfl, rfl, rfl, rfl, rfl, rfl, rfl, rfl, rfl, rfl, rfl, rfl, rfl, rfl, rfl, rfl, rfl,
    rfl, rfl, rfl, rfl, rfl, rfl, rfl, rfl, rfl, rfl, rfl, rfl, rfl, rfl, rfl, rfl, rfl, rfl⟩

@[simp] theorem wf_frame (s : State) (key hi lo v : Nat) :
    (wf s key hi lo v).pending = s.pending ∧ (wf s key hi lo v).heldCmds = s.heldCmds ∧ (wf s key hi lo v).xlats = s.xlats ∧
    (wf s key hi lo v).images = s.images ∧ (wf s key hi lo v).bankAt = s.bankAt ∧ (wf s key hi lo v).grade = s.grade ∧
    (wf s key hi lo v).latch = s.latch ∧ (wf s key hi lo v).blks = s.blks ∧ (wf s key hi lo v).cycles = s.cycles ∧
    (wf s key hi lo v).clks = s.clks ∧ (wf s key hi lo v).clkBase = s.clkBase ∧ (wf s key hi lo v).devInit = s.devInit ∧
    (wf s key hi lo v).devPolicy = s.devPolicy ∧ (wf s key hi lo v).sounded = s.sounded ∧ (wf s key hi lo v).hbm = s.hbm ∧
    (wf s key hi lo v).host = s.host ∧ (wf s key hi lo v).sram = s.sram ∧ (wf s key hi lo v).hbmPoison = s.hbmPoison ∧
    (wf s key hi lo v).sramPoison = s.sramPoison ∧ (wf s key hi lo v).hbmUpset = s.hbmUpset ∧
    (wf s key hi lo v).sramUpset = s.sramUpset ∧ (wf s key hi lo v).queues = s.queues ∧ (wf s key hi lo v).rings = s.rings ∧
    (wf s key hi lo v).tms = s.tms ∧ (wf s key hi lo v).tmLatch = s.tmLatch ∧ (wf s key hi lo v).ops = s.ops ∧
    (wf s key hi lo v).starts = s.starts ∧ (wf s key hi lo v).pends = s.pends ∧ (wf s key hi lo v).stalls = s.stalls ∧
    (wf s key hi lo v).escs = s.escs ∧ (wf s key hi lo v).reports = s.reports ∧ (wf s key hi lo v).owners = s.owners ∧
    (wf s key hi lo v).valleys = s.valleys ∧ (wf s key hi lo v).cores = s.cores ∧ (wf s key hi lo v).chans = s.chans ∧
    (wf s key hi lo v).streams = s.streams ∧ (wf s key hi lo v).engTurn = s.engTurn ∧ (wf s key hi lo v).handoffs = s.handoffs ∧
    (wf s key hi lo v).lines = s.lines ∧ (wf s key hi lo v).berms = s.berms ∧ (wf s key hi lo v).patrols = s.patrols ∧
    (wf s key hi lo v).ctxs = s.ctxs ∧ (wf s key hi lo v).estWait = s.estWait ∧ (wf s key hi lo v).early = s.early ∧
    (wf s key hi lo v).estLast = s.estLast ∧ (wf s key hi lo v).estSelf = s.estSelf ∧ (wf s key hi lo v).txFlows = s.txFlows ∧
    (wf s key hi lo v).rxFlows = s.rxFlows ∧ (wf s key hi lo v).paused = s.paused ∧ (wf s key hi lo v).portTurns = s.portTurns ∧
    (wf s key hi lo v).sublinks = s.sublinks ∧ (wf s key hi lo v).links = s.links ∧ (wf s key hi lo v).twyQ = s.twyQ ∧
    (wf s key hi lo v).twyTurn = s.twyTurn ∧ (wf s key hi lo v).twySigs = s.twySigs ∧ (wf s key hi lo v).twyIn = s.twyIn ∧
    (wf s key hi lo v).rounds = s.rounds ∧ (wf s key hi lo v).snaps = s.snaps ∧ (wf s key hi lo v).holdOps = s.holdOps ∧
    (wf s key hi lo v).strands = s.strands ∧ (wf s key hi lo v).flash = s.flash ∧ (wf s key hi lo v).hl = s.hl ∧
    (wf s key hi lo v).jobCmds = s.jobCmds ∧ (wf s key hi lo v).releasing = s.releasing ∧
    (wf s key hi lo v).invalBusy = s.invalBusy ∧ (wf s key hi lo v).hostWait = s.hostWait ∧
    (wf s key hi lo v).heldMsgs = s.heldMsgs ∧ (wf s key hi lo v).capAt = s.capAt ∧ (wf s key hi lo v).freeCount = s.freeCount ∧
    (wf s key hi lo v).out = s.out :=
  ⟨rfl, rfl, rfl, rfl, rfl, rfl, rfl, rfl, rfl, rfl, rfl, rfl, rfl, rfl, rfl, rfl, rfl, rfl, rfl, rfl, rfl, rfl, rfl, rfl, rfl, rfl,
    rfl, rfl, rfl, rfl, rfl, rfl, rfl, rfl, rfl, rfl, rfl, rfl, rfl, rfl, rfl, rfl, rfl, rfl, rfl, rfl, rfl, rfl, rfl, rfl, rfl, rfl,
    rfl, rfl, rfl, rfl, rfl, rfl, rfl, rfl, rfl, rfl, rfl, rfl, rfl, rfl, rfl, rfl, rfl, rfl⟩

@[simp] theorem inc32_frame (s : State) (key n : Nat) :
    (inc32 s key n).pending = s.pending ∧ (inc32 s key n).heldCmds = s.heldCmds ∧ (inc32 s key n).xlats = s.xlats ∧
    (inc32 s key n).images = s.images ∧ (inc32 s key n).bankAt = s.bankAt ∧ (inc32 s key n).grade = s.grade ∧
    (inc32 s key n).latch = s.latch ∧ (inc32 s key n).blks = s.blks ∧ (inc32 s key n).cycles = s.cycles ∧
    (inc32 s key n).clks = s.clks ∧ (inc32 s key n).clkBase = s.clkBase ∧ (inc32 s key n).devInit = s.devInit ∧
    (inc32 s key n).devPolicy = s.devPolicy ∧ (inc32 s key n).sounded = s.sounded ∧ (inc32 s key n).hbm = s.hbm ∧
    (inc32 s key n).host = s.host ∧ (inc32 s key n).sram = s.sram ∧ (inc32 s key n).hbmPoison = s.hbmPoison ∧
    (inc32 s key n).sramPoison = s.sramPoison ∧ (inc32 s key n).hbmUpset = s.hbmUpset ∧ (inc32 s key n).sramUpset = s.sramUpset ∧
    (inc32 s key n).queues = s.queues ∧ (inc32 s key n).rings = s.rings ∧ (inc32 s key n).tms = s.tms ∧
    (inc32 s key n).tmLatch = s.tmLatch ∧ (inc32 s key n).ops = s.ops ∧ (inc32 s key n).starts = s.starts ∧
    (inc32 s key n).pends = s.pends ∧ (inc32 s key n).stalls = s.stalls ∧ (inc32 s key n).escs = s.escs ∧
    (inc32 s key n).reports = s.reports ∧ (inc32 s key n).owners = s.owners ∧ (inc32 s key n).valleys = s.valleys ∧
    (inc32 s key n).cores = s.cores ∧ (inc32 s key n).chans = s.chans ∧ (inc32 s key n).streams = s.streams ∧
    (inc32 s key n).engTurn = s.engTurn ∧ (inc32 s key n).handoffs = s.handoffs ∧ (inc32 s key n).lines = s.lines ∧
    (inc32 s key n).berms = s.berms ∧ (inc32 s key n).patrols = s.patrols ∧ (inc32 s key n).ctxs = s.ctxs ∧
    (inc32 s key n).estWait = s.estWait ∧ (inc32 s key n).early = s.early ∧ (inc32 s key n).estLast = s.estLast ∧
    (inc32 s key n).estSelf = s.estSelf ∧ (inc32 s key n).txFlows = s.txFlows ∧ (inc32 s key n).rxFlows = s.rxFlows ∧
    (inc32 s key n).paused = s.paused ∧ (inc32 s key n).portTurns = s.portTurns ∧ (inc32 s key n).sublinks = s.sublinks ∧
    (inc32 s key n).links = s.links ∧ (inc32 s key n).twyQ = s.twyQ ∧ (inc32 s key n).twyTurn = s.twyTurn ∧
    (inc32 s key n).twySigs = s.twySigs ∧ (inc32 s key n).twyIn = s.twyIn ∧ (inc32 s key n).rounds = s.rounds ∧
    (inc32 s key n).snaps = s.snaps ∧ (inc32 s key n).holdOps = s.holdOps ∧ (inc32 s key n).strands = s.strands ∧
    (inc32 s key n).flash = s.flash ∧ (inc32 s key n).hl = s.hl ∧ (inc32 s key n).jobCmds = s.jobCmds ∧
    (inc32 s key n).releasing = s.releasing ∧ (inc32 s key n).invalBusy = s.invalBusy ∧ (inc32 s key n).hostWait = s.hostWait ∧
    (inc32 s key n).heldMsgs = s.heldMsgs ∧ (inc32 s key n).capAt = s.capAt ∧ (inc32 s key n).freeCount = s.freeCount ∧
    (inc32 s key n).out = s.out :=
  ⟨rfl, rfl, rfl, rfl, rfl, rfl, rfl, rfl, rfl, rfl, rfl, rfl, rfl, rfl, rfl, rfl, rfl, rfl, rfl, rfl, rfl, rfl, rfl, rfl, rfl, rfl,
    rfl, rfl, rfl, rfl, rfl, rfl, rfl, rfl, rfl, rfl, rfl, rfl, rfl, rfl, rfl, rfl, rfl, rfl, rfl, rfl, rfl, rfl, rfl, rfl, rfl, rfl,
    rfl, rfl, rfl, rfl, rfl, rfl, rfl, rfl, rfl, rfl, rfl, rfl, rfl, rfl, rfl, rfl, rfl, rfl⟩

@[simp] theorem inc64_frame (s : State) (key n : Nat) :
    (inc64 s key n).pending = s.pending ∧ (inc64 s key n).heldCmds = s.heldCmds ∧ (inc64 s key n).xlats = s.xlats ∧
    (inc64 s key n).images = s.images ∧ (inc64 s key n).bankAt = s.bankAt ∧ (inc64 s key n).grade = s.grade ∧
    (inc64 s key n).latch = s.latch ∧ (inc64 s key n).blks = s.blks ∧ (inc64 s key n).cycles = s.cycles ∧
    (inc64 s key n).clks = s.clks ∧ (inc64 s key n).clkBase = s.clkBase ∧ (inc64 s key n).devInit = s.devInit ∧
    (inc64 s key n).devPolicy = s.devPolicy ∧ (inc64 s key n).sounded = s.sounded ∧ (inc64 s key n).hbm = s.hbm ∧
    (inc64 s key n).host = s.host ∧ (inc64 s key n).sram = s.sram ∧ (inc64 s key n).hbmPoison = s.hbmPoison ∧
    (inc64 s key n).sramPoison = s.sramPoison ∧ (inc64 s key n).hbmUpset = s.hbmUpset ∧ (inc64 s key n).sramUpset = s.sramUpset ∧
    (inc64 s key n).queues = s.queues ∧ (inc64 s key n).rings = s.rings ∧ (inc64 s key n).tms = s.tms ∧
    (inc64 s key n).tmLatch = s.tmLatch ∧ (inc64 s key n).ops = s.ops ∧ (inc64 s key n).starts = s.starts ∧
    (inc64 s key n).pends = s.pends ∧ (inc64 s key n).stalls = s.stalls ∧ (inc64 s key n).escs = s.escs ∧
    (inc64 s key n).reports = s.reports ∧ (inc64 s key n).owners = s.owners ∧ (inc64 s key n).valleys = s.valleys ∧
    (inc64 s key n).cores = s.cores ∧ (inc64 s key n).chans = s.chans ∧ (inc64 s key n).streams = s.streams ∧
    (inc64 s key n).engTurn = s.engTurn ∧ (inc64 s key n).handoffs = s.handoffs ∧ (inc64 s key n).lines = s.lines ∧
    (inc64 s key n).berms = s.berms ∧ (inc64 s key n).patrols = s.patrols ∧ (inc64 s key n).ctxs = s.ctxs ∧
    (inc64 s key n).estWait = s.estWait ∧ (inc64 s key n).early = s.early ∧ (inc64 s key n).estLast = s.estLast ∧
    (inc64 s key n).estSelf = s.estSelf ∧ (inc64 s key n).txFlows = s.txFlows ∧ (inc64 s key n).rxFlows = s.rxFlows ∧
    (inc64 s key n).paused = s.paused ∧ (inc64 s key n).portTurns = s.portTurns ∧ (inc64 s key n).sublinks = s.sublinks ∧
    (inc64 s key n).links = s.links ∧ (inc64 s key n).twyQ = s.twyQ ∧ (inc64 s key n).twyTurn = s.twyTurn ∧
    (inc64 s key n).twySigs = s.twySigs ∧ (inc64 s key n).twyIn = s.twyIn ∧ (inc64 s key n).rounds = s.rounds ∧
    (inc64 s key n).snaps = s.snaps ∧ (inc64 s key n).holdOps = s.holdOps ∧ (inc64 s key n).strands = s.strands ∧
    (inc64 s key n).flash = s.flash ∧ (inc64 s key n).hl = s.hl ∧ (inc64 s key n).jobCmds = s.jobCmds ∧
    (inc64 s key n).releasing = s.releasing ∧ (inc64 s key n).invalBusy = s.invalBusy ∧ (inc64 s key n).hostWait = s.hostWait ∧
    (inc64 s key n).heldMsgs = s.heldMsgs ∧ (inc64 s key n).capAt = s.capAt ∧ (inc64 s key n).freeCount = s.freeCount ∧
    (inc64 s key n).out = s.out :=
  ⟨rfl, rfl, rfl, rfl, rfl, rfl, rfl, rfl, rfl, rfl, rfl, rfl, rfl, rfl, rfl, rfl, rfl, rfl, rfl, rfl, rfl, rfl, rfl, rfl, rfl, rfl,
    rfl, rfl, rfl, rfl, rfl, rfl, rfl, rfl, rfl, rfl, rfl, rfl, rfl, rfl, rfl, rfl, rfl, rfl, rfl, rfl, rfl, rfl, rfl, rfl, rfl, rfl,
    rfl, rfl, rfl, rfl, rfl, rfl, rfl, rfl, rfl, rfl, rfl, rfl, rfl, rfl, rfl, rfl, rfl, rfl⟩

@[simp] theorem incSat_frame (s : State) (key hi lo n : Nat) :
    (incSat s key hi lo n).pending = s.pending ∧ (incSat s key hi lo n).heldCmds = s.heldCmds ∧
    (incSat s key hi lo n).xlats = s.xlats ∧ (incSat s key hi lo n).images = s.images ∧ (incSat s key hi lo n).bankAt = s.bankAt ∧
    (incSat s key hi lo n).grade = s.grade ∧ (incSat s key hi lo n).latch = s.latch ∧ (incSat s key hi lo n).blks = s.blks ∧
    (incSat s key hi lo n).cycles = s.cycles ∧ (incSat s key hi lo n).clks = s.clks ∧ (incSat s key hi lo n).clkBase = s.clkBase ∧
    (incSat s key hi lo n).devInit = s.devInit ∧ (incSat s key hi lo n).devPolicy = s.devPolicy ∧
    (incSat s key hi lo n).sounded = s.sounded ∧ (incSat s key hi lo n).hbm = s.hbm ∧ (incSat s key hi lo n).host = s.host ∧
    (incSat s key hi lo n).sram = s.sram ∧ (incSat s key hi lo n).hbmPoison = s.hbmPoison ∧
    (incSat s key hi lo n).sramPoison = s.sramPoison ∧ (incSat s key hi lo n).hbmUpset = s.hbmUpset ∧
    (incSat s key hi lo n).sramUpset = s.sramUpset ∧ (incSat s key hi lo n).queues = s.queues ∧
    (incSat s key hi lo n).rings = s.rings ∧ (incSat s key hi lo n).tms = s.tms ∧ (incSat s key hi lo n).tmLatch = s.tmLatch ∧
    (incSat s key hi lo n).ops = s.ops ∧ (incSat s key hi lo n).starts = s.starts ∧ (incSat s key hi lo n).pends = s.pends ∧
    (incSat s key hi lo n).stalls = s.stalls ∧ (incSat s key hi lo n).escs = s.escs ∧ (incSat s key hi lo n).reports = s.reports ∧
    (incSat s key hi lo n).owners = s.owners ∧ (incSat s key hi lo n).valleys = s.valleys ∧
    (incSat s key hi lo n).cores = s.cores ∧ (incSat s key hi lo n).chans = s.chans ∧ (incSat s key hi lo n).streams = s.streams ∧
    (incSat s key hi lo n).engTurn = s.engTurn ∧ (incSat s key hi lo n).handoffs = s.handoffs ∧
    (incSat s key hi lo n).lines = s.lines ∧ (incSat s key hi lo n).berms = s.berms ∧ (incSat s key hi lo n).patrols = s.patrols ∧
    (incSat s key hi lo n).ctxs = s.ctxs ∧ (incSat s key hi lo n).estWait = s.estWait ∧ (incSat s key hi lo n).early = s.early ∧
    (incSat s key hi lo n).estLast = s.estLast ∧ (incSat s key hi lo n).estSelf = s.estSelf ∧
    (incSat s key hi lo n).txFlows = s.txFlows ∧ (incSat s key hi lo n).rxFlows = s.rxFlows ∧
    (incSat s key hi lo n).paused = s.paused ∧ (incSat s key hi lo n).portTurns = s.portTurns ∧
    (incSat s key hi lo n).sublinks = s.sublinks ∧ (incSat s key hi lo n).links = s.links ∧ (incSat s key hi lo n).twyQ = s.twyQ ∧
    (incSat s key hi lo n).twyTurn = s.twyTurn ∧ (incSat s key hi lo n).twySigs = s.twySigs ∧
    (incSat s key hi lo n).twyIn = s.twyIn ∧ (incSat s key hi lo n).rounds = s.rounds ∧ (incSat s key hi lo n).snaps = s.snaps ∧
    (incSat s key hi lo n).holdOps = s.holdOps ∧ (incSat s key hi lo n).strands = s.strands ∧
    (incSat s key hi lo n).flash = s.flash ∧ (incSat s key hi lo n).hl = s.hl ∧ (incSat s key hi lo n).jobCmds = s.jobCmds ∧
    (incSat s key hi lo n).releasing = s.releasing ∧ (incSat s key hi lo n).invalBusy = s.invalBusy ∧
    (incSat s key hi lo n).hostWait = s.hostWait ∧ (incSat s key hi lo n).heldMsgs = s.heldMsgs ∧
    (incSat s key hi lo n).capAt = s.capAt ∧ (incSat s key hi lo n).freeCount = s.freeCount ∧
    (incSat s key hi lo n).out = s.out :=
  ⟨rfl, rfl, rfl, rfl, rfl, rfl, rfl, rfl, rfl, rfl, rfl, rfl, rfl, rfl, rfl, rfl, rfl, rfl, rfl, rfl, rfl, rfl, rfl, rfl, rfl, rfl,
    rfl, rfl, rfl, rfl, rfl, rfl, rfl, rfl, rfl, rfl, rfl, rfl, rfl, rfl, rfl, rfl, rfl, rfl, rfl, rfl, rfl, rfl, rfl, rfl, rfl, rfl,
    rfl, rfl, rfl, rfl, rfl, rfl, rfl, rfl, rfl, rfl, rfl, rfl, rfl, rfl, rfl, rfl, rfl, rfl⟩

@[simp] theorem setClk_frame (s : State) (i : Nat) (c : Clk) :
    (setClk s i c).pending = s.pending ∧ (setClk s i c).heldCmds = s.heldCmds ∧ (setClk s i c).xlats = s.xlats ∧
    (setClk s i c).images = s.images ∧ (setClk s i c).bankAt = s.bankAt ∧ (setClk s i c).grade = s.grade ∧
    (setClk s i c).regs = s.regs ∧ (setClk s i c).latch = s.latch ∧ (setClk s i c).blks = s.blks ∧
    (setClk s i c).cycles = s.cycles ∧ (setClk s i c).clkBase = s.clkBase ∧ (setClk s i c).devInit = s.devInit ∧
    (setClk s i c).devPolicy = s.devPolicy ∧ (setClk s i c).sounded = s.sounded ∧ (setClk s i c).hbm = s.hbm ∧
    (setClk s i c).host = s.host ∧ (setClk s i c).sram = s.sram ∧ (setClk s i c).hbmPoison = s.hbmPoison ∧
    (setClk s i c).sramPoison = s.sramPoison ∧ (setClk s i c).hbmUpset = s.hbmUpset ∧ (setClk s i c).sramUpset = s.sramUpset ∧
    (setClk s i c).queues = s.queues ∧ (setClk s i c).rings = s.rings ∧ (setClk s i c).tms = s.tms ∧
    (setClk s i c).tmLatch = s.tmLatch ∧ (setClk s i c).ops = s.ops ∧ (setClk s i c).starts = s.starts ∧
    (setClk s i c).pends = s.pends ∧ (setClk s i c).stalls = s.stalls ∧ (setClk s i c).escs = s.escs ∧
    (setClk s i c).reports = s.reports ∧ (setClk s i c).owners = s.owners ∧ (setClk s i c).valleys = s.valleys ∧
    (setClk s i c).cores = s.cores ∧ (setClk s i c).chans = s.chans ∧ (setClk s i c).streams = s.streams ∧
    (setClk s i c).engTurn = s.engTurn ∧ (setClk s i c).handoffs = s.handoffs ∧ (setClk s i c).lines = s.lines ∧
    (setClk s i c).berms = s.berms ∧ (setClk s i c).patrols = s.patrols ∧ (setClk s i c).ctxs = s.ctxs ∧
    (setClk s i c).estWait = s.estWait ∧ (setClk s i c).early = s.early ∧ (setClk s i c).estLast = s.estLast ∧
    (setClk s i c).estSelf = s.estSelf ∧ (setClk s i c).txFlows = s.txFlows ∧ (setClk s i c).rxFlows = s.rxFlows ∧
    (setClk s i c).paused = s.paused ∧ (setClk s i c).portTurns = s.portTurns ∧ (setClk s i c).sublinks = s.sublinks ∧
    (setClk s i c).links = s.links ∧ (setClk s i c).twyQ = s.twyQ ∧ (setClk s i c).twyTurn = s.twyTurn ∧
    (setClk s i c).twySigs = s.twySigs ∧ (setClk s i c).twyIn = s.twyIn ∧ (setClk s i c).rounds = s.rounds ∧
    (setClk s i c).snaps = s.snaps ∧ (setClk s i c).holdOps = s.holdOps ∧ (setClk s i c).strands = s.strands ∧
    (setClk s i c).flash = s.flash ∧ (setClk s i c).hl = s.hl ∧ (setClk s i c).jobCmds = s.jobCmds ∧
    (setClk s i c).releasing = s.releasing ∧ (setClk s i c).invalBusy = s.invalBusy ∧ (setClk s i c).hostWait = s.hostWait ∧
    (setClk s i c).heldMsgs = s.heldMsgs ∧ (setClk s i c).capAt = s.capAt ∧ (setClk s i c).freeCount = s.freeCount ∧
    (setClk s i c).out = s.out :=
  ⟨rfl, rfl, rfl, rfl, rfl, rfl, rfl, rfl, rfl, rfl, rfl, rfl, rfl, rfl, rfl, rfl, rfl, rfl, rfl, rfl, rfl, rfl, rfl, rfl, rfl, rfl,
    rfl, rfl, rfl, rfl, rfl, rfl, rfl, rfl, rfl, rfl, rfl, rfl, rfl, rfl, rfl, rfl, rfl, rfl, rfl, rfl, rfl, rfl, rfl, rfl, rfl, rfl,
    rfl, rfl, rfl, rfl, rfl, rfl, rfl, rfl, rfl, rfl, rfl, rfl, rfl, rfl, rfl, rfl, rfl, rfl⟩

@[simp] theorem restartClk_frame (s : State) (i : Nat) :
    (restartClk s i).pending = s.pending ∧ (restartClk s i).heldCmds = s.heldCmds ∧ (restartClk s i).xlats = s.xlats ∧
    (restartClk s i).images = s.images ∧ (restartClk s i).bankAt = s.bankAt ∧ (restartClk s i).grade = s.grade ∧
    (restartClk s i).regs = s.regs ∧ (restartClk s i).latch = s.latch ∧ (restartClk s i).blks = s.blks ∧
    (restartClk s i).cycles = s.cycles ∧ (restartClk s i).clkBase = s.clkBase ∧ (restartClk s i).devInit = s.devInit ∧
    (restartClk s i).devPolicy = s.devPolicy ∧ (restartClk s i).sounded = s.sounded ∧ (restartClk s i).hbm = s.hbm ∧
    (restartClk s i).host = s.host ∧ (restartClk s i).sram = s.sram ∧ (restartClk s i).hbmPoison = s.hbmPoison ∧
    (restartClk s i).sramPoison = s.sramPoison ∧ (restartClk s i).hbmUpset = s.hbmUpset ∧
    (restartClk s i).sramUpset = s.sramUpset ∧ (restartClk s i).queues = s.queues ∧ (restartClk s i).rings = s.rings ∧
    (restartClk s i).tms = s.tms ∧ (restartClk s i).tmLatch = s.tmLatch ∧ (restartClk s i).ops = s.ops ∧
    (restartClk s i).starts = s.starts ∧ (restartClk s i).pends = s.pends ∧ (restartClk s i).stalls = s.stalls ∧
    (restartClk s i).escs = s.escs ∧ (restartClk s i).reports = s.reports ∧ (restartClk s i).owners = s.owners ∧
    (restartClk s i).valleys = s.valleys ∧ (restartClk s i).cores = s.cores ∧ (restartClk s i).chans = s.chans ∧
    (restartClk s i).streams = s.streams ∧ (restartClk s i).engTurn = s.engTurn ∧ (restartClk s i).handoffs = s.handoffs ∧
    (restartClk s i).lines = s.lines ∧ (restartClk s i).berms = s.berms ∧ (restartClk s i).patrols = s.patrols ∧
    (restartClk s i).ctxs = s.ctxs ∧ (restartClk s i).estWait = s.estWait ∧ (restartClk s i).early = s.early ∧
    (restartClk s i).estLast = s.estLast ∧ (restartClk s i).estSelf = s.estSelf ∧ (restartClk s i).txFlows = s.txFlows ∧
    (restartClk s i).rxFlows = s.rxFlows ∧ (restartClk s i).paused = s.paused ∧ (restartClk s i).portTurns = s.portTurns ∧
    (restartClk s i).sublinks = s.sublinks ∧ (restartClk s i).links = s.links ∧ (restartClk s i).twyQ = s.twyQ ∧
    (restartClk s i).twyTurn = s.twyTurn ∧ (restartClk s i).twySigs = s.twySigs ∧ (restartClk s i).twyIn = s.twyIn ∧
    (restartClk s i).rounds = s.rounds ∧ (restartClk s i).snaps = s.snaps ∧ (restartClk s i).holdOps = s.holdOps ∧
    (restartClk s i).strands = s.strands ∧ (restartClk s i).flash = s.flash ∧ (restartClk s i).hl = s.hl ∧
    (restartClk s i).jobCmds = s.jobCmds ∧ (restartClk s i).releasing = s.releasing ∧ (restartClk s i).invalBusy = s.invalBusy ∧
    (restartClk s i).hostWait = s.hostWait ∧ (restartClk s i).heldMsgs = s.heldMsgs ∧ (restartClk s i).capAt = s.capAt ∧
    (restartClk s i).freeCount = s.freeCount ∧ (restartClk s i).out = s.out :=
  ⟨rfl, rfl, rfl, rfl, rfl, rfl, rfl, rfl, rfl, rfl, rfl, rfl, rfl, rfl, rfl, rfl, rfl, rfl, rfl, rfl, rfl, rfl, rfl, rfl, rfl, rfl,
    rfl, rfl, rfl, rfl, rfl, rfl, rfl, rfl, rfl, rfl, rfl, rfl, rfl, rfl, rfl, rfl, rfl, rfl, rfl, rfl, rfl, rfl, rfl, rfl, rfl, rfl,
    rfl, rfl, rfl, rfl, rfl, rfl, rfl, rfl, rfl, rfl, rfl, rfl, rfl, rfl, rfl, rfl, rfl, rfl⟩

@[simp] theorem haltClk_frame (s : State) (i : Nat) :
    (haltClk s i).pending = s.pending ∧ (haltClk s i).heldCmds = s.heldCmds ∧ (haltClk s i).xlats = s.xlats ∧
    (haltClk s i).images = s.images ∧ (haltClk s i).bankAt = s.bankAt ∧ (haltClk s i).grade = s.grade ∧
    (haltClk s i).regs = s.regs ∧ (haltClk s i).latch = s.latch ∧ (haltClk s i).blks = s.blks ∧ (haltClk s i).cycles = s.cycles ∧
    (haltClk s i).clkBase = s.clkBase ∧ (haltClk s i).devInit = s.devInit ∧ (haltClk s i).devPolicy = s.devPolicy ∧
    (haltClk s i).sounded = s.sounded ∧ (haltClk s i).hbm = s.hbm ∧ (haltClk s i).host = s.host ∧ (haltClk s i).sram = s.sram ∧
    (haltClk s i).hbmPoison = s.hbmPoison ∧ (haltClk s i).sramPoison = s.sramPoison ∧ (haltClk s i).hbmUpset = s.hbmUpset ∧
    (haltClk s i).sramUpset = s.sramUpset ∧ (haltClk s i).queues = s.queues ∧ (haltClk s i).rings = s.rings ∧
    (haltClk s i).tms = s.tms ∧ (haltClk s i).tmLatch = s.tmLatch ∧ (haltClk s i).ops = s.ops ∧ (haltClk s i).starts = s.starts ∧
    (haltClk s i).pends = s.pends ∧ (haltClk s i).stalls = s.stalls ∧ (haltClk s i).escs = s.escs ∧
    (haltClk s i).reports = s.reports ∧ (haltClk s i).owners = s.owners ∧ (haltClk s i).valleys = s.valleys ∧
    (haltClk s i).cores = s.cores ∧ (haltClk s i).chans = s.chans ∧ (haltClk s i).streams = s.streams ∧
    (haltClk s i).engTurn = s.engTurn ∧ (haltClk s i).handoffs = s.handoffs ∧ (haltClk s i).lines = s.lines ∧
    (haltClk s i).berms = s.berms ∧ (haltClk s i).patrols = s.patrols ∧ (haltClk s i).ctxs = s.ctxs ∧
    (haltClk s i).estWait = s.estWait ∧ (haltClk s i).early = s.early ∧ (haltClk s i).estLast = s.estLast ∧
    (haltClk s i).estSelf = s.estSelf ∧ (haltClk s i).txFlows = s.txFlows ∧ (haltClk s i).rxFlows = s.rxFlows ∧
    (haltClk s i).paused = s.paused ∧ (haltClk s i).portTurns = s.portTurns ∧ (haltClk s i).sublinks = s.sublinks ∧
    (haltClk s i).links = s.links ∧ (haltClk s i).twyQ = s.twyQ ∧ (haltClk s i).twyTurn = s.twyTurn ∧
    (haltClk s i).twySigs = s.twySigs ∧ (haltClk s i).twyIn = s.twyIn ∧ (haltClk s i).rounds = s.rounds ∧
    (haltClk s i).snaps = s.snaps ∧ (haltClk s i).holdOps = s.holdOps ∧ (haltClk s i).strands = s.strands ∧
    (haltClk s i).flash = s.flash ∧ (haltClk s i).hl = s.hl ∧ (haltClk s i).jobCmds = s.jobCmds ∧
    (haltClk s i).releasing = s.releasing ∧ (haltClk s i).invalBusy = s.invalBusy ∧ (haltClk s i).hostWait = s.hostWait ∧
    (haltClk s i).heldMsgs = s.heldMsgs ∧ (haltClk s i).capAt = s.capAt ∧ (haltClk s i).freeCount = s.freeCount ∧
    (haltClk s i).out = s.out :=
  ⟨rfl, rfl, rfl, rfl, rfl, rfl, rfl, rfl, rfl, rfl, rfl, rfl, rfl, rfl, rfl, rfl, rfl, rfl, rfl, rfl, rfl, rfl, rfl, rfl, rfl, rfl,
    rfl, rfl, rfl, rfl, rfl, rfl, rfl, rfl, rfl, rfl, rfl, rfl, rfl, rfl, rfl, rfl, rfl, rfl, rfl, rfl, rfl, rfl, rfl, rfl, rfl, rfl,
    rfl, rfl, rfl, rfl, rfl, rfl, rfl, rfl, rfl, rfl, rfl, rfl, rfl, rfl, rfl, rfl, rfl, rfl⟩

@[simp] theorem resumeClk_frame (s : State) (i : Nat) :
    (resumeClk s i).pending = s.pending ∧ (resumeClk s i).heldCmds = s.heldCmds ∧ (resumeClk s i).xlats = s.xlats ∧
    (resumeClk s i).images = s.images ∧ (resumeClk s i).bankAt = s.bankAt ∧ (resumeClk s i).grade = s.grade ∧
    (resumeClk s i).regs = s.regs ∧ (resumeClk s i).latch = s.latch ∧ (resumeClk s i).blks = s.blks ∧
    (resumeClk s i).cycles = s.cycles ∧ (resumeClk s i).clkBase = s.clkBase ∧ (resumeClk s i).devInit = s.devInit ∧
    (resumeClk s i).devPolicy = s.devPolicy ∧ (resumeClk s i).sounded = s.sounded ∧ (resumeClk s i).hbm = s.hbm ∧
    (resumeClk s i).host = s.host ∧ (resumeClk s i).sram = s.sram ∧ (resumeClk s i).hbmPoison = s.hbmPoison ∧
    (resumeClk s i).sramPoison = s.sramPoison ∧ (resumeClk s i).hbmUpset = s.hbmUpset ∧ (resumeClk s i).sramUpset = s.sramUpset ∧
    (resumeClk s i).queues = s.queues ∧ (resumeClk s i).rings = s.rings ∧ (resumeClk s i).tms = s.tms ∧
    (resumeClk s i).tmLatch = s.tmLatch ∧ (resumeClk s i).ops = s.ops ∧ (resumeClk s i).starts = s.starts ∧
    (resumeClk s i).pends = s.pends ∧ (resumeClk s i).stalls = s.stalls ∧ (resumeClk s i).escs = s.escs ∧
    (resumeClk s i).reports = s.reports ∧ (resumeClk s i).owners = s.owners ∧ (resumeClk s i).valleys = s.valleys ∧
    (resumeClk s i).cores = s.cores ∧ (resumeClk s i).chans = s.chans ∧ (resumeClk s i).streams = s.streams ∧
    (resumeClk s i).engTurn = s.engTurn ∧ (resumeClk s i).handoffs = s.handoffs ∧ (resumeClk s i).lines = s.lines ∧
    (resumeClk s i).berms = s.berms ∧ (resumeClk s i).patrols = s.patrols ∧ (resumeClk s i).ctxs = s.ctxs ∧
    (resumeClk s i).estWait = s.estWait ∧ (resumeClk s i).early = s.early ∧ (resumeClk s i).estLast = s.estLast ∧
    (resumeClk s i).estSelf = s.estSelf ∧ (resumeClk s i).txFlows = s.txFlows ∧ (resumeClk s i).rxFlows = s.rxFlows ∧
    (resumeClk s i).paused = s.paused ∧ (resumeClk s i).portTurns = s.portTurns ∧ (resumeClk s i).sublinks = s.sublinks ∧
    (resumeClk s i).links = s.links ∧ (resumeClk s i).twyQ = s.twyQ ∧ (resumeClk s i).twyTurn = s.twyTurn ∧
    (resumeClk s i).twySigs = s.twySigs ∧ (resumeClk s i).twyIn = s.twyIn ∧ (resumeClk s i).rounds = s.rounds ∧
    (resumeClk s i).snaps = s.snaps ∧ (resumeClk s i).holdOps = s.holdOps ∧ (resumeClk s i).strands = s.strands ∧
    (resumeClk s i).flash = s.flash ∧ (resumeClk s i).hl = s.hl ∧ (resumeClk s i).jobCmds = s.jobCmds ∧
    (resumeClk s i).releasing = s.releasing ∧ (resumeClk s i).invalBusy = s.invalBusy ∧ (resumeClk s i).hostWait = s.hostWait ∧
    (resumeClk s i).heldMsgs = s.heldMsgs ∧ (resumeClk s i).capAt = s.capAt ∧ (resumeClk s i).freeCount = s.freeCount ∧
    (resumeClk s i).out = s.out :=
  ⟨rfl, rfl, rfl, rfl, rfl, rfl, rfl, rfl, rfl, rfl, rfl, rfl, rfl, rfl, rfl, rfl, rfl, rfl, rfl, rfl, rfl, rfl, rfl, rfl, rfl, rfl,
    rfl, rfl, rfl, rfl, rfl, rfl, rfl, rfl, rfl, rfl, rfl, rfl, rfl, rfl, rfl, rfl, rfl, rfl, rfl, rfl, rfl, rfl, rfl, rfl, rfl, rfl,
    rfl, rfl, rfl, rfl, rfl, rfl, rfl, rfl, rfl, rfl, rfl, rfl, rfl, rfl, rfl, rfl, rfl, rfl⟩

@[simp] theorem alertSet_frame (s : State) (b : Nat) :
    (alertSet s b).pending = s.pending ∧ (alertSet s b).heldCmds = s.heldCmds ∧ (alertSet s b).xlats = s.xlats ∧
    (alertSet s b).images = s.images ∧ (alertSet s b).bankAt = s.bankAt ∧ (alertSet s b).grade = s.grade ∧
    (alertSet s b).latch = s.latch ∧ (alertSet s b).blks = s.blks ∧ (alertSet s b).cycles = s.cycles ∧
    (alertSet s b).clks = s.clks ∧ (alertSet s b).clkBase = s.clkBase ∧ (alertSet s b).devInit = s.devInit ∧
    (alertSet s b).devPolicy = s.devPolicy ∧ (alertSet s b).sounded = s.sounded ∧ (alertSet s b).hbm = s.hbm ∧
    (alertSet s b).host = s.host ∧ (alertSet s b).sram = s.sram ∧ (alertSet s b).hbmPoison = s.hbmPoison ∧
    (alertSet s b).sramPoison = s.sramPoison ∧ (alertSet s b).hbmUpset = s.hbmUpset ∧ (alertSet s b).sramUpset = s.sramUpset ∧
    (alertSet s b).queues = s.queues ∧ (alertSet s b).rings = s.rings ∧ (alertSet s b).tms = s.tms ∧
    (alertSet s b).tmLatch = s.tmLatch ∧ (alertSet s b).ops = s.ops ∧ (alertSet s b).starts = s.starts ∧
    (alertSet s b).pends = s.pends ∧ (alertSet s b).stalls = s.stalls ∧ (alertSet s b).escs = s.escs ∧
    (alertSet s b).reports = s.reports ∧ (alertSet s b).owners = s.owners ∧ (alertSet s b).valleys = s.valleys ∧
    (alertSet s b).cores = s.cores ∧ (alertSet s b).chans = s.chans ∧ (alertSet s b).streams = s.streams ∧
    (alertSet s b).engTurn = s.engTurn ∧ (alertSet s b).handoffs = s.handoffs ∧ (alertSet s b).lines = s.lines ∧
    (alertSet s b).berms = s.berms ∧ (alertSet s b).patrols = s.patrols ∧ (alertSet s b).ctxs = s.ctxs ∧
    (alertSet s b).estWait = s.estWait ∧ (alertSet s b).early = s.early ∧ (alertSet s b).estLast = s.estLast ∧
    (alertSet s b).estSelf = s.estSelf ∧ (alertSet s b).txFlows = s.txFlows ∧ (alertSet s b).rxFlows = s.rxFlows ∧
    (alertSet s b).paused = s.paused ∧ (alertSet s b).portTurns = s.portTurns ∧ (alertSet s b).sublinks = s.sublinks ∧
    (alertSet s b).links = s.links ∧ (alertSet s b).twyQ = s.twyQ ∧ (alertSet s b).twyTurn = s.twyTurn ∧
    (alertSet s b).twySigs = s.twySigs ∧ (alertSet s b).twyIn = s.twyIn ∧ (alertSet s b).rounds = s.rounds ∧
    (alertSet s b).snaps = s.snaps ∧ (alertSet s b).holdOps = s.holdOps ∧ (alertSet s b).strands = s.strands ∧
    (alertSet s b).flash = s.flash ∧ (alertSet s b).hl = s.hl ∧ (alertSet s b).jobCmds = s.jobCmds ∧
    (alertSet s b).releasing = s.releasing ∧ (alertSet s b).invalBusy = s.invalBusy ∧ (alertSet s b).hostWait = s.hostWait ∧
    (alertSet s b).heldMsgs = s.heldMsgs ∧ (alertSet s b).capAt = s.capAt ∧ (alertSet s b).freeCount = s.freeCount := by
  unfold alertSet
  dsimp only
  split <;> simp

@[simp] theorem logEntry_frame (s : State) (code index source info value : Nat) :
    (logEntry s code index source info value).pending = s.pending ∧
    (logEntry s code index source info value).heldCmds = s.heldCmds ∧ (logEntry s code index source info value).xlats = s.xlats ∧
    (logEntry s code index source info value).images = s.images ∧ (logEntry s code index source info value).bankAt = s.bankAt ∧
    (logEntry s code index source info value).grade = s.grade ∧ (logEntry s code index source info value).regs = s.regs ∧
    (logEntry s code index source info value).latch = s.latch ∧ (logEntry s code index source info value).blks = s.blks ∧
    (logEntry s code index source info value).cycles = s.cycles ∧ (logEntry s code index source info value).clks = s.clks ∧
    (logEntry s code index source info value).clkBase = s.clkBase ∧
    (logEntry s code index source info value).devInit = s.devInit ∧
    (logEntry s code index source info value).devPolicy = s.devPolicy ∧
    (logEntry s code index source info value).sounded = s.sounded ∧ (logEntry s code index source info value).hbm = s.hbm ∧
    (logEntry s code index source info value).host = s.host ∧ (logEntry s code index source info value).sram = s.sram ∧
    (logEntry s code index source info value).hbmPoison = s.hbmPoison ∧
    (logEntry s code index source info value).sramPoison = s.sramPoison ∧
    (logEntry s code index source info value).hbmUpset = s.hbmUpset ∧
    (logEntry s code index source info value).sramUpset = s.sramUpset ∧
    (logEntry s code index source info value).queues = s.queues ∧ (logEntry s code index source info value).rings = s.rings ∧
    (logEntry s code index source info value).tms = s.tms ∧ (logEntry s code index source info value).tmLatch = s.tmLatch ∧
    (logEntry s code index source info value).ops = s.ops ∧ (logEntry s code index source info value).starts = s.starts ∧
    (logEntry s code index source info value).pends = s.pends ∧ (logEntry s code index source info value).stalls = s.stalls ∧
    (logEntry s code index source info value).escs = s.escs ∧ (logEntry s code index source info value).reports = s.reports ∧
    (logEntry s code index source info value).owners = s.owners ∧ (logEntry s code index source info value).valleys = s.valleys ∧
    (logEntry s code index source info value).cores = s.cores ∧ (logEntry s code index source info value).chans = s.chans ∧
    (logEntry s code index source info value).streams = s.streams ∧
    (logEntry s code index source info value).engTurn = s.engTurn ∧
    (logEntry s code index source info value).handoffs = s.handoffs ∧ (logEntry s code index source info value).lines = s.lines ∧
    (logEntry s code index source info value).berms = s.berms ∧ (logEntry s code index source info value).patrols = s.patrols ∧
    (logEntry s code index source info value).ctxs = s.ctxs ∧ (logEntry s code index source info value).estWait = s.estWait ∧
    (logEntry s code index source info value).early = s.early ∧ (logEntry s code index source info value).estLast = s.estLast ∧
    (logEntry s code index source info value).estSelf = s.estSelf ∧
    (logEntry s code index source info value).txFlows = s.txFlows ∧
    (logEntry s code index source info value).rxFlows = s.rxFlows ∧ (logEntry s code index source info value).paused = s.paused ∧
    (logEntry s code index source info value).portTurns = s.portTurns ∧
    (logEntry s code index source info value).sublinks = s.sublinks ∧ (logEntry s code index source info value).links = s.links ∧
    (logEntry s code index source info value).twyQ = s.twyQ ∧ (logEntry s code index source info value).twyTurn = s.twyTurn ∧
    (logEntry s code index source info value).twySigs = s.twySigs ∧ (logEntry s code index source info value).twyIn = s.twyIn ∧
    (logEntry s code index source info value).rounds = s.rounds ∧ (logEntry s code index source info value).snaps = s.snaps ∧
    (logEntry s code index source info value).holdOps = s.holdOps ∧
    (logEntry s code index source info value).strands = s.strands ∧ (logEntry s code index source info value).flash = s.flash ∧
    (logEntry s code index source info value).jobCmds = s.jobCmds ∧
    (logEntry s code index source info value).releasing = s.releasing ∧
    (logEntry s code index source info value).invalBusy = s.invalBusy ∧
    (logEntry s code index source info value).hostWait = s.hostWait ∧
    (logEntry s code index source info value).heldMsgs = s.heldMsgs ∧ (logEntry s code index source info value).capAt = s.capAt ∧
    (logEntry s code index source info value).freeCount = s.freeCount ∧ (logEntry s code index source info value).out = s.out :=
  ⟨rfl, rfl, rfl, rfl, rfl, rfl, rfl, rfl, rfl, rfl, rfl, rfl, rfl, rfl, rfl, rfl, rfl, rfl, rfl, rfl, rfl, rfl, rfl, rfl, rfl, rfl,
    rfl, rfl, rfl, rfl, rfl, rfl, rfl, rfl, rfl, rfl, rfl, rfl, rfl, rfl, rfl, rfl, rfl, rfl, rfl, rfl, rfl, rfl, rfl, rfl, rfl, rfl,
    rfl, rfl, rfl, rfl, rfl, rfl, rfl, rfl, rfl, rfl, rfl, rfl, rfl, rfl, rfl, rfl, rfl, rfl⟩

@[simp] theorem logAlert_frame (s : State) (code : Nat) :
    (logAlert s code).pending = s.pending ∧ (logAlert s code).heldCmds = s.heldCmds ∧ (logAlert s code).xlats = s.xlats ∧
    (logAlert s code).images = s.images ∧ (logAlert s code).bankAt = s.bankAt ∧ (logAlert s code).grade = s.grade ∧
    (logAlert s code).latch = s.latch ∧ (logAlert s code).blks = s.blks ∧ (logAlert s code).cycles = s.cycles ∧
    (logAlert s code).clks = s.clks ∧ (logAlert s code).clkBase = s.clkBase ∧ (logAlert s code).devInit = s.devInit ∧
    (logAlert s code).devPolicy = s.devPolicy ∧ (logAlert s code).sounded = s.sounded ∧ (logAlert s code).hbm = s.hbm ∧
    (logAlert s code).host = s.host ∧ (logAlert s code).sram = s.sram ∧ (logAlert s code).hbmPoison = s.hbmPoison ∧
    (logAlert s code).sramPoison = s.sramPoison ∧ (logAlert s code).hbmUpset = s.hbmUpset ∧
    (logAlert s code).sramUpset = s.sramUpset ∧ (logAlert s code).queues = s.queues ∧ (logAlert s code).rings = s.rings ∧
    (logAlert s code).tms = s.tms ∧ (logAlert s code).tmLatch = s.tmLatch ∧ (logAlert s code).ops = s.ops ∧
    (logAlert s code).starts = s.starts ∧ (logAlert s code).pends = s.pends ∧ (logAlert s code).stalls = s.stalls ∧
    (logAlert s code).escs = s.escs ∧ (logAlert s code).reports = s.reports ∧ (logAlert s code).owners = s.owners ∧
    (logAlert s code).valleys = s.valleys ∧ (logAlert s code).cores = s.cores ∧ (logAlert s code).chans = s.chans ∧
    (logAlert s code).streams = s.streams ∧ (logAlert s code).engTurn = s.engTurn ∧ (logAlert s code).handoffs = s.handoffs ∧
    (logAlert s code).lines = s.lines ∧ (logAlert s code).berms = s.berms ∧ (logAlert s code).patrols = s.patrols ∧
    (logAlert s code).ctxs = s.ctxs ∧ (logAlert s code).estWait = s.estWait ∧ (logAlert s code).early = s.early ∧
    (logAlert s code).estLast = s.estLast ∧ (logAlert s code).estSelf = s.estSelf ∧ (logAlert s code).txFlows = s.txFlows ∧
    (logAlert s code).rxFlows = s.rxFlows ∧ (logAlert s code).paused = s.paused ∧ (logAlert s code).portTurns = s.portTurns ∧
    (logAlert s code).sublinks = s.sublinks ∧ (logAlert s code).links = s.links ∧ (logAlert s code).twyQ = s.twyQ ∧
    (logAlert s code).twyTurn = s.twyTurn ∧ (logAlert s code).twySigs = s.twySigs ∧ (logAlert s code).twyIn = s.twyIn ∧
    (logAlert s code).rounds = s.rounds ∧ (logAlert s code).snaps = s.snaps ∧ (logAlert s code).holdOps = s.holdOps ∧
    (logAlert s code).strands = s.strands ∧ (logAlert s code).flash = s.flash ∧ (logAlert s code).hl = s.hl ∧
    (logAlert s code).jobCmds = s.jobCmds ∧ (logAlert s code).releasing = s.releasing ∧
    (logAlert s code).invalBusy = s.invalBusy ∧ (logAlert s code).hostWait = s.hostWait ∧
    (logAlert s code).heldMsgs = s.heldMsgs ∧ (logAlert s code).capAt = s.capAt ∧ (logAlert s code).freeCount = s.freeCount := by
  unfold logAlert
  repeat' split
  all_goals simp

@[simp] theorem logAdd_frame (s : State) (code index source info value : Nat) :
    (logAdd s code index source info value).pending = s.pending ∧ (logAdd s code index source info value).heldCmds = s.heldCmds ∧
    (logAdd s code index source info value).xlats = s.xlats ∧ (logAdd s code index source info value).images = s.images ∧
    (logAdd s code index source info value).bankAt = s.bankAt ∧ (logAdd s code index source info value).grade = s.grade ∧
    (logAdd s code index source info value).latch = s.latch ∧ (logAdd s code index source info value).blks = s.blks ∧
    (logAdd s code index source info value).cycles = s.cycles ∧ (logAdd s code index source info value).clks = s.clks ∧
    (logAdd s code index source info value).clkBase = s.clkBase ∧ (logAdd s code index source info value).devInit = s.devInit ∧
    (logAdd s code index source info value).devPolicy = s.devPolicy ∧
    (logAdd s code index source info value).sounded = s.sounded ∧ (logAdd s code index source info value).hbm = s.hbm ∧
    (logAdd s code index source info value).host = s.host ∧ (logAdd s code index source info value).sram = s.sram ∧
    (logAdd s code index source info value).hbmPoison = s.hbmPoison ∧
    (logAdd s code index source info value).sramPoison = s.sramPoison ∧
    (logAdd s code index source info value).hbmUpset = s.hbmUpset ∧
    (logAdd s code index source info value).sramUpset = s.sramUpset ∧ (logAdd s code index source info value).queues = s.queues ∧
    (logAdd s code index source info value).rings = s.rings ∧ (logAdd s code index source info value).tms = s.tms ∧
    (logAdd s code index source info value).tmLatch = s.tmLatch ∧ (logAdd s code index source info value).ops = s.ops ∧
    (logAdd s code index source info value).starts = s.starts ∧ (logAdd s code index source info value).pends = s.pends ∧
    (logAdd s code index source info value).stalls = s.stalls ∧ (logAdd s code index source info value).escs = s.escs ∧
    (logAdd s code index source info value).reports = s.reports ∧ (logAdd s code index source info value).owners = s.owners ∧
    (logAdd s code index source info value).valleys = s.valleys ∧ (logAdd s code index source info value).cores = s.cores ∧
    (logAdd s code index source info value).chans = s.chans ∧ (logAdd s code index source info value).streams = s.streams ∧
    (logAdd s code index source info value).engTurn = s.engTurn ∧ (logAdd s code index source info value).handoffs = s.handoffs ∧
    (logAdd s code index source info value).lines = s.lines ∧ (logAdd s code index source info value).berms = s.berms ∧
    (logAdd s code index source info value).patrols = s.patrols ∧ (logAdd s code index source info value).ctxs = s.ctxs ∧
    (logAdd s code index source info value).estWait = s.estWait ∧ (logAdd s code index source info value).early = s.early ∧
    (logAdd s code index source info value).estLast = s.estLast ∧ (logAdd s code index source info value).estSelf = s.estSelf ∧
    (logAdd s code index source info value).txFlows = s.txFlows ∧ (logAdd s code index source info value).rxFlows = s.rxFlows ∧
    (logAdd s code index source info value).paused = s.paused ∧ (logAdd s code index source info value).portTurns = s.portTurns ∧
    (logAdd s code index source info value).sublinks = s.sublinks ∧ (logAdd s code index source info value).links = s.links ∧
    (logAdd s code index source info value).twyQ = s.twyQ ∧ (logAdd s code index source info value).twyTurn = s.twyTurn ∧
    (logAdd s code index source info value).twySigs = s.twySigs ∧ (logAdd s code index source info value).twyIn = s.twyIn ∧
    (logAdd s code index source info value).rounds = s.rounds ∧ (logAdd s code index source info value).snaps = s.snaps ∧
    (logAdd s code index source info value).holdOps = s.holdOps ∧ (logAdd s code index source info value).strands = s.strands ∧
    (logAdd s code index source info value).flash = s.flash ∧ (logAdd s code index source info value).jobCmds = s.jobCmds ∧
    (logAdd s code index source info value).releasing = s.releasing ∧
    (logAdd s code index source info value).invalBusy = s.invalBusy ∧
    (logAdd s code index source info value).hostWait = s.hostWait ∧
    (logAdd s code index source info value).heldMsgs = s.heldMsgs ∧ (logAdd s code index source info value).capAt = s.capAt ∧
    (logAdd s code index source info value).freeCount = s.freeCount := by
  unfold logAdd
  simp

@[simp] theorem ckptEvent_frame (s : State) (k : Nat) :
    (ckptEvent s k).pending = s.pending ∧ (ckptEvent s k).heldCmds = s.heldCmds ∧ (ckptEvent s k).xlats = s.xlats ∧
    (ckptEvent s k).images = s.images ∧ (ckptEvent s k).bankAt = s.bankAt ∧ (ckptEvent s k).grade = s.grade ∧
    (ckptEvent s k).regs = s.regs ∧ (ckptEvent s k).latch = s.latch ∧ (ckptEvent s k).blks = s.blks ∧
    (ckptEvent s k).cycles = s.cycles ∧ (ckptEvent s k).clks = s.clks ∧ (ckptEvent s k).clkBase = s.clkBase ∧
    (ckptEvent s k).devInit = s.devInit ∧ (ckptEvent s k).devPolicy = s.devPolicy ∧ (ckptEvent s k).sounded = s.sounded ∧
    (ckptEvent s k).hbm = s.hbm ∧ (ckptEvent s k).host = s.host ∧ (ckptEvent s k).sram = s.sram ∧
    (ckptEvent s k).hbmPoison = s.hbmPoison ∧ (ckptEvent s k).sramPoison = s.sramPoison ∧ (ckptEvent s k).hbmUpset = s.hbmUpset ∧
    (ckptEvent s k).sramUpset = s.sramUpset ∧ (ckptEvent s k).queues = s.queues ∧ (ckptEvent s k).rings = s.rings ∧
    (ckptEvent s k).tms = s.tms ∧ (ckptEvent s k).tmLatch = s.tmLatch ∧ (ckptEvent s k).ops = s.ops ∧
    (ckptEvent s k).starts = s.starts ∧ (ckptEvent s k).pends = s.pends ∧ (ckptEvent s k).stalls = s.stalls ∧
    (ckptEvent s k).escs = s.escs ∧ (ckptEvent s k).reports = s.reports ∧ (ckptEvent s k).owners = s.owners ∧
    (ckptEvent s k).valleys = s.valleys ∧ (ckptEvent s k).cores = s.cores ∧ (ckptEvent s k).chans = s.chans ∧
    (ckptEvent s k).streams = s.streams ∧ (ckptEvent s k).engTurn = s.engTurn ∧ (ckptEvent s k).handoffs = s.handoffs ∧
    (ckptEvent s k).lines = s.lines ∧ (ckptEvent s k).berms = s.berms ∧ (ckptEvent s k).patrols = s.patrols ∧
    (ckptEvent s k).ctxs = s.ctxs ∧ (ckptEvent s k).estWait = s.estWait ∧ (ckptEvent s k).early = s.early ∧
    (ckptEvent s k).estLast = s.estLast ∧ (ckptEvent s k).estSelf = s.estSelf ∧ (ckptEvent s k).txFlows = s.txFlows ∧
    (ckptEvent s k).rxFlows = s.rxFlows ∧ (ckptEvent s k).paused = s.paused ∧ (ckptEvent s k).portTurns = s.portTurns ∧
    (ckptEvent s k).sublinks = s.sublinks ∧ (ckptEvent s k).links = s.links ∧ (ckptEvent s k).twyQ = s.twyQ ∧
    (ckptEvent s k).twyTurn = s.twyTurn ∧ (ckptEvent s k).twySigs = s.twySigs ∧ (ckptEvent s k).twyIn = s.twyIn ∧
    (ckptEvent s k).rounds = s.rounds ∧ (ckptEvent s k).snaps = s.snaps ∧ (ckptEvent s k).holdOps = s.holdOps ∧
    (ckptEvent s k).strands = s.strands ∧ (ckptEvent s k).flash = s.flash ∧ (ckptEvent s k).jobCmds = s.jobCmds ∧
    (ckptEvent s k).releasing = s.releasing ∧ (ckptEvent s k).invalBusy = s.invalBusy ∧ (ckptEvent s k).hostWait = s.hostWait ∧
    (ckptEvent s k).heldMsgs = s.heldMsgs ∧ (ckptEvent s k).capAt = s.capAt ∧ (ckptEvent s k).freeCount = s.freeCount ∧
    (ckptEvent s k).out = s.out :=
  ⟨rfl, rfl, rfl, rfl, rfl, rfl, rfl, rfl, rfl, rfl, rfl, rfl, rfl, rfl, rfl, rfl, rfl, rfl, rfl, rfl, rfl, rfl, rfl, rfl, rfl, rfl,
    rfl, rfl, rfl, rfl, rfl, rfl, rfl, rfl, rfl, rfl, rfl, rfl, rfl, rfl, rfl, rfl, rfl, rfl, rfl, rfl, rfl, rfl, rfl, rfl, rfl, rfl,
    rfl, rfl, rfl, rfl, rfl, rfl, rfl, rfl, rfl, rfl, rfl, rfl, rfl, rfl, rfl, rfl, rfl, rfl⟩

@[simp] theorem captureFirst_frame (s : State) (pg b : Nat) :
    (captureFirst s pg b).pending = s.pending ∧ (captureFirst s pg b).heldCmds = s.heldCmds ∧
    (captureFirst s pg b).xlats = s.xlats ∧ (captureFirst s pg b).images = s.images ∧ (captureFirst s pg b).bankAt = s.bankAt ∧
    (captureFirst s pg b).grade = s.grade ∧ (captureFirst s pg b).latch = s.latch ∧ (captureFirst s pg b).blks = s.blks ∧
    (captureFirst s pg b).cycles = s.cycles ∧ (captureFirst s pg b).clks = s.clks ∧ (captureFirst s pg b).clkBase = s.clkBase ∧
    (captureFirst s pg b).devInit = s.devInit ∧ (captureFirst s pg b).devPolicy = s.devPolicy ∧
    (captureFirst s pg b).sounded = s.sounded ∧ (captureFirst s pg b).hbm = s.hbm ∧ (captureFirst s pg b).host = s.host ∧
    (captureFirst s pg b).sram = s.sram ∧ (captureFirst s pg b).hbmPoison = s.hbmPoison ∧
    (captureFirst s pg b).sramPoison = s.sramPoison ∧ (captureFirst s pg b).hbmUpset = s.hbmUpset ∧
    (captureFirst s pg b).sramUpset = s.sramUpset ∧ (captureFirst s pg b).queues = s.queues ∧
    (captureFirst s pg b).rings = s.rings ∧ (captureFirst s pg b).tms = s.tms ∧ (captureFirst s pg b).tmLatch = s.tmLatch ∧
    (captureFirst s pg b).ops = s.ops ∧ (captureFirst s pg b).starts = s.starts ∧ (captureFirst s pg b).pends = s.pends ∧
    (captureFirst s pg b).stalls = s.stalls ∧ (captureFirst s pg b).escs = s.escs ∧ (captureFirst s pg b).reports = s.reports ∧
    (captureFirst s pg b).owners = s.owners ∧ (captureFirst s pg b).valleys = s.valleys ∧ (captureFirst s pg b).cores = s.cores ∧
    (captureFirst s pg b).chans = s.chans ∧ (captureFirst s pg b).streams = s.streams ∧
    (captureFirst s pg b).engTurn = s.engTurn ∧ (captureFirst s pg b).handoffs = s.handoffs ∧
    (captureFirst s pg b).lines = s.lines ∧ (captureFirst s pg b).berms = s.berms ∧ (captureFirst s pg b).patrols = s.patrols ∧
    (captureFirst s pg b).ctxs = s.ctxs ∧ (captureFirst s pg b).estWait = s.estWait ∧ (captureFirst s pg b).early = s.early ∧
    (captureFirst s pg b).estLast = s.estLast ∧ (captureFirst s pg b).estSelf = s.estSelf ∧
    (captureFirst s pg b).txFlows = s.txFlows ∧ (captureFirst s pg b).rxFlows = s.rxFlows ∧
    (captureFirst s pg b).paused = s.paused ∧ (captureFirst s pg b).portTurns = s.portTurns ∧
    (captureFirst s pg b).sublinks = s.sublinks ∧ (captureFirst s pg b).links = s.links ∧ (captureFirst s pg b).twyQ = s.twyQ ∧
    (captureFirst s pg b).twyTurn = s.twyTurn ∧ (captureFirst s pg b).twySigs = s.twySigs ∧
    (captureFirst s pg b).twyIn = s.twyIn ∧ (captureFirst s pg b).rounds = s.rounds ∧ (captureFirst s pg b).snaps = s.snaps ∧
    (captureFirst s pg b).holdOps = s.holdOps ∧ (captureFirst s pg b).strands = s.strands ∧
    (captureFirst s pg b).flash = s.flash ∧ (captureFirst s pg b).hl = s.hl ∧ (captureFirst s pg b).jobCmds = s.jobCmds ∧
    (captureFirst s pg b).releasing = s.releasing ∧ (captureFirst s pg b).invalBusy = s.invalBusy ∧
    (captureFirst s pg b).hostWait = s.hostWait ∧ (captureFirst s pg b).heldMsgs = s.heldMsgs ∧
    (captureFirst s pg b).capAt = s.capAt ∧ (captureFirst s pg b).freeCount = s.freeCount ∧ (captureFirst s pg b).out = s.out := by
  unfold captureFirst
  split <;> simp

@[simp] theorem countErr_frame (s : State) (pg b : Nat) :
    (countErr s pg b).pending = s.pending ∧ (countErr s pg b).heldCmds = s.heldCmds ∧ (countErr s pg b).xlats = s.xlats ∧
    (countErr s pg b).images = s.images ∧ (countErr s pg b).bankAt = s.bankAt ∧ (countErr s pg b).grade = s.grade ∧
    (countErr s pg b).latch = s.latch ∧ (countErr s pg b).blks = s.blks ∧ (countErr s pg b).cycles = s.cycles ∧
    (countErr s pg b).clks = s.clks ∧ (countErr s pg b).clkBase = s.clkBase ∧ (countErr s pg b).devInit = s.devInit ∧
    (countErr s pg b).devPolicy = s.devPolicy ∧ (countErr s pg b).sounded = s.sounded ∧ (countErr s pg b).hbm = s.hbm ∧
    (countErr s pg b).host = s.host ∧ (countErr s pg b).sram = s.sram ∧ (countErr s pg b).hbmPoison = s.hbmPoison ∧
    (countErr s pg b).sramPoison = s.sramPoison ∧ (countErr s pg b).hbmUpset = s.hbmUpset ∧
    (countErr s pg b).sramUpset = s.sramUpset ∧ (countErr s pg b).queues = s.queues ∧ (countErr s pg b).rings = s.rings ∧
    (countErr s pg b).tms = s.tms ∧ (countErr s pg b).tmLatch = s.tmLatch ∧ (countErr s pg b).ops = s.ops ∧
    (countErr s pg b).starts = s.starts ∧ (countErr s pg b).pends = s.pends ∧ (countErr s pg b).stalls = s.stalls ∧
    (countErr s pg b).escs = s.escs ∧ (countErr s pg b).reports = s.reports ∧ (countErr s pg b).owners = s.owners ∧
    (countErr s pg b).valleys = s.valleys ∧ (countErr s pg b).cores = s.cores ∧ (countErr s pg b).chans = s.chans ∧
    (countErr s pg b).streams = s.streams ∧ (countErr s pg b).engTurn = s.engTurn ∧ (countErr s pg b).handoffs = s.handoffs ∧
    (countErr s pg b).lines = s.lines ∧ (countErr s pg b).berms = s.berms ∧ (countErr s pg b).patrols = s.patrols ∧
    (countErr s pg b).ctxs = s.ctxs ∧ (countErr s pg b).estWait = s.estWait ∧ (countErr s pg b).early = s.early ∧
    (countErr s pg b).estLast = s.estLast ∧ (countErr s pg b).estSelf = s.estSelf ∧ (countErr s pg b).txFlows = s.txFlows ∧
    (countErr s pg b).rxFlows = s.rxFlows ∧ (countErr s pg b).paused = s.paused ∧ (countErr s pg b).portTurns = s.portTurns ∧
    (countErr s pg b).sublinks = s.sublinks ∧ (countErr s pg b).links = s.links ∧ (countErr s pg b).twyQ = s.twyQ ∧
    (countErr s pg b).twyTurn = s.twyTurn ∧ (countErr s pg b).twySigs = s.twySigs ∧ (countErr s pg b).twyIn = s.twyIn ∧
    (countErr s pg b).rounds = s.rounds ∧ (countErr s pg b).snaps = s.snaps ∧ (countErr s pg b).holdOps = s.holdOps ∧
    (countErr s pg b).strands = s.strands ∧ (countErr s pg b).flash = s.flash ∧ (countErr s pg b).hl = s.hl ∧
    (countErr s pg b).jobCmds = s.jobCmds ∧ (countErr s pg b).releasing = s.releasing ∧
    (countErr s pg b).invalBusy = s.invalBusy ∧ (countErr s pg b).hostWait = s.hostWait ∧
    (countErr s pg b).heldMsgs = s.heldMsgs ∧ (countErr s pg b).capAt = s.capAt ∧ (countErr s pg b).freeCount = s.freeCount ∧
    (countErr s pg b).out = s.out := by
  unfold countErr
  split <;> simp

@[simp] theorem errSet_frame (s : State) (pg b : Nat) :
    (errSet s pg b).pending = s.pending ∧ (errSet s pg b).heldCmds = s.heldCmds ∧ (errSet s pg b).xlats = s.xlats ∧
    (errSet s pg b).images = s.images ∧ (errSet s pg b).bankAt = s.bankAt ∧ (errSet s pg b).grade = s.grade ∧
    (errSet s pg b).latch = s.latch ∧ (errSet s pg b).blks = s.blks ∧ (errSet s pg b).cycles = s.cycles ∧
    (errSet s pg b).clks = s.clks ∧ (errSet s pg b).clkBase = s.clkBase ∧ (errSet s pg b).devInit = s.devInit ∧
    (errSet s pg b).devPolicy = s.devPolicy ∧ (errSet s pg b).sounded = s.sounded ∧ (errSet s pg b).hbm = s.hbm ∧
    (errSet s pg b).host = s.host ∧ (errSet s pg b).sram = s.sram ∧ (errSet s pg b).hbmPoison = s.hbmPoison ∧
    (errSet s pg b).sramPoison = s.sramPoison ∧ (errSet s pg b).hbmUpset = s.hbmUpset ∧ (errSet s pg b).sramUpset = s.sramUpset ∧
    (errSet s pg b).queues = s.queues ∧ (errSet s pg b).rings = s.rings ∧ (errSet s pg b).tms = s.tms ∧
    (errSet s pg b).tmLatch = s.tmLatch ∧ (errSet s pg b).ops = s.ops ∧ (errSet s pg b).starts = s.starts ∧
    (errSet s pg b).pends = s.pends ∧ (errSet s pg b).stalls = s.stalls ∧ (errSet s pg b).escs = s.escs ∧
    (errSet s pg b).reports = s.reports ∧ (errSet s pg b).owners = s.owners ∧ (errSet s pg b).valleys = s.valleys ∧
    (errSet s pg b).cores = s.cores ∧ (errSet s pg b).chans = s.chans ∧ (errSet s pg b).streams = s.streams ∧
    (errSet s pg b).engTurn = s.engTurn ∧ (errSet s pg b).handoffs = s.handoffs ∧ (errSet s pg b).lines = s.lines ∧
    (errSet s pg b).berms = s.berms ∧ (errSet s pg b).patrols = s.patrols ∧ (errSet s pg b).ctxs = s.ctxs ∧
    (errSet s pg b).estWait = s.estWait ∧ (errSet s pg b).early = s.early ∧ (errSet s pg b).estLast = s.estLast ∧
    (errSet s pg b).estSelf = s.estSelf ∧ (errSet s pg b).txFlows = s.txFlows ∧ (errSet s pg b).rxFlows = s.rxFlows ∧
    (errSet s pg b).paused = s.paused ∧ (errSet s pg b).portTurns = s.portTurns ∧ (errSet s pg b).sublinks = s.sublinks ∧
    (errSet s pg b).links = s.links ∧ (errSet s pg b).twyQ = s.twyQ ∧ (errSet s pg b).twyTurn = s.twyTurn ∧
    (errSet s pg b).twySigs = s.twySigs ∧ (errSet s pg b).twyIn = s.twyIn ∧ (errSet s pg b).rounds = s.rounds ∧
    (errSet s pg b).snaps = s.snaps ∧ (errSet s pg b).holdOps = s.holdOps ∧ (errSet s pg b).strands = s.strands ∧
    (errSet s pg b).flash = s.flash ∧ (errSet s pg b).jobCmds = s.jobCmds ∧ (errSet s pg b).releasing = s.releasing ∧
    (errSet s pg b).invalBusy = s.invalBusy ∧ (errSet s pg b).hostWait = s.hostWait ∧ (errSet s pg b).heldMsgs = s.heldMsgs ∧
    (errSet s pg b).capAt = s.capAt ∧ (errSet s pg b).freeCount = s.freeCount := by
  unfold errSet
  dsimp only
  split <;> simp

@[simp] theorem evtSet_frame (s : State) (pg b : Nat) :
    (evtSet s pg b).pending = s.pending ∧ (evtSet s pg b).heldCmds = s.heldCmds ∧ (evtSet s pg b).xlats = s.xlats ∧
    (evtSet s pg b).images = s.images ∧ (evtSet s pg b).bankAt = s.bankAt ∧ (evtSet s pg b).grade = s.grade ∧
    (evtSet s pg b).latch = s.latch ∧ (evtSet s pg b).blks = s.blks ∧ (evtSet s pg b).cycles = s.cycles ∧
    (evtSet s pg b).clks = s.clks ∧ (evtSet s pg b).clkBase = s.clkBase ∧ (evtSet s pg b).devInit = s.devInit ∧
    (evtSet s pg b).devPolicy = s.devPolicy ∧ (evtSet s pg b).sounded = s.sounded ∧ (evtSet s pg b).hbm = s.hbm ∧
    (evtSet s pg b).host = s.host ∧ (evtSet s pg b).sram = s.sram ∧ (evtSet s pg b).hbmPoison = s.hbmPoison ∧
    (evtSet s pg b).sramPoison = s.sramPoison ∧ (evtSet s pg b).hbmUpset = s.hbmUpset ∧ (evtSet s pg b).sramUpset = s.sramUpset ∧
    (evtSet s pg b).queues = s.queues ∧ (evtSet s pg b).rings = s.rings ∧ (evtSet s pg b).tms = s.tms ∧
    (evtSet s pg b).tmLatch = s.tmLatch ∧ (evtSet s pg b).ops = s.ops ∧ (evtSet s pg b).starts = s.starts ∧
    (evtSet s pg b).pends = s.pends ∧ (evtSet s pg b).stalls = s.stalls ∧ (evtSet s pg b).escs = s.escs ∧
    (evtSet s pg b).reports = s.reports ∧ (evtSet s pg b).owners = s.owners ∧ (evtSet s pg b).valleys = s.valleys ∧
    (evtSet s pg b).cores = s.cores ∧ (evtSet s pg b).chans = s.chans ∧ (evtSet s pg b).streams = s.streams ∧
    (evtSet s pg b).engTurn = s.engTurn ∧ (evtSet s pg b).handoffs = s.handoffs ∧ (evtSet s pg b).lines = s.lines ∧
    (evtSet s pg b).berms = s.berms ∧ (evtSet s pg b).patrols = s.patrols ∧ (evtSet s pg b).ctxs = s.ctxs ∧
    (evtSet s pg b).estWait = s.estWait ∧ (evtSet s pg b).early = s.early ∧ (evtSet s pg b).estLast = s.estLast ∧
    (evtSet s pg b).estSelf = s.estSelf ∧ (evtSet s pg b).txFlows = s.txFlows ∧ (evtSet s pg b).rxFlows = s.rxFlows ∧
    (evtSet s pg b).paused = s.paused ∧ (evtSet s pg b).portTurns = s.portTurns ∧ (evtSet s pg b).sublinks = s.sublinks ∧
    (evtSet s pg b).links = s.links ∧ (evtSet s pg b).twyQ = s.twyQ ∧ (evtSet s pg b).twyTurn = s.twyTurn ∧
    (evtSet s pg b).twySigs = s.twySigs ∧ (evtSet s pg b).twyIn = s.twyIn ∧ (evtSet s pg b).rounds = s.rounds ∧
    (evtSet s pg b).snaps = s.snaps ∧ (evtSet s pg b).holdOps = s.holdOps ∧ (evtSet s pg b).strands = s.strands ∧
    (evtSet s pg b).flash = s.flash ∧ (evtSet s pg b).jobCmds = s.jobCmds ∧ (evtSet s pg b).releasing = s.releasing ∧
    (evtSet s pg b).invalBusy = s.invalBusy ∧ (evtSet s pg b).hostWait = s.hostWait ∧ (evtSet s pg b).heldMsgs = s.heldMsgs ∧
    (evtSet s pg b).capAt = s.capAt ∧ (evtSet s pg b).freeCount = s.freeCount := by
  unfold evtSet
  dsimp only
  split <;> simp

@[simp] theorem badWrite_frame (s : State) (pg : Nat) :
    (badWrite s pg).pending = s.pending ∧ (badWrite s pg).heldCmds = s.heldCmds ∧ (badWrite s pg).xlats = s.xlats ∧
    (badWrite s pg).images = s.images ∧ (badWrite s pg).bankAt = s.bankAt ∧ (badWrite s pg).grade = s.grade ∧
    (badWrite s pg).latch = s.latch ∧ (badWrite s pg).blks = s.blks ∧ (badWrite s pg).cycles = s.cycles ∧
    (badWrite s pg).clks = s.clks ∧ (badWrite s pg).clkBase = s.clkBase ∧ (badWrite s pg).devInit = s.devInit ∧
    (badWrite s pg).devPolicy = s.devPolicy ∧ (badWrite s pg).sounded = s.sounded ∧ (badWrite s pg).hbm = s.hbm ∧
    (badWrite s pg).host = s.host ∧ (badWrite s pg).sram = s.sram ∧ (badWrite s pg).hbmPoison = s.hbmPoison ∧
    (badWrite s pg).sramPoison = s.sramPoison ∧ (badWrite s pg).hbmUpset = s.hbmUpset ∧ (badWrite s pg).sramUpset = s.sramUpset ∧
    (badWrite s pg).queues = s.queues ∧ (badWrite s pg).rings = s.rings ∧ (badWrite s pg).tms = s.tms ∧
    (badWrite s pg).tmLatch = s.tmLatch ∧ (badWrite s pg).ops = s.ops ∧ (badWrite s pg).starts = s.starts ∧
    (badWrite s pg).pends = s.pends ∧ (badWrite s pg).stalls = s.stalls ∧ (badWrite s pg).escs = s.escs ∧
    (badWrite s pg).reports = s.reports ∧ (badWrite s pg).owners = s.owners ∧ (badWrite s pg).valleys = s.valleys ∧
    (badWrite s pg).cores = s.cores ∧ (badWrite s pg).chans = s.chans ∧ (badWrite s pg).streams = s.streams ∧
    (badWrite s pg).engTurn = s.engTurn ∧ (badWrite s pg).handoffs = s.handoffs ∧ (badWrite s pg).lines = s.lines ∧
    (badWrite s pg).berms = s.berms ∧ (badWrite s pg).patrols = s.patrols ∧ (badWrite s pg).ctxs = s.ctxs ∧
    (badWrite s pg).estWait = s.estWait ∧ (badWrite s pg).early = s.early ∧ (badWrite s pg).estLast = s.estLast ∧
    (badWrite s pg).estSelf = s.estSelf ∧ (badWrite s pg).txFlows = s.txFlows ∧ (badWrite s pg).rxFlows = s.rxFlows ∧
    (badWrite s pg).paused = s.paused ∧ (badWrite s pg).portTurns = s.portTurns ∧ (badWrite s pg).sublinks = s.sublinks ∧
    (badWrite s pg).links = s.links ∧ (badWrite s pg).twyQ = s.twyQ ∧ (badWrite s pg).twyTurn = s.twyTurn ∧
    (badWrite s pg).twySigs = s.twySigs ∧ (badWrite s pg).twyIn = s.twyIn ∧ (badWrite s pg).rounds = s.rounds ∧
    (badWrite s pg).snaps = s.snaps ∧ (badWrite s pg).holdOps = s.holdOps ∧ (badWrite s pg).strands = s.strands ∧
    (badWrite s pg).flash = s.flash ∧ (badWrite s pg).jobCmds = s.jobCmds ∧ (badWrite s pg).releasing = s.releasing ∧
    (badWrite s pg).invalBusy = s.invalBusy ∧ (badWrite s pg).hostWait = s.hostWait ∧ (badWrite s pg).heldMsgs = s.heldMsgs ∧
    (badWrite s pg).capAt = s.capAt ∧ (badWrite s pg).freeCount = s.freeCount := by
  unfold badWrite
  simp

@[simp] theorem setState_frame (s : State) (pg st : Nat) :
    (setState s pg st).pending = s.pending ∧ (setState s pg st).heldCmds = s.heldCmds ∧ (setState s pg st).xlats = s.xlats ∧
    (setState s pg st).images = s.images ∧ (setState s pg st).bankAt = s.bankAt ∧ (setState s pg st).grade = s.grade ∧
    (setState s pg st).latch = s.latch ∧ (setState s pg st).blks = s.blks ∧ (setState s pg st).cycles = s.cycles ∧
    (setState s pg st).clks = s.clks ∧ (setState s pg st).clkBase = s.clkBase ∧ (setState s pg st).devInit = s.devInit ∧
    (setState s pg st).devPolicy = s.devPolicy ∧ (setState s pg st).sounded = s.sounded ∧ (setState s pg st).hbm = s.hbm ∧
    (setState s pg st).host = s.host ∧ (setState s pg st).sram = s.sram ∧ (setState s pg st).hbmPoison = s.hbmPoison ∧
    (setState s pg st).sramPoison = s.sramPoison ∧ (setState s pg st).hbmUpset = s.hbmUpset ∧
    (setState s pg st).sramUpset = s.sramUpset ∧ (setState s pg st).queues = s.queues ∧ (setState s pg st).rings = s.rings ∧
    (setState s pg st).tms = s.tms ∧ (setState s pg st).tmLatch = s.tmLatch ∧ (setState s pg st).ops = s.ops ∧
    (setState s pg st).starts = s.starts ∧ (setState s pg st).pends = s.pends ∧ (setState s pg st).stalls = s.stalls ∧
    (setState s pg st).escs = s.escs ∧ (setState s pg st).reports = s.reports ∧ (setState s pg st).owners = s.owners ∧
    (setState s pg st).valleys = s.valleys ∧ (setState s pg st).cores = s.cores ∧ (setState s pg st).chans = s.chans ∧
    (setState s pg st).streams = s.streams ∧ (setState s pg st).engTurn = s.engTurn ∧ (setState s pg st).handoffs = s.handoffs ∧
    (setState s pg st).lines = s.lines ∧ (setState s pg st).berms = s.berms ∧ (setState s pg st).patrols = s.patrols ∧
    (setState s pg st).ctxs = s.ctxs ∧ (setState s pg st).estWait = s.estWait ∧ (setState s pg st).early = s.early ∧
    (setState s pg st).estLast = s.estLast ∧ (setState s pg st).estSelf = s.estSelf ∧ (setState s pg st).txFlows = s.txFlows ∧
    (setState s pg st).rxFlows = s.rxFlows ∧ (setState s pg st).paused = s.paused ∧ (setState s pg st).portTurns = s.portTurns ∧
    (setState s pg st).sublinks = s.sublinks ∧ (setState s pg st).links = s.links ∧ (setState s pg st).twyQ = s.twyQ ∧
    (setState s pg st).twyTurn = s.twyTurn ∧ (setState s pg st).twySigs = s.twySigs ∧ (setState s pg st).twyIn = s.twyIn ∧
    (setState s pg st).rounds = s.rounds ∧ (setState s pg st).snaps = s.snaps ∧ (setState s pg st).holdOps = s.holdOps ∧
    (setState s pg st).strands = s.strands ∧ (setState s pg st).flash = s.flash ∧ (setState s pg st).jobCmds = s.jobCmds ∧
    (setState s pg st).releasing = s.releasing ∧ (setState s pg st).invalBusy = s.invalBusy ∧
    (setState s pg st).hostWait = s.hostWait ∧ (setState s pg st).heldMsgs = s.heldMsgs ∧ (setState s pg st).capAt = s.capAt ∧
    (setState s pg st).freeCount = s.freeCount := by
  unfold setState
  simp only []
  split <;> simp

@[simp] theorem workState_frame (s : State) (pg : Nat) (busy : Bool) :
    (workState s pg busy).pending = s.pending ∧ (workState s pg busy).heldCmds = s.heldCmds ∧
    (workState s pg busy).xlats = s.xlats ∧ (workState s pg busy).images = s.images ∧ (workState s pg busy).bankAt = s.bankAt ∧
    (workState s pg busy).grade = s.grade ∧ (workState s pg busy).latch = s.latch ∧ (workState s pg busy).blks = s.blks ∧
    (workState s pg busy).cycles = s.cycles ∧ (workState s pg busy).clks = s.clks ∧ (workState s pg busy).clkBase = s.clkBase ∧
    (workState s pg busy).devInit = s.devInit ∧ (workState s pg busy).devPolicy = s.devPolicy ∧
    (workState s pg busy).sounded = s.sounded ∧ (workState s pg busy).hbm = s.hbm ∧ (workState s pg busy).host = s.host ∧
    (workState s pg busy).sram = s.sram ∧ (workState s pg busy).hbmPoison = s.hbmPoison ∧
    (workState s pg busy).sramPoison = s.sramPoison ∧ (workState s pg busy).hbmUpset = s.hbmUpset ∧
    (workState s pg busy).sramUpset = s.sramUpset ∧ (workState s pg busy).queues = s.queues ∧
    (workState s pg busy).rings = s.rings ∧ (workState s pg busy).tms = s.tms ∧ (workState s pg busy).tmLatch = s.tmLatch ∧
    (workState s pg busy).ops = s.ops ∧ (workState s pg busy).starts = s.starts ∧ (workState s pg busy).pends = s.pends ∧
    (workState s pg busy).stalls = s.stalls ∧ (workState s pg busy).escs = s.escs ∧ (workState s pg busy).reports = s.reports ∧
    (workState s pg busy).owners = s.owners ∧ (workState s pg busy).valleys = s.valleys ∧ (workState s pg busy).cores = s.cores ∧
    (workState s pg busy).chans = s.chans ∧ (workState s pg busy).streams = s.streams ∧
    (workState s pg busy).engTurn = s.engTurn ∧ (workState s pg busy).handoffs = s.handoffs ∧
    (workState s pg busy).lines = s.lines ∧ (workState s pg busy).berms = s.berms ∧ (workState s pg busy).patrols = s.patrols ∧
    (workState s pg busy).ctxs = s.ctxs ∧ (workState s pg busy).estWait = s.estWait ∧ (workState s pg busy).early = s.early ∧
    (workState s pg busy).estLast = s.estLast ∧ (workState s pg busy).estSelf = s.estSelf ∧
    (workState s pg busy).txFlows = s.txFlows ∧ (workState s pg busy).rxFlows = s.rxFlows ∧
    (workState s pg busy).paused = s.paused ∧ (workState s pg busy).portTurns = s.portTurns ∧
    (workState s pg busy).sublinks = s.sublinks ∧ (workState s pg busy).links = s.links ∧ (workState s pg busy).twyQ = s.twyQ ∧
    (workState s pg busy).twyTurn = s.twyTurn ∧ (workState s pg busy).twySigs = s.twySigs ∧
    (workState s pg busy).twyIn = s.twyIn ∧ (workState s pg busy).rounds = s.rounds ∧ (workState s pg busy).snaps = s.snaps ∧
    (workState s pg busy).holdOps = s.holdOps ∧ (workState s pg busy).strands = s.strands ∧
    (workState s pg busy).flash = s.flash ∧ (workState s pg busy).jobCmds = s.jobCmds ∧
    (workState s pg busy).releasing = s.releasing ∧ (workState s pg busy).invalBusy = s.invalBusy ∧
    (workState s pg busy).hostWait = s.hostWait ∧ (workState s pg busy).heldMsgs = s.heldMsgs ∧
    (workState s pg busy).capAt = s.capAt ∧ (workState s pg busy).freeCount = s.freeCount := by
  unfold workState
  repeat' split
  all_goals simp

@[simp] theorem setBlk_frame (s : State) (pg : Nat) (b : Blk) :
    (setBlk s pg b).pending = s.pending ∧ (setBlk s pg b).heldCmds = s.heldCmds ∧ (setBlk s pg b).xlats = s.xlats ∧
    (setBlk s pg b).images = s.images ∧ (setBlk s pg b).bankAt = s.bankAt ∧ (setBlk s pg b).grade = s.grade ∧
    (setBlk s pg b).regs = s.regs ∧ (setBlk s pg b).latch = s.latch ∧ (setBlk s pg b).cycles = s.cycles ∧
    (setBlk s pg b).clks = s.clks ∧ (setBlk s pg b).clkBase = s.clkBase ∧ (setBlk s pg b).devInit = s.devInit ∧
    (setBlk s pg b).devPolicy = s.devPolicy ∧ (setBlk s pg b).sounded = s.sounded ∧ (setBlk s pg b).hbm = s.hbm ∧
    (setBlk s pg b).host = s.host ∧ (setBlk s pg b).sram = s.sram ∧ (setBlk s pg b).hbmPoison = s.hbmPoison ∧
    (setBlk s pg b).sramPoison = s.sramPoison ∧ (setBlk s pg b).hbmUpset = s.hbmUpset ∧ (setBlk s pg b).sramUpset = s.sramUpset ∧
    (setBlk s pg b).queues = s.queues ∧ (setBlk s pg b).rings = s.rings ∧ (setBlk s pg b).tms = s.tms ∧
    (setBlk s pg b).tmLatch = s.tmLatch ∧ (setBlk s pg b).ops = s.ops ∧ (setBlk s pg b).starts = s.starts ∧
    (setBlk s pg b).pends = s.pends ∧ (setBlk s pg b).stalls = s.stalls ∧ (setBlk s pg b).escs = s.escs ∧
    (setBlk s pg b).reports = s.reports ∧ (setBlk s pg b).owners = s.owners ∧ (setBlk s pg b).valleys = s.valleys ∧
    (setBlk s pg b).cores = s.cores ∧ (setBlk s pg b).chans = s.chans ∧ (setBlk s pg b).streams = s.streams ∧
    (setBlk s pg b).engTurn = s.engTurn ∧ (setBlk s pg b).handoffs = s.handoffs ∧ (setBlk s pg b).lines = s.lines ∧
    (setBlk s pg b).berms = s.berms ∧ (setBlk s pg b).patrols = s.patrols ∧ (setBlk s pg b).ctxs = s.ctxs ∧
    (setBlk s pg b).estWait = s.estWait ∧ (setBlk s pg b).early = s.early ∧ (setBlk s pg b).estLast = s.estLast ∧
    (setBlk s pg b).estSelf = s.estSelf ∧ (setBlk s pg b).txFlows = s.txFlows ∧ (setBlk s pg b).rxFlows = s.rxFlows ∧
    (setBlk s pg b).paused = s.paused ∧ (setBlk s pg b).portTurns = s.portTurns ∧ (setBlk s pg b).sublinks = s.sublinks ∧
    (setBlk s pg b).links = s.links ∧ (setBlk s pg b).twyQ = s.twyQ ∧ (setBlk s pg b).twyTurn = s.twyTurn ∧
    (setBlk s pg b).twySigs = s.twySigs ∧ (setBlk s pg b).twyIn = s.twyIn ∧ (setBlk s pg b).rounds = s.rounds ∧
    (setBlk s pg b).snaps = s.snaps ∧ (setBlk s pg b).holdOps = s.holdOps ∧ (setBlk s pg b).strands = s.strands ∧
    (setBlk s pg b).flash = s.flash ∧ (setBlk s pg b).hl = s.hl ∧ (setBlk s pg b).jobCmds = s.jobCmds ∧
    (setBlk s pg b).releasing = s.releasing ∧ (setBlk s pg b).invalBusy = s.invalBusy ∧ (setBlk s pg b).hostWait = s.hostWait ∧
    (setBlk s pg b).heldMsgs = s.heldMsgs ∧ (setBlk s pg b).capAt = s.capAt ∧ (setBlk s pg b).freeCount = s.freeCount ∧
    (setBlk s pg b).out = s.out :=
  ⟨rfl, rfl, rfl, rfl, rfl, rfl, rfl, rfl, rfl, rfl, rfl, rfl, rfl, rfl, rfl, rfl, rfl, rfl, rfl, rfl, rfl, rfl, rfl, rfl, rfl, rfl,
    rfl, rfl, rfl, rfl, rfl, rfl, rfl, rfl, rfl, rfl, rfl, rfl, rfl, rfl, rfl, rfl, rfl, rfl, rfl, rfl, rfl, rfl, rfl, rfl, rfl, rfl,
    rfl, rfl, rfl, rfl, rfl, rfl, rfl, rfl, rfl, rfl, rfl, rfl, rfl, rfl, rfl, rfl, rfl, rfl⟩

@[simp] theorem setMapEntry_frame (s : State) (v n e : Nat) :
    (setMapEntry s v n e).pending = s.pending ∧ (setMapEntry s v n e).heldCmds = s.heldCmds ∧
    (setMapEntry s v n e).xlats = s.xlats ∧ (setMapEntry s v n e).images = s.images ∧ (setMapEntry s v n e).bankAt = s.bankAt ∧
    (setMapEntry s v n e).grade = s.grade ∧ (setMapEntry s v n e).regs = s.regs ∧ (setMapEntry s v n e).latch = s.latch ∧
    (setMapEntry s v n e).blks = s.blks ∧ (setMapEntry s v n e).cycles = s.cycles ∧ (setMapEntry s v n e).clks = s.clks ∧
    (setMapEntry s v n e).clkBase = s.clkBase ∧ (setMapEntry s v n e).devInit = s.devInit ∧
    (setMapEntry s v n e).devPolicy = s.devPolicy ∧ (setMapEntry s v n e).sounded = s.sounded ∧
    (setMapEntry s v n e).hbm = s.hbm ∧ (setMapEntry s v n e).host = s.host ∧ (setMapEntry s v n e).sram = s.sram ∧
    (setMapEntry s v n e).hbmPoison = s.hbmPoison ∧ (setMapEntry s v n e).sramPoison = s.sramPoison ∧
    (setMapEntry s v n e).hbmUpset = s.hbmUpset ∧ (setMapEntry s v n e).sramUpset = s.sramUpset ∧
    (setMapEntry s v n e).queues = s.queues ∧ (setMapEntry s v n e).rings = s.rings ∧ (setMapEntry s v n e).tms = s.tms ∧
    (setMapEntry s v n e).tmLatch = s.tmLatch ∧ (setMapEntry s v n e).ops = s.ops ∧ (setMapEntry s v n e).starts = s.starts ∧
    (setMapEntry s v n e).pends = s.pends ∧ (setMapEntry s v n e).stalls = s.stalls ∧ (setMapEntry s v n e).escs = s.escs ∧
    (setMapEntry s v n e).reports = s.reports ∧ (setMapEntry s v n e).owners = s.owners ∧
    (setMapEntry s v n e).valleys = s.valleys ∧ (setMapEntry s v n e).cores = s.cores ∧ (setMapEntry s v n e).chans = s.chans ∧
    (setMapEntry s v n e).streams = s.streams ∧ (setMapEntry s v n e).engTurn = s.engTurn ∧
    (setMapEntry s v n e).handoffs = s.handoffs ∧ (setMapEntry s v n e).lines = s.lines ∧ (setMapEntry s v n e).berms = s.berms ∧
    (setMapEntry s v n e).patrols = s.patrols ∧ (setMapEntry s v n e).ctxs = s.ctxs ∧ (setMapEntry s v n e).estWait = s.estWait ∧
    (setMapEntry s v n e).early = s.early ∧ (setMapEntry s v n e).estLast = s.estLast ∧
    (setMapEntry s v n e).estSelf = s.estSelf ∧ (setMapEntry s v n e).txFlows = s.txFlows ∧
    (setMapEntry s v n e).rxFlows = s.rxFlows ∧ (setMapEntry s v n e).paused = s.paused ∧
    (setMapEntry s v n e).portTurns = s.portTurns ∧ (setMapEntry s v n e).sublinks = s.sublinks ∧
    (setMapEntry s v n e).links = s.links ∧ (setMapEntry s v n e).twyQ = s.twyQ ∧ (setMapEntry s v n e).twyTurn = s.twyTurn ∧
    (setMapEntry s v n e).twySigs = s.twySigs ∧ (setMapEntry s v n e).twyIn = s.twyIn ∧ (setMapEntry s v n e).rounds = s.rounds ∧
    (setMapEntry s v n e).snaps = s.snaps ∧ (setMapEntry s v n e).holdOps = s.holdOps ∧
    (setMapEntry s v n e).strands = s.strands ∧ (setMapEntry s v n e).hl = s.hl ∧ (setMapEntry s v n e).jobCmds = s.jobCmds ∧
    (setMapEntry s v n e).releasing = s.releasing ∧ (setMapEntry s v n e).invalBusy = s.invalBusy ∧
    (setMapEntry s v n e).hostWait = s.hostWait ∧ (setMapEntry s v n e).heldMsgs = s.heldMsgs ∧
    (setMapEntry s v n e).capAt = s.capAt ∧ (setMapEntry s v n e).freeCount = s.freeCount ∧ (setMapEntry s v n e).out = s.out :=
  ⟨rfl, rfl, rfl, rfl, rfl, rfl, rfl, rfl, rfl, rfl, rfl, rfl, rfl, rfl, rfl, rfl, rfl, rfl, rfl, rfl, rfl, rfl, rfl, rfl, rfl, rfl,
    rfl, rfl, rfl, rfl, rfl, rfl, rfl, rfl, rfl, rfl, rfl, rfl, rfl, rfl, rfl, rfl, rfl, rfl, rfl, rfl, rfl, rfl, rfl, rfl, rfl, rfl,
    rfl, rfl, rfl, rfl, rfl, rfl, rfl, rfl, rfl, rfl, rfl, rfl, rfl, rfl, rfl, rfl, rfl, rfl⟩

@[simp] theorem setQ_frame (s : State) (q : Nat) (x : Queue) :
    (setQ s q x).pending = s.pending ∧ (setQ s q x).heldCmds = s.heldCmds ∧ (setQ s q x).xlats = s.xlats ∧
    (setQ s q x).images = s.images ∧ (setQ s q x).bankAt = s.bankAt ∧ (setQ s q x).grade = s.grade ∧ (setQ s q x).regs = s.regs ∧
    (setQ s q x).latch = s.latch ∧ (setQ s q x).blks = s.blks ∧ (setQ s q x).cycles = s.cycles ∧ (setQ s q x).clks = s.clks ∧
    (setQ s q x).clkBase = s.clkBase ∧ (setQ s q x).devInit = s.devInit ∧ (setQ s q x).devPolicy = s.devPolicy ∧
    (setQ s q x).sounded = s.sounded ∧ (setQ s q x).hbm = s.hbm ∧ (setQ s q x).host = s.host ∧ (setQ s q x).sram = s.sram ∧
    (setQ s q x).hbmPoison = s.hbmPoison ∧ (setQ s q x).sramPoison = s.sramPoison ∧ (setQ s q x).hbmUpset = s.hbmUpset ∧
    (setQ s q x).sramUpset = s.sramUpset ∧ (setQ s q x).rings = s.rings ∧ (setQ s q x).tms = s.tms ∧
    (setQ s q x).tmLatch = s.tmLatch ∧ (setQ s q x).ops = s.ops ∧ (setQ s q x).starts = s.starts ∧ (setQ s q x).pends = s.pends ∧
    (setQ s q x).stalls = s.stalls ∧ (setQ s q x).escs = s.escs ∧ (setQ s q x).reports = s.reports ∧
    (setQ s q x).owners = s.owners ∧ (setQ s q x).valleys = s.valleys ∧ (setQ s q x).cores = s.cores ∧
    (setQ s q x).chans = s.chans ∧ (setQ s q x).streams = s.streams ∧ (setQ s q x).engTurn = s.engTurn ∧
    (setQ s q x).handoffs = s.handoffs ∧ (setQ s q x).lines = s.lines ∧ (setQ s q x).berms = s.berms ∧
    (setQ s q x).patrols = s.patrols ∧ (setQ s q x).ctxs = s.ctxs ∧ (setQ s q x).estWait = s.estWait ∧
    (setQ s q x).early = s.early ∧ (setQ s q x).estLast = s.estLast ∧ (setQ s q x).estSelf = s.estSelf ∧
    (setQ s q x).txFlows = s.txFlows ∧ (setQ s q x).rxFlows = s.rxFlows ∧ (setQ s q x).paused = s.paused ∧
    (setQ s q x).portTurns = s.portTurns ∧ (setQ s q x).sublinks = s.sublinks ∧ (setQ s q x).links = s.links ∧
    (setQ s q x).twyQ = s.twyQ ∧ (setQ s q x).twyTurn = s.twyTurn ∧ (setQ s q x).twySigs = s.twySigs ∧
    (setQ s q x).twyIn = s.twyIn ∧ (setQ s q x).rounds = s.rounds ∧ (setQ s q x).snaps = s.snaps ∧
    (setQ s q x).holdOps = s.holdOps ∧ (setQ s q x).strands = s.strands ∧ (setQ s q x).flash = s.flash ∧ (setQ s q x).hl = s.hl ∧
    (setQ s q x).jobCmds = s.jobCmds ∧ (setQ s q x).releasing = s.releasing ∧ (setQ s q x).invalBusy = s.invalBusy ∧
    (setQ s q x).hostWait = s.hostWait ∧ (setQ s q x).heldMsgs = s.heldMsgs ∧ (setQ s q x).capAt = s.capAt ∧
    (setQ s q x).freeCount = s.freeCount ∧ (setQ s q x).out = s.out :=
  ⟨rfl, rfl, rfl, rfl, rfl, rfl, rfl, rfl, rfl, rfl, rfl, rfl, rfl, rfl, rfl, rfl, rfl, rfl, rfl, rfl, rfl, rfl, rfl, rfl, rfl, rfl,
    rfl, rfl, rfl, rfl, rfl, rfl, rfl, rfl, rfl, rfl, rfl, rfl, rfl, rfl, rfl, rfl, rfl, rfl, rfl, rfl, rfl, rfl, rfl, rfl, rfl, rfl,
    rfl, rfl, rfl, rfl, rfl, rfl, rfl, rfl, rfl, rfl, rfl, rfl, rfl, rfl, rfl, rfl, rfl, rfl⟩

@[simp] theorem setRing_frame (s : State) (r : Nat) (x : Ring) :
    (setRing s r x).pending = s.pending ∧ (setRing s r x).heldCmds = s.heldCmds ∧ (setRing s r x).xlats = s.xlats ∧
    (setRing s r x).images = s.images ∧ (setRing s r x).bankAt = s.bankAt ∧ (setRing s r x).grade = s.grade ∧
    (setRing s r x).regs = s.regs ∧ (setRing s r x).latch = s.latch ∧ (setRing s r x).blks = s.blks ∧
    (setRing s r x).cycles = s.cycles ∧ (setRing s r x).clks = s.clks ∧ (setRing s r x).clkBase = s.clkBase ∧
    (setRing s r x).devInit = s.devInit ∧ (setRing s r x).devPolicy = s.devPolicy ∧ (setRing s r x).sounded = s.sounded ∧
    (setRing s r x).hbm = s.hbm ∧ (setRing s r x).host = s.host ∧ (setRing s r x).sram = s.sram ∧
    (setRing s r x).hbmPoison = s.hbmPoison ∧ (setRing s r x).sramPoison = s.sramPoison ∧ (setRing s r x).hbmUpset = s.hbmUpset ∧
    (setRing s r x).sramUpset = s.sramUpset ∧ (setRing s r x).queues = s.queues ∧ (setRing s r x).tms = s.tms ∧
    (setRing s r x).tmLatch = s.tmLatch ∧ (setRing s r x).ops = s.ops ∧ (setRing s r x).starts = s.starts ∧
    (setRing s r x).pends = s.pends ∧ (setRing s r x).stalls = s.stalls ∧ (setRing s r x).escs = s.escs ∧
    (setRing s r x).reports = s.reports ∧ (setRing s r x).owners = s.owners ∧ (setRing s r x).valleys = s.valleys ∧
    (setRing s r x).cores = s.cores ∧ (setRing s r x).chans = s.chans ∧ (setRing s r x).streams = s.streams ∧
    (setRing s r x).engTurn = s.engTurn ∧ (setRing s r x).handoffs = s.handoffs ∧ (setRing s r x).lines = s.lines ∧
    (setRing s r x).berms = s.berms ∧ (setRing s r x).patrols = s.patrols ∧ (setRing s r x).ctxs = s.ctxs ∧
    (setRing s r x).estWait = s.estWait ∧ (setRing s r x).early = s.early ∧ (setRing s r x).estLast = s.estLast ∧
    (setRing s r x).estSelf = s.estSelf ∧ (setRing s r x).txFlows = s.txFlows ∧ (setRing s r x).rxFlows = s.rxFlows ∧
    (setRing s r x).paused = s.paused ∧ (setRing s r x).portTurns = s.portTurns ∧ (setRing s r x).sublinks = s.sublinks ∧
    (setRing s r x).links = s.links ∧ (setRing s r x).twyQ = s.twyQ ∧ (setRing s r x).twyTurn = s.twyTurn ∧
    (setRing s r x).twySigs = s.twySigs ∧ (setRing s r x).twyIn = s.twyIn ∧ (setRing s r x).rounds = s.rounds ∧
    (setRing s r x).snaps = s.snaps ∧ (setRing s r x).holdOps = s.holdOps ∧ (setRing s r x).strands = s.strands ∧
    (setRing s r x).flash = s.flash ∧ (setRing s r x).hl = s.hl ∧ (setRing s r x).jobCmds = s.jobCmds ∧
    (setRing s r x).releasing = s.releasing ∧ (setRing s r x).invalBusy = s.invalBusy ∧ (setRing s r x).hostWait = s.hostWait ∧
    (setRing s r x).heldMsgs = s.heldMsgs ∧ (setRing s r x).capAt = s.capAt ∧ (setRing s r x).freeCount = s.freeCount ∧
    (setRing s r x).out = s.out :=
  ⟨rfl, rfl, rfl, rfl, rfl, rfl, rfl, rfl, rfl, rfl, rfl, rfl, rfl, rfl, rfl, rfl, rfl, rfl, rfl, rfl, rfl, rfl, rfl, rfl, rfl, rfl,
    rfl, rfl, rfl, rfl, rfl, rfl, rfl, rfl, rfl, rfl, rfl, rfl, rfl, rfl, rfl, rfl, rfl, rfl, rfl, rfl, rfl, rfl, rfl, rfl, rfl, rfl,
    rfl, rfl, rfl, rfl, rfl, rfl, rfl, rfl, rfl, rfl, rfl, rfl, rfl, rfl, rfl, rfl, rfl, rfl⟩

@[simp] theorem setStrand_frame (s : State) (j : Nat) (x : Strand) :
    (setStrand s j x).pending = s.pending ∧ (setStrand s j x).heldCmds = s.heldCmds ∧ (setStrand s j x).xlats = s.xlats ∧
    (setStrand s j x).images = s.images ∧ (setStrand s j x).bankAt = s.bankAt ∧ (setStrand s j x).grade = s.grade ∧
    (setStrand s j x).regs = s.regs ∧ (setStrand s j x).latch = s.latch ∧ (setStrand s j x).blks = s.blks ∧
    (setStrand s j x).cycles = s.cycles ∧ (setStrand s j x).clks = s.clks ∧ (setStrand s j x).clkBase = s.clkBase ∧
    (setStrand s j x).devInit = s.devInit ∧ (setStrand s j x).devPolicy = s.devPolicy ∧ (setStrand s j x).sounded = s.sounded ∧
    (setStrand s j x).hbm = s.hbm ∧ (setStrand s j x).host = s.host ∧ (setStrand s j x).sram = s.sram ∧
    (setStrand s j x).hbmPoison = s.hbmPoison ∧ (setStrand s j x).sramPoison = s.sramPoison ∧
    (setStrand s j x).hbmUpset = s.hbmUpset ∧ (setStrand s j x).sramUpset = s.sramUpset ∧ (setStrand s j x).queues = s.queues ∧
    (setStrand s j x).rings = s.rings ∧ (setStrand s j x).tms = s.tms ∧ (setStrand s j x).tmLatch = s.tmLatch ∧
    (setStrand s j x).ops = s.ops ∧ (setStrand s j x).starts = s.starts ∧ (setStrand s j x).pends = s.pends ∧
    (setStrand s j x).stalls = s.stalls ∧ (setStrand s j x).escs = s.escs ∧ (setStrand s j x).reports = s.reports ∧
    (setStrand s j x).owners = s.owners ∧ (setStrand s j x).valleys = s.valleys ∧ (setStrand s j x).cores = s.cores ∧
    (setStrand s j x).chans = s.chans ∧ (setStrand s j x).streams = s.streams ∧ (setStrand s j x).engTurn = s.engTurn ∧
    (setStrand s j x).handoffs = s.handoffs ∧ (setStrand s j x).lines = s.lines ∧ (setStrand s j x).berms = s.berms ∧
    (setStrand s j x).patrols = s.patrols ∧ (setStrand s j x).ctxs = s.ctxs ∧ (setStrand s j x).estWait = s.estWait ∧
    (setStrand s j x).early = s.early ∧ (setStrand s j x).estLast = s.estLast ∧ (setStrand s j x).estSelf = s.estSelf ∧
    (setStrand s j x).txFlows = s.txFlows ∧ (setStrand s j x).rxFlows = s.rxFlows ∧ (setStrand s j x).paused = s.paused ∧
    (setStrand s j x).portTurns = s.portTurns ∧ (setStrand s j x).sublinks = s.sublinks ∧ (setStrand s j x).links = s.links ∧
    (setStrand s j x).twyQ = s.twyQ ∧ (setStrand s j x).twyTurn = s.twyTurn ∧ (setStrand s j x).twySigs = s.twySigs ∧
    (setStrand s j x).twyIn = s.twyIn ∧ (setStrand s j x).rounds = s.rounds ∧ (setStrand s j x).snaps = s.snaps ∧
    (setStrand s j x).holdOps = s.holdOps ∧ (setStrand s j x).flash = s.flash ∧ (setStrand s j x).hl = s.hl ∧
    (setStrand s j x).jobCmds = s.jobCmds ∧ (setStrand s j x).releasing = s.releasing ∧
    (setStrand s j x).invalBusy = s.invalBusy ∧ (setStrand s j x).hostWait = s.hostWait ∧
    (setStrand s j x).heldMsgs = s.heldMsgs ∧ (setStrand s j x).capAt = s.capAt ∧ (setStrand s j x).freeCount = s.freeCount ∧
    (setStrand s j x).out = s.out :=
  ⟨rfl, rfl, rfl, rfl, rfl, rfl, rfl, rfl, rfl, rfl, rfl, rfl, rfl, rfl, rfl, rfl, rfl, rfl, rfl, rfl, rfl, rfl, rfl, rfl, rfl, rfl,
    rfl, rfl, rfl, rfl, rfl, rfl, rfl, rfl, rfl, rfl, rfl, rfl, rfl, rfl, rfl, rfl, rfl, rfl, rfl, rfl, rfl, rfl, rfl, rfl, rfl, rfl,
    rfl, rfl, rfl, rfl, rfl, rfl, rfl, rfl, rfl, rfl, rfl, rfl, rfl, rfl, rfl, rfl, rfl, rfl⟩

@[simp] theorem slAdd_frame (s : State) (j ty : Nat) (body : List Byte) :
    (slAdd s j ty body).pending = s.pending ∧ (slAdd s j ty body).heldCmds = s.heldCmds ∧ (slAdd s j ty body).xlats = s.xlats ∧
    (slAdd s j ty body).images = s.images ∧ (slAdd s j ty body).bankAt = s.bankAt ∧ (slAdd s j ty body).grade = s.grade ∧
    (slAdd s j ty body).latch = s.latch ∧ (slAdd s j ty body).blks = s.blks ∧ (slAdd s j ty body).cycles = s.cycles ∧
    (slAdd s j ty body).clks = s.clks ∧ (slAdd s j ty body).clkBase = s.clkBase ∧ (slAdd s j ty body).devInit = s.devInit ∧
    (slAdd s j ty body).devPolicy = s.devPolicy ∧ (slAdd s j ty body).sounded = s.sounded ∧ (slAdd s j ty body).hbm = s.hbm ∧
    (slAdd s j ty body).host = s.host ∧ (slAdd s j ty body).sram = s.sram ∧ (slAdd s j ty body).hbmPoison = s.hbmPoison ∧
    (slAdd s j ty body).sramPoison = s.sramPoison ∧ (slAdd s j ty body).hbmUpset = s.hbmUpset ∧
    (slAdd s j ty body).sramUpset = s.sramUpset ∧ (slAdd s j ty body).queues = s.queues ∧ (slAdd s j ty body).rings = s.rings ∧
    (slAdd s j ty body).tms = s.tms ∧ (slAdd s j ty body).tmLatch = s.tmLatch ∧ (slAdd s j ty body).ops = s.ops ∧
    (slAdd s j ty body).starts = s.starts ∧ (slAdd s j ty body).pends = s.pends ∧ (slAdd s j ty body).stalls = s.stalls ∧
    (slAdd s j ty body).escs = s.escs ∧ (slAdd s j ty body).reports = s.reports ∧ (slAdd s j ty body).owners = s.owners ∧
    (slAdd s j ty body).valleys = s.valleys ∧ (slAdd s j ty body).cores = s.cores ∧ (slAdd s j ty body).chans = s.chans ∧
    (slAdd s j ty body).streams = s.streams ∧ (slAdd s j ty body).engTurn = s.engTurn ∧
    (slAdd s j ty body).handoffs = s.handoffs ∧ (slAdd s j ty body).lines = s.lines ∧ (slAdd s j ty body).berms = s.berms ∧
    (slAdd s j ty body).patrols = s.patrols ∧ (slAdd s j ty body).ctxs = s.ctxs ∧ (slAdd s j ty body).estWait = s.estWait ∧
    (slAdd s j ty body).early = s.early ∧ (slAdd s j ty body).estLast = s.estLast ∧ (slAdd s j ty body).estSelf = s.estSelf ∧
    (slAdd s j ty body).txFlows = s.txFlows ∧ (slAdd s j ty body).rxFlows = s.rxFlows ∧ (slAdd s j ty body).paused = s.paused ∧
    (slAdd s j ty body).portTurns = s.portTurns ∧ (slAdd s j ty body).sublinks = s.sublinks ∧
    (slAdd s j ty body).links = s.links ∧ (slAdd s j ty body).twyQ = s.twyQ ∧ (slAdd s j ty body).twyTurn = s.twyTurn ∧
    (slAdd s j ty body).twySigs = s.twySigs ∧ (slAdd s j ty body).twyIn = s.twyIn ∧ (slAdd s j ty body).rounds = s.rounds ∧
    (slAdd s j ty body).snaps = s.snaps ∧ (slAdd s j ty body).holdOps = s.holdOps ∧ (slAdd s j ty body).flash = s.flash ∧
    (slAdd s j ty body).hl = s.hl ∧ (slAdd s j ty body).jobCmds = s.jobCmds ∧ (slAdd s j ty body).releasing = s.releasing ∧
    (slAdd s j ty body).invalBusy = s.invalBusy ∧ (slAdd s j ty body).hostWait = s.hostWait ∧
    (slAdd s j ty body).heldMsgs = s.heldMsgs ∧ (slAdd s j ty body).capAt = s.capAt ∧
    (slAdd s j ty body).freeCount = s.freeCount ∧ (slAdd s j ty body).out = s.out := by
  unfold slAdd
  simp only []
  repeat' split
  all_goals simp

@[simp] theorem tmPut_frame (s : State) (n value : Nat) :
    (tmPut s n value).pending = s.pending ∧ (tmPut s n value).heldCmds = s.heldCmds ∧ (tmPut s n value).xlats = s.xlats ∧
    (tmPut s n value).images = s.images ∧ (tmPut s n value).bankAt = s.bankAt ∧ (tmPut s n value).grade = s.grade ∧
    (tmPut s n value).regs = s.regs ∧ (tmPut s n value).latch = s.latch ∧ (tmPut s n value).cycles = s.cycles ∧
    (tmPut s n value).clks = s.clks ∧ (tmPut s n value).clkBase = s.clkBase ∧ (tmPut s n value).devInit = s.devInit ∧
    (tmPut s n value).devPolicy = s.devPolicy ∧ (tmPut s n value).sounded = s.sounded ∧ (tmPut s n value).hbm = s.hbm ∧
    (tmPut s n value).host = s.host ∧ (tmPut s n value).sram = s.sram ∧ (tmPut s n value).hbmPoison = s.hbmPoison ∧
    (tmPut s n value).sramPoison = s.sramPoison ∧ (tmPut s n value).hbmUpset = s.hbmUpset ∧
    (tmPut s n value).sramUpset = s.sramUpset ∧ (tmPut s n value).queues = s.queues ∧ (tmPut s n value).rings = s.rings ∧
    (tmPut s n value).tmLatch = s.tmLatch ∧ (tmPut s n value).ops = s.ops ∧ (tmPut s n value).starts = s.starts ∧
    (tmPut s n value).pends = s.pends ∧ (tmPut s n value).stalls = s.stalls ∧ (tmPut s n value).escs = s.escs ∧
    (tmPut s n value).reports = s.reports ∧ (tmPut s n value).owners = s.owners ∧ (tmPut s n value).valleys = s.valleys ∧
    (tmPut s n value).cores = s.cores ∧ (tmPut s n value).chans = s.chans ∧ (tmPut s n value).streams = s.streams ∧
    (tmPut s n value).engTurn = s.engTurn ∧ (tmPut s n value).handoffs = s.handoffs ∧ (tmPut s n value).lines = s.lines ∧
    (tmPut s n value).berms = s.berms ∧ (tmPut s n value).patrols = s.patrols ∧ (tmPut s n value).ctxs = s.ctxs ∧
    (tmPut s n value).estWait = s.estWait ∧ (tmPut s n value).early = s.early ∧ (tmPut s n value).estLast = s.estLast ∧
    (tmPut s n value).estSelf = s.estSelf ∧ (tmPut s n value).txFlows = s.txFlows ∧ (tmPut s n value).rxFlows = s.rxFlows ∧
    (tmPut s n value).paused = s.paused ∧ (tmPut s n value).portTurns = s.portTurns ∧ (tmPut s n value).sublinks = s.sublinks ∧
    (tmPut s n value).links = s.links ∧ (tmPut s n value).twyQ = s.twyQ ∧ (tmPut s n value).twyTurn = s.twyTurn ∧
    (tmPut s n value).twySigs = s.twySigs ∧ (tmPut s n value).twyIn = s.twyIn ∧ (tmPut s n value).rounds = s.rounds ∧
    (tmPut s n value).snaps = s.snaps ∧ (tmPut s n value).holdOps = s.holdOps ∧ (tmPut s n value).strands = s.strands ∧
    (tmPut s n value).flash = s.flash ∧ (tmPut s n value).hl = s.hl ∧ (tmPut s n value).jobCmds = s.jobCmds ∧
    (tmPut s n value).releasing = s.releasing ∧ (tmPut s n value).invalBusy = s.invalBusy ∧
    (tmPut s n value).hostWait = s.hostWait ∧ (tmPut s n value).heldMsgs = s.heldMsgs ∧ (tmPut s n value).capAt = s.capAt ∧
    (tmPut s n value).freeCount = s.freeCount ∧ (tmPut s n value).out = s.out :=
  ⟨rfl, rfl, rfl, rfl, rfl, rfl, rfl, rfl, rfl, rfl, rfl, rfl, rfl, rfl, rfl, rfl, rfl, rfl, rfl, rfl, rfl, rfl, rfl, rfl, rfl, rfl,
    rfl, rfl, rfl, rfl, rfl, rfl, rfl, rfl, rfl, rfl, rfl, rfl, rfl, rfl, rfl, rfl, rfl, rfl, rfl, rfl, rfl, rfl, rfl, rfl, rfl, rfl,
    rfl, rfl, rfl, rfl, rfl, rfl, rfl, rfl, rfl, rfl, rfl, rfl, rfl, rfl, rfl, rfl, rfl⟩

@[simp] theorem tmSignal_frame (s : State) (n : Nat) (add : Bool) (value : Nat) :
    (tmSignal s n add value).pending = s.pending ∧ (tmSignal s n add value).heldCmds = s.heldCmds ∧
    (tmSignal s n add value).xlats = s.xlats ∧ (tmSignal s n add value).images = s.images ∧
    (tmSignal s n add value).bankAt = s.bankAt ∧ (tmSignal s n add value).grade = s.grade ∧
    (tmSignal s n add value).latch = s.latch ∧ (tmSignal s n add value).cycles = s.cycles ∧
    (tmSignal s n add value).clks = s.clks ∧ (tmSignal s n add value).clkBase = s.clkBase ∧
    (tmSignal s n add value).devInit = s.devInit ∧ (tmSignal s n add value).devPolicy = s.devPolicy ∧
    (tmSignal s n add value).sounded = s.sounded ∧ (tmSignal s n add value).hbm = s.hbm ∧ (tmSignal s n add value).host = s.host ∧
    (tmSignal s n add value).sram = s.sram ∧ (tmSignal s n add value).hbmPoison = s.hbmPoison ∧
    (tmSignal s n add value).sramPoison = s.sramPoison ∧ (tmSignal s n add value).hbmUpset = s.hbmUpset ∧
    (tmSignal s n add value).sramUpset = s.sramUpset ∧ (tmSignal s n add value).queues = s.queues ∧
    (tmSignal s n add value).rings = s.rings ∧ (tmSignal s n add value).tmLatch = s.tmLatch ∧
    (tmSignal s n add value).ops = s.ops ∧ (tmSignal s n add value).starts = s.starts ∧ (tmSignal s n add value).pends = s.pends ∧
    (tmSignal s n add value).stalls = s.stalls ∧ (tmSignal s n add value).escs = s.escs ∧
    (tmSignal s n add value).reports = s.reports ∧ (tmSignal s n add value).owners = s.owners ∧
    (tmSignal s n add value).valleys = s.valleys ∧ (tmSignal s n add value).cores = s.cores ∧
    (tmSignal s n add value).chans = s.chans ∧ (tmSignal s n add value).streams = s.streams ∧
    (tmSignal s n add value).engTurn = s.engTurn ∧ (tmSignal s n add value).handoffs = s.handoffs ∧
    (tmSignal s n add value).lines = s.lines ∧ (tmSignal s n add value).berms = s.berms ∧
    (tmSignal s n add value).patrols = s.patrols ∧ (tmSignal s n add value).ctxs = s.ctxs ∧
    (tmSignal s n add value).estWait = s.estWait ∧ (tmSignal s n add value).early = s.early ∧
    (tmSignal s n add value).estLast = s.estLast ∧ (tmSignal s n add value).estSelf = s.estSelf ∧
    (tmSignal s n add value).txFlows = s.txFlows ∧ (tmSignal s n add value).rxFlows = s.rxFlows ∧
    (tmSignal s n add value).paused = s.paused ∧ (tmSignal s n add value).portTurns = s.portTurns ∧
    (tmSignal s n add value).sublinks = s.sublinks ∧ (tmSignal s n add value).links = s.links ∧
    (tmSignal s n add value).twyQ = s.twyQ ∧ (tmSignal s n add value).twyTurn = s.twyTurn ∧
    (tmSignal s n add value).twySigs = s.twySigs ∧ (tmSignal s n add value).twyIn = s.twyIn ∧
    (tmSignal s n add value).rounds = s.rounds ∧ (tmSignal s n add value).snaps = s.snaps ∧
    (tmSignal s n add value).holdOps = s.holdOps ∧ (tmSignal s n add value).strands = s.strands ∧
    (tmSignal s n add value).flash = s.flash ∧ (tmSignal s n add value).hl = s.hl ∧ (tmSignal s n add value).jobCmds = s.jobCmds ∧
    (tmSignal s n add value).releasing = s.releasing ∧ (tmSignal s n add value).invalBusy = s.invalBusy ∧
    (tmSignal s n add value).hostWait = s.hostWait ∧ (tmSignal s n add value).heldMsgs = s.heldMsgs ∧
    (tmSignal s n add value).capAt = s.capAt ∧ (tmSignal s n add value).freeCount = s.freeCount ∧
    (tmSignal s n add value).out = s.out :=
  ⟨rfl, rfl, rfl, rfl, rfl, rfl, rfl, rfl, rfl, rfl, rfl, rfl, rfl, rfl, rfl, rfl, rfl, rfl, rfl, rfl, rfl, rfl, rfl, rfl, rfl, rfl,
    rfl, rfl, rfl, rfl, rfl, rfl, rfl, rfl, rfl, rfl, rfl, rfl, rfl, rfl, rfl, rfl, rfl, rfl, rfl, rfl, rfl, rfl, rfl, rfl, rfl, rfl,
    rfl, rfl, rfl, rfl, rfl, rfl, rfl, rfl, rfl, rfl, rfl, rfl, rfl, rfl, rfl, rfl⟩

@[simp] theorem pendAdd_frame (s : State) (p : Pend) :
    (pendAdd s p).pending = s.pending ∧ (pendAdd s p).heldCmds = s.heldCmds ∧ (pendAdd s p).xlats = s.xlats ∧
    (pendAdd s p).images = s.images ∧ (pendAdd s p).bankAt = s.bankAt ∧ (pendAdd s p).grade = s.grade ∧
    (pendAdd s p).latch = s.latch ∧ (pendAdd s p).blks = s.blks ∧ (pendAdd s p).cycles = s.cycles ∧ (pendAdd s p).clks = s.clks ∧
    (pendAdd s p).clkBase = s.clkBase ∧ (pendAdd s p).devInit = s.devInit ∧ (pendAdd s p).devPolicy = s.devPolicy ∧
    (pendAdd s p).sounded = s.sounded ∧ (pendAdd s p).hbm = s.hbm ∧ (pendAdd s p).host = s.host ∧ (pendAdd s p).sram = s.sram ∧
    (pendAdd s p).hbmPoison = s.hbmPoison ∧ (pendAdd s p).sramPoison = s.sramPoison ∧ (pendAdd s p).hbmUpset = s.hbmUpset ∧
    (pendAdd s p).sramUpset = s.sramUpset ∧ (pendAdd s p).queues = s.queues ∧ (pendAdd s p).rings = s.rings ∧
    (pendAdd s p).tms = s.tms ∧ (pendAdd s p).tmLatch = s.tmLatch ∧ (pendAdd s p).ops = s.ops ∧ (pendAdd s p).starts = s.starts ∧
    (pendAdd s p).stalls = s.stalls ∧ (pendAdd s p).escs = s.escs ∧ (pendAdd s p).reports = s.reports ∧
    (pendAdd s p).owners = s.owners ∧ (pendAdd s p).valleys = s.valleys ∧ (pendAdd s p).cores = s.cores ∧
    (pendAdd s p).chans = s.chans ∧ (pendAdd s p).streams = s.streams ∧ (pendAdd s p).engTurn = s.engTurn ∧
    (pendAdd s p).handoffs = s.handoffs ∧ (pendAdd s p).lines = s.lines ∧ (pendAdd s p).berms = s.berms ∧
    (pendAdd s p).patrols = s.patrols ∧ (pendAdd s p).ctxs = s.ctxs ∧ (pendAdd s p).estWait = s.estWait ∧
    (pendAdd s p).early = s.early ∧ (pendAdd s p).estLast = s.estLast ∧ (pendAdd s p).estSelf = s.estSelf ∧
    (pendAdd s p).txFlows = s.txFlows ∧ (pendAdd s p).rxFlows = s.rxFlows ∧ (pendAdd s p).paused = s.paused ∧
    (pendAdd s p).portTurns = s.portTurns ∧ (pendAdd s p).sublinks = s.sublinks ∧ (pendAdd s p).links = s.links ∧
    (pendAdd s p).twyQ = s.twyQ ∧ (pendAdd s p).twyTurn = s.twyTurn ∧ (pendAdd s p).twySigs = s.twySigs ∧
    (pendAdd s p).twyIn = s.twyIn ∧ (pendAdd s p).rounds = s.rounds ∧ (pendAdd s p).snaps = s.snaps ∧
    (pendAdd s p).holdOps = s.holdOps ∧ (pendAdd s p).strands = s.strands ∧ (pendAdd s p).flash = s.flash ∧
    (pendAdd s p).jobCmds = s.jobCmds ∧ (pendAdd s p).releasing = s.releasing ∧ (pendAdd s p).invalBusy = s.invalBusy ∧
    (pendAdd s p).hostWait = s.hostWait ∧ (pendAdd s p).heldMsgs = s.heldMsgs ∧ (pendAdd s p).capAt = s.capAt ∧
    (pendAdd s p).freeCount = s.freeCount := by
  unfold pendAdd
  simp only []
  split <;> simp

@[simp] theorem report_frame (s : State) (q seq ring : Nat) (r : CompRec) :
    (report s q seq ring r).pending = s.pending ∧ (report s q seq ring r).heldCmds = s.heldCmds ∧
    (report s q seq ring r).xlats = s.xlats ∧ (report s q seq ring r).images = s.images ∧
    (report s q seq ring r).bankAt = s.bankAt ∧ (report s q seq ring r).grade = s.grade ∧
    (report s q seq ring r).latch = s.latch ∧ (report s q seq ring r).blks = s.blks ∧ (report s q seq ring r).cycles = s.cycles ∧
    (report s q seq ring r).clks = s.clks ∧ (report s q seq ring r).clkBase = s.clkBase ∧
    (report s q seq ring r).devInit = s.devInit ∧ (report s q seq ring r).devPolicy = s.devPolicy ∧
    (report s q seq ring r).sounded = s.sounded ∧ (report s q seq ring r).hbm = s.hbm ∧ (report s q seq ring r).host = s.host ∧
    (report s q seq ring r).sram = s.sram ∧ (report s q seq ring r).hbmPoison = s.hbmPoison ∧
    (report s q seq ring r).sramPoison = s.sramPoison ∧ (report s q seq ring r).hbmUpset = s.hbmUpset ∧
    (report s q seq ring r).sramUpset = s.sramUpset ∧ (report s q seq ring r).queues = s.queues ∧
    (report s q seq ring r).rings = s.rings ∧ (report s q seq ring r).tms = s.tms ∧ (report s q seq ring r).tmLatch = s.tmLatch ∧
    (report s q seq ring r).ops = s.ops ∧ (report s q seq ring r).starts = s.starts ∧ (report s q seq ring r).stalls = s.stalls ∧
    (report s q seq ring r).escs = s.escs ∧ (report s q seq ring r).reports = s.reports ∧
    (report s q seq ring r).owners = s.owners ∧ (report s q seq ring r).valleys = s.valleys ∧
    (report s q seq ring r).cores = s.cores ∧ (report s q seq ring r).chans = s.chans ∧
    (report s q seq ring r).streams = s.streams ∧ (report s q seq ring r).engTurn = s.engTurn ∧
    (report s q seq ring r).handoffs = s.handoffs ∧ (report s q seq ring r).lines = s.lines ∧
    (report s q seq ring r).berms = s.berms ∧ (report s q seq ring r).patrols = s.patrols ∧
    (report s q seq ring r).ctxs = s.ctxs ∧ (report s q seq ring r).estWait = s.estWait ∧
    (report s q seq ring r).early = s.early ∧ (report s q seq ring r).estLast = s.estLast ∧
    (report s q seq ring r).estSelf = s.estSelf ∧ (report s q seq ring r).txFlows = s.txFlows ∧
    (report s q seq ring r).rxFlows = s.rxFlows ∧ (report s q seq ring r).paused = s.paused ∧
    (report s q seq ring r).portTurns = s.portTurns ∧ (report s q seq ring r).sublinks = s.sublinks ∧
    (report s q seq ring r).links = s.links ∧ (report s q seq ring r).twyQ = s.twyQ ∧
    (report s q seq ring r).twyTurn = s.twyTurn ∧ (report s q seq ring r).twySigs = s.twySigs ∧
    (report s q seq ring r).twyIn = s.twyIn ∧ (report s q seq ring r).rounds = s.rounds ∧
    (report s q seq ring r).snaps = s.snaps ∧ (report s q seq ring r).holdOps = s.holdOps ∧
    (report s q seq ring r).strands = s.strands ∧ (report s q seq ring r).flash = s.flash ∧
    (report s q seq ring r).jobCmds = s.jobCmds ∧ (report s q seq ring r).releasing = s.releasing ∧
    (report s q seq ring r).invalBusy = s.invalBusy ∧ (report s q seq ring r).hostWait = s.hostWait ∧
    (report s q seq ring r).heldMsgs = s.heldMsgs ∧ (report s q seq ring r).capAt = s.capAt ∧
    (report s q seq ring r).freeCount = s.freeCount := by
  unfold report
  simp

@[simp] theorem opMod_frame (s : State) (q seq : Nat) (f : Op → Op) :
    (opMod s q seq f).pending = s.pending ∧ (opMod s q seq f).heldCmds = s.heldCmds ∧ (opMod s q seq f).xlats = s.xlats ∧
    (opMod s q seq f).images = s.images ∧ (opMod s q seq f).bankAt = s.bankAt ∧ (opMod s q seq f).grade = s.grade ∧
    (opMod s q seq f).regs = s.regs ∧ (opMod s q seq f).latch = s.latch ∧ (opMod s q seq f).blks = s.blks ∧
    (opMod s q seq f).cycles = s.cycles ∧ (opMod s q seq f).clks = s.clks ∧ (opMod s q seq f).clkBase = s.clkBase ∧
    (opMod s q seq f).devInit = s.devInit ∧ (opMod s q seq f).devPolicy = s.devPolicy ∧ (opMod s q seq f).sounded = s.sounded ∧
    (opMod s q seq f).hbm = s.hbm ∧ (opMod s q seq f).host = s.host ∧ (opMod s q seq f).sram = s.sram ∧
    (opMod s q seq f).hbmPoison = s.hbmPoison ∧ (opMod s q seq f).sramPoison = s.sramPoison ∧
    (opMod s q seq f).hbmUpset = s.hbmUpset ∧ (opMod s q seq f).sramUpset = s.sramUpset ∧ (opMod s q seq f).queues = s.queues ∧
    (opMod s q seq f).rings = s.rings ∧ (opMod s q seq f).tms = s.tms ∧ (opMod s q seq f).tmLatch = s.tmLatch ∧
    (opMod s q seq f).starts = s.starts ∧ (opMod s q seq f).pends = s.pends ∧ (opMod s q seq f).stalls = s.stalls ∧
    (opMod s q seq f).escs = s.escs ∧ (opMod s q seq f).reports = s.reports ∧ (opMod s q seq f).owners = s.owners ∧
    (opMod s q seq f).valleys = s.valleys ∧ (opMod s q seq f).cores = s.cores ∧ (opMod s q seq f).chans = s.chans ∧
    (opMod s q seq f).streams = s.streams ∧ (opMod s q seq f).engTurn = s.engTurn ∧ (opMod s q seq f).handoffs = s.handoffs ∧
    (opMod s q seq f).lines = s.lines ∧ (opMod s q seq f).berms = s.berms ∧ (opMod s q seq f).patrols = s.patrols ∧
    (opMod s q seq f).ctxs = s.ctxs ∧ (opMod s q seq f).estWait = s.estWait ∧ (opMod s q seq f).early = s.early ∧
    (opMod s q seq f).estLast = s.estLast ∧ (opMod s q seq f).estSelf = s.estSelf ∧ (opMod s q seq f).txFlows = s.txFlows ∧
    (opMod s q seq f).rxFlows = s.rxFlows ∧ (opMod s q seq f).paused = s.paused ∧ (opMod s q seq f).portTurns = s.portTurns ∧
    (opMod s q seq f).sublinks = s.sublinks ∧ (opMod s q seq f).links = s.links ∧ (opMod s q seq f).twyQ = s.twyQ ∧
    (opMod s q seq f).twyTurn = s.twyTurn ∧ (opMod s q seq f).twySigs = s.twySigs ∧ (opMod s q seq f).twyIn = s.twyIn ∧
    (opMod s q seq f).rounds = s.rounds ∧ (opMod s q seq f).snaps = s.snaps ∧ (opMod s q seq f).holdOps = s.holdOps ∧
    (opMod s q seq f).strands = s.strands ∧ (opMod s q seq f).flash = s.flash ∧ (opMod s q seq f).hl = s.hl ∧
    (opMod s q seq f).jobCmds = s.jobCmds ∧ (opMod s q seq f).releasing = s.releasing ∧
    (opMod s q seq f).invalBusy = s.invalBusy ∧ (opMod s q seq f).hostWait = s.hostWait ∧
    (opMod s q seq f).heldMsgs = s.heldMsgs ∧ (opMod s q seq f).capAt = s.capAt ∧ (opMod s q seq f).freeCount = s.freeCount ∧
    (opMod s q seq f).out = s.out :=
  ⟨rfl, rfl, rfl, rfl, rfl, rfl, rfl, rfl, rfl, rfl, rfl, rfl, rfl, rfl, rfl, rfl, rfl, rfl, rfl, rfl, rfl, rfl, rfl, rfl, rfl, rfl,
    rfl, rfl, rfl, rfl, rfl, rfl, rfl, rfl, rfl, rfl, rfl, rfl, rfl, rfl, rfl, rfl, rfl, rfl, rfl, rfl, rfl, rfl, rfl, rfl, rfl, rfl,
    rfl, rfl, rfl, rfl, rfl, rfl, rfl, rfl, rfl, rfl, rfl, rfl, rfl, rfl, rfl, rfl, rfl, rfl⟩

@[simp] theorem opStore_frame (s : State) (q seq : Nat) :
    (opStore s q seq).pending = s.pending ∧ (opStore s q seq).heldCmds = s.heldCmds ∧ (opStore s q seq).xlats = s.xlats ∧
    (opStore s q seq).images = s.images ∧ (opStore s q seq).bankAt = s.bankAt ∧ (opStore s q seq).grade = s.grade ∧
    (opStore s q seq).latch = s.latch ∧ (opStore s q seq).blks = s.blks ∧ (opStore s q seq).cycles = s.cycles ∧
    (opStore s q seq).clks = s.clks ∧ (opStore s q seq).clkBase = s.clkBase ∧ (opStore s q seq).devInit = s.devInit ∧
    (opStore s q seq).devPolicy = s.devPolicy ∧ (opStore s q seq).sounded = s.sounded ∧ (opStore s q seq).hbm = s.hbm ∧
    (opStore s q seq).host = s.host ∧ (opStore s q seq).sram = s.sram ∧ (opStore s q seq).hbmPoison = s.hbmPoison ∧
    (opStore s q seq).sramPoison = s.sramPoison ∧ (opStore s q seq).hbmUpset = s.hbmUpset ∧
    (opStore s q seq).sramUpset = s.sramUpset ∧ (opStore s q seq).queues = s.queues ∧ (opStore s q seq).rings = s.rings ∧
    (opStore s q seq).tms = s.tms ∧ (opStore s q seq).tmLatch = s.tmLatch ∧ (opStore s q seq).starts = s.starts ∧
    (opStore s q seq).stalls = s.stalls ∧ (opStore s q seq).escs = s.escs ∧ (opStore s q seq).reports = s.reports ∧
    (opStore s q seq).owners = s.owners ∧ (opStore s q seq).valleys = s.valleys ∧ (opStore s q seq).cores = s.cores ∧
    (opStore s q seq).chans = s.chans ∧ (opStore s q seq).streams = s.streams ∧ (opStore s q seq).engTurn = s.engTurn ∧
    (opStore s q seq).handoffs = s.handoffs ∧ (opStore s q seq).lines = s.lines ∧ (opStore s q seq).berms = s.berms ∧
    (opStore s q seq).patrols = s.patrols ∧ (opStore s q seq).ctxs = s.ctxs ∧ (opStore s q seq).estWait = s.estWait ∧
    (opStore s q seq).early = s.early ∧ (opStore s q seq).estLast = s.estLast ∧ (opStore s q seq).estSelf = s.estSelf ∧
    (opStore s q seq).txFlows = s.txFlows ∧ (opStore s q seq).rxFlows = s.rxFlows ∧ (opStore s q seq).paused = s.paused ∧
    (opStore s q seq).portTurns = s.portTurns ∧ (opStore s q seq).sublinks = s.sublinks ∧ (opStore s q seq).links = s.links ∧
    (opStore s q seq).twyQ = s.twyQ ∧ (opStore s q seq).twyTurn = s.twyTurn ∧ (opStore s q seq).twySigs = s.twySigs ∧
    (opStore s q seq).twyIn = s.twyIn ∧ (opStore s q seq).rounds = s.rounds ∧ (opStore s q seq).snaps = s.snaps ∧
    (opStore s q seq).holdOps = s.holdOps ∧ (opStore s q seq).strands = s.strands ∧ (opStore s q seq).flash = s.flash ∧
    (opStore s q seq).jobCmds = s.jobCmds ∧ (opStore s q seq).releasing = s.releasing ∧
    (opStore s q seq).invalBusy = s.invalBusy ∧ (opStore s q seq).hostWait = s.hostWait ∧
    (opStore s q seq).heldMsgs = s.heldMsgs ∧ (opStore s q seq).capAt = s.capAt ∧ (opStore s q seq).freeCount = s.freeCount := by
  unfold opStore
  repeat' split
  all_goals simp

@[simp] theorem taint_frame (s : State) (q : Nat) (parent : Option Nat) :
    (taint s q parent).pending = s.pending ∧ (taint s q parent).heldCmds = s.heldCmds ∧ (taint s q parent).xlats = s.xlats ∧
    (taint s q parent).images = s.images ∧ (taint s q parent).bankAt = s.bankAt ∧ (taint s q parent).grade = s.grade ∧
    (taint s q parent).regs = s.regs ∧ (taint s q parent).latch = s.latch ∧ (taint s q parent).blks = s.blks ∧
    (taint s q parent).cycles = s.cycles ∧ (taint s q parent).clks = s.clks ∧ (taint s q parent).clkBase = s.clkBase ∧
    (taint s q parent).devInit = s.devInit ∧ (taint s q parent).devPolicy = s.devPolicy ∧ (taint s q parent).sounded = s.sounded ∧
    (taint s q parent).hbm = s.hbm ∧ (taint s q parent).host = s.host ∧ (taint s q parent).sram = s.sram ∧
    (taint s q parent).hbmPoison = s.hbmPoison ∧ (taint s q parent).sramPoison = s.sramPoison ∧
    (taint s q parent).hbmUpset = s.hbmUpset ∧ (taint s q parent).sramUpset = s.sramUpset ∧ (taint s q parent).rings = s.rings ∧
    (taint s q parent).tms = s.tms ∧ (taint s q parent).tmLatch = s.tmLatch ∧ (taint s q parent).starts = s.starts ∧
    (taint s q parent).pends = s.pends ∧ (taint s q parent).stalls = s.stalls ∧ (taint s q parent).escs = s.escs ∧
    (taint s q parent).reports = s.reports ∧ (taint s q parent).owners = s.owners ∧ (taint s q parent).valleys = s.valleys ∧
    (taint s q parent).cores = s.cores ∧ (taint s q parent).chans = s.chans ∧ (taint s q parent).streams = s.streams ∧
    (taint s q parent).engTurn = s.engTurn ∧ (taint s q parent).handoffs = s.handoffs ∧ (taint s q parent).lines = s.lines ∧
    (taint s q parent).berms = s.berms ∧ (taint s q parent).patrols = s.patrols ∧ (taint s q parent).ctxs = s.ctxs ∧
    (taint s q parent).estWait = s.estWait ∧ (taint s q parent).early = s.early ∧ (taint s q parent).estLast = s.estLast ∧
    (taint s q parent).estSelf = s.estSelf ∧ (taint s q parent).txFlows = s.txFlows ∧ (taint s q parent).rxFlows = s.rxFlows ∧
    (taint s q parent).paused = s.paused ∧ (taint s q parent).portTurns = s.portTurns ∧ (taint s q parent).sublinks = s.sublinks ∧
    (taint s q parent).links = s.links ∧ (taint s q parent).twyQ = s.twyQ ∧ (taint s q parent).twyTurn = s.twyTurn ∧
    (taint s q parent).twySigs = s.twySigs ∧ (taint s q parent).twyIn = s.twyIn ∧ (taint s q parent).rounds = s.rounds ∧
    (taint s q parent).snaps = s.snaps ∧ (taint s q parent).holdOps = s.holdOps ∧ (taint s q parent).strands = s.strands ∧
    (taint s q parent).flash = s.flash ∧ (taint s q parent).hl = s.hl ∧ (taint s q parent).jobCmds = s.jobCmds ∧
    (taint s q parent).releasing = s.releasing ∧ (taint s q parent).invalBusy = s.invalBusy ∧
    (taint s q parent).hostWait = s.hostWait ∧ (taint s q parent).heldMsgs = s.heldMsgs ∧ (taint s q parent).capAt = s.capAt ∧
    (taint s q parent).freeCount = s.freeCount ∧ (taint s q parent).out = s.out := by
  unfold taint
  split <;> simp

@[simp] theorem settle_frame (s : State) (pg : Nat) :
    (settle s pg).pending = s.pending ∧ (settle s pg).heldCmds = s.heldCmds ∧ (settle s pg).xlats = s.xlats ∧
    (settle s pg).images = s.images ∧ (settle s pg).bankAt = s.bankAt ∧ (settle s pg).grade = s.grade ∧
    (settle s pg).latch = s.latch ∧ (settle s pg).blks = s.blks ∧ (settle s pg).cycles = s.cycles ∧ (settle s pg).clks = s.clks ∧
    (settle s pg).clkBase = s.clkBase ∧ (settle s pg).devInit = s.devInit ∧ (settle s pg).devPolicy = s.devPolicy ∧
    (settle s pg).sounded = s.sounded ∧ (settle s pg).hbm = s.hbm ∧ (settle s pg).host = s.host ∧ (settle s pg).sram = s.sram ∧
    (settle s pg).hbmPoison = s.hbmPoison ∧ (settle s pg).sramPoison = s.sramPoison ∧ (settle s pg).hbmUpset = s.hbmUpset ∧
    (settle s pg).sramUpset = s.sramUpset ∧ (settle s pg).queues = s.queues ∧ (settle s pg).rings = s.rings ∧
    (settle s pg).tms = s.tms ∧ (settle s pg).tmLatch = s.tmLatch ∧ (settle s pg).ops = s.ops ∧ (settle s pg).starts = s.starts ∧
    (settle s pg).pends = s.pends ∧ (settle s pg).stalls = s.stalls ∧ (settle s pg).escs = s.escs ∧
    (settle s pg).reports = s.reports ∧ (settle s pg).owners = s.owners ∧ (settle s pg).valleys = s.valleys ∧
    (settle s pg).cores = s.cores ∧ (settle s pg).chans = s.chans ∧ (settle s pg).streams = s.streams ∧
    (settle s pg).engTurn = s.engTurn ∧ (settle s pg).handoffs = s.handoffs ∧ (settle s pg).lines = s.lines ∧
    (settle s pg).berms = s.berms ∧ (settle s pg).patrols = s.patrols ∧ (settle s pg).ctxs = s.ctxs ∧
    (settle s pg).estWait = s.estWait ∧ (settle s pg).early = s.early ∧ (settle s pg).estLast = s.estLast ∧
    (settle s pg).estSelf = s.estSelf ∧ (settle s pg).txFlows = s.txFlows ∧ (settle s pg).rxFlows = s.rxFlows ∧
    (settle s pg).paused = s.paused ∧ (settle s pg).portTurns = s.portTurns ∧ (settle s pg).sublinks = s.sublinks ∧
    (settle s pg).links = s.links ∧ (settle s pg).twyQ = s.twyQ ∧ (settle s pg).twyTurn = s.twyTurn ∧
    (settle s pg).twySigs = s.twySigs ∧ (settle s pg).twyIn = s.twyIn ∧ (settle s pg).rounds = s.rounds ∧
    (settle s pg).snaps = s.snaps ∧ (settle s pg).holdOps = s.holdOps ∧ (settle s pg).strands = s.strands ∧
    (settle s pg).flash = s.flash ∧ (settle s pg).jobCmds = s.jobCmds ∧ (settle s pg).releasing = s.releasing ∧
    (settle s pg).invalBusy = s.invalBusy ∧ (settle s pg).hostWait = s.hostWait ∧ (settle s pg).heldMsgs = s.heldMsgs ∧
    (settle s pg).capAt = s.capAt ∧ (settle s pg).freeCount = s.freeCount := by
  unfold settle
  split <;> simp

@[simp] theorem chartSettle_frame (s : State) (q : Nat) :
    (chartSettle s q).pending = s.pending ∧ (chartSettle s q).heldCmds = s.heldCmds ∧ (chartSettle s q).xlats = s.xlats ∧
    (chartSettle s q).images = s.images ∧ (chartSettle s q).bankAt = s.bankAt ∧ (chartSettle s q).grade = s.grade ∧
    (chartSettle s q).latch = s.latch ∧ (chartSettle s q).blks = s.blks ∧ (chartSettle s q).cycles = s.cycles ∧
    (chartSettle s q).clks = s.clks ∧ (chartSettle s q).clkBase = s.clkBase ∧ (chartSettle s q).devInit = s.devInit ∧
    (chartSettle s q).devPolicy = s.devPolicy ∧ (chartSettle s q).sounded = s.sounded ∧ (chartSettle s q).hbm = s.hbm ∧
    (chartSettle s q).host = s.host ∧ (chartSettle s q).sram = s.sram ∧ (chartSettle s q).hbmPoison = s.hbmPoison ∧
    (chartSettle s q).sramPoison = s.sramPoison ∧ (chartSettle s q).hbmUpset = s.hbmUpset ∧
    (chartSettle s q).sramUpset = s.sramUpset ∧ (chartSettle s q).queues = s.queues ∧ (chartSettle s q).rings = s.rings ∧
    (chartSettle s q).tms = s.tms ∧ (chartSettle s q).tmLatch = s.tmLatch ∧ (chartSettle s q).starts = s.starts ∧
    (chartSettle s q).stalls = s.stalls ∧ (chartSettle s q).escs = s.escs ∧ (chartSettle s q).reports = s.reports ∧
    (chartSettle s q).owners = s.owners ∧ (chartSettle s q).valleys = s.valleys ∧ (chartSettle s q).cores = s.cores ∧
    (chartSettle s q).chans = s.chans ∧ (chartSettle s q).streams = s.streams ∧ (chartSettle s q).engTurn = s.engTurn ∧
    (chartSettle s q).handoffs = s.handoffs ∧ (chartSettle s q).lines = s.lines ∧ (chartSettle s q).berms = s.berms ∧
    (chartSettle s q).patrols = s.patrols ∧ (chartSettle s q).ctxs = s.ctxs ∧ (chartSettle s q).estWait = s.estWait ∧
    (chartSettle s q).early = s.early ∧ (chartSettle s q).estLast = s.estLast ∧ (chartSettle s q).estSelf = s.estSelf ∧
    (chartSettle s q).txFlows = s.txFlows ∧ (chartSettle s q).rxFlows = s.rxFlows ∧ (chartSettle s q).paused = s.paused ∧
    (chartSettle s q).portTurns = s.portTurns ∧ (chartSettle s q).sublinks = s.sublinks ∧ (chartSettle s q).links = s.links ∧
    (chartSettle s q).twyQ = s.twyQ ∧ (chartSettle s q).twyTurn = s.twyTurn ∧ (chartSettle s q).twySigs = s.twySigs ∧
    (chartSettle s q).twyIn = s.twyIn ∧ (chartSettle s q).rounds = s.rounds ∧ (chartSettle s q).snaps = s.snaps ∧
    (chartSettle s q).holdOps = s.holdOps ∧ (chartSettle s q).strands = s.strands ∧ (chartSettle s q).flash = s.flash ∧
    (chartSettle s q).jobCmds = s.jobCmds ∧ (chartSettle s q).releasing = s.releasing ∧
    (chartSettle s q).invalBusy = s.invalBusy ∧ (chartSettle s q).hostWait = s.hostWait ∧
    (chartSettle s q).heldMsgs = s.heldMsgs ∧ (chartSettle s q).capAt = s.capAt ∧ (chartSettle s q).freeCount = s.freeCount := by
  unfold chartSettle
  refine foldl_keeps (fun t : State => t.pending = s.pending ∧ t.heldCmds = s.heldCmds ∧ t.xlats = s.xlats ∧ t.images = s.images ∧ t.bankAt = s.bankAt ∧
     t.grade = s.grade ∧ t.latch = s.latch ∧ t.blks = s.blks ∧ t.cycles = s.cycles ∧ t.clks = s.clks ∧ t.clkBase = s.clkBase ∧
     t.devInit = s.devInit ∧ t.devPolicy = s.devPolicy ∧ t.sounded = s.sounded ∧ t.hbm = s.hbm ∧ t.host = s.host ∧
     t.sram = s.sram ∧ t.hbmPoison = s.hbmPoison ∧ t.sramPoison = s.sramPoison ∧ t.hbmUpset = s.hbmUpset ∧
     t.sramUpset = s.sramUpset ∧ t.queues = s.queues ∧ t.rings = s.rings ∧ t.tms = s.tms ∧ t.tmLatch = s.tmLatch ∧
     t.starts = s.starts ∧ t.stalls = s.stalls ∧ t.escs = s.escs ∧ t.reports = s.reports ∧ t.owners = s.owners ∧
     t.valleys = s.valleys ∧ t.cores = s.cores ∧ t.chans = s.chans ∧ t.streams = s.streams ∧ t.engTurn = s.engTurn ∧
     t.handoffs = s.handoffs ∧ t.lines = s.lines ∧ t.berms = s.berms ∧ t.patrols = s.patrols ∧ t.ctxs = s.ctxs ∧
     t.estWait = s.estWait ∧ t.early = s.early ∧ t.estLast = s.estLast ∧ t.estSelf = s.estSelf ∧ t.txFlows = s.txFlows ∧
     t.rxFlows = s.rxFlows ∧ t.paused = s.paused ∧ t.portTurns = s.portTurns ∧ t.sublinks = s.sublinks ∧ t.links = s.links ∧
     t.twyQ = s.twyQ ∧ t.twyTurn = s.twyTurn ∧ t.twySigs = s.twySigs ∧ t.twyIn = s.twyIn ∧ t.rounds = s.rounds ∧
     t.snaps = s.snaps ∧ t.holdOps = s.holdOps ∧ t.strands = s.strands ∧ t.flash = s.flash ∧ t.jobCmds = s.jobCmds ∧
     t.releasing = s.releasing ∧ t.invalBusy = s.invalBusy ∧ t.hostWait = s.hostWait ∧ t.heldMsgs = s.heldMsgs ∧
     t.capAt = s.capAt ∧ t.freeCount = s.freeCount) _ _ ?_ s
    ⟨rfl, rfl, rfl, rfl, rfl, rfl, rfl, rfl, rfl, rfl, rfl, rfl, rfl, rfl, rfl, rfl, rfl, rfl, rfl, rfl, rfl, rfl, rfl, rfl, rfl, rfl,
    rfl, rfl, rfl, rfl, rfl, rfl, rfl, rfl, rfl, rfl, rfl, rfl, rfl, rfl, rfl, rfl, rfl, rfl, rfl, rfl, rfl, rfl, rfl, rfl, rfl, rfl,
    rfl, rfl, rfl, rfl, rfl, rfl, rfl, rfl, rfl, rfl, rfl, rfl, rfl, rfl⟩
  intro t o h
  split
  · simpa using h
  · exact h

@[simp] theorem opEnd_frame (s : State) (q seq : Nat) (r : CompRec) :
    (opEnd s q seq r).pending = s.pending ∧ (opEnd s q seq r).heldCmds = s.heldCmds ∧ (opEnd s q seq r).xlats = s.xlats ∧
    (opEnd s q seq r).images = s.images ∧ (opEnd s q seq r).bankAt = s.bankAt ∧ (opEnd s q seq r).grade = s.grade ∧
    (opEnd s q seq r).latch = s.latch ∧ (opEnd s q seq r).blks = s.blks ∧ (opEnd s q seq r).cycles = s.cycles ∧
    (opEnd s q seq r).clks = s.clks ∧ (opEnd s q seq r).clkBase = s.clkBase ∧ (opEnd s q seq r).devInit = s.devInit ∧
    (opEnd s q seq r).devPolicy = s.devPolicy ∧ (opEnd s q seq r).sounded = s.sounded ∧ (opEnd s q seq r).hbm = s.hbm ∧
    (opEnd s q seq r).host = s.host ∧ (opEnd s q seq r).sram = s.sram ∧ (opEnd s q seq r).hbmPoison = s.hbmPoison ∧
    (opEnd s q seq r).sramPoison = s.sramPoison ∧ (opEnd s q seq r).hbmUpset = s.hbmUpset ∧
    (opEnd s q seq r).sramUpset = s.sramUpset ∧ (opEnd s q seq r).rings = s.rings ∧ (opEnd s q seq r).tms = s.tms ∧
    (opEnd s q seq r).tmLatch = s.tmLatch ∧ (opEnd s q seq r).starts = s.starts ∧ (opEnd s q seq r).stalls = s.stalls ∧
    (opEnd s q seq r).escs = s.escs ∧ (opEnd s q seq r).reports = s.reports ∧ (opEnd s q seq r).owners = s.owners ∧
    (opEnd s q seq r).valleys = s.valleys ∧ (opEnd s q seq r).cores = s.cores ∧ (opEnd s q seq r).chans = s.chans ∧
    (opEnd s q seq r).streams = s.streams ∧ (opEnd s q seq r).engTurn = s.engTurn ∧ (opEnd s q seq r).handoffs = s.handoffs ∧
    (opEnd s q seq r).lines = s.lines ∧ (opEnd s q seq r).berms = s.berms ∧ (opEnd s q seq r).patrols = s.patrols ∧
    (opEnd s q seq r).ctxs = s.ctxs ∧ (opEnd s q seq r).estWait = s.estWait ∧ (opEnd s q seq r).early = s.early ∧
    (opEnd s q seq r).estLast = s.estLast ∧ (opEnd s q seq r).estSelf = s.estSelf ∧ (opEnd s q seq r).txFlows = s.txFlows ∧
    (opEnd s q seq r).rxFlows = s.rxFlows ∧ (opEnd s q seq r).paused = s.paused ∧ (opEnd s q seq r).portTurns = s.portTurns ∧
    (opEnd s q seq r).sublinks = s.sublinks ∧ (opEnd s q seq r).links = s.links ∧ (opEnd s q seq r).twyQ = s.twyQ ∧
    (opEnd s q seq r).twyTurn = s.twyTurn ∧ (opEnd s q seq r).twySigs = s.twySigs ∧ (opEnd s q seq r).twyIn = s.twyIn ∧
    (opEnd s q seq r).rounds = s.rounds ∧ (opEnd s q seq r).snaps = s.snaps ∧ (opEnd s q seq r).holdOps = s.holdOps ∧
    (opEnd s q seq r).strands = s.strands ∧ (opEnd s q seq r).flash = s.flash ∧ (opEnd s q seq r).jobCmds = s.jobCmds ∧
    (opEnd s q seq r).releasing = s.releasing ∧ (opEnd s q seq r).invalBusy = s.invalBusy ∧
    (opEnd s q seq r).hostWait = s.hostWait ∧ (opEnd s q seq r).heldMsgs = s.heldMsgs ∧ (opEnd s q seq r).capAt = s.capAt ∧
    (opEnd s q seq r).freeCount = s.freeCount := by
  unfold opEnd
  repeat' split
  all_goals simp

@[simp] theorem setV_frame (s : State) (v : Nat) (x : Valley) :
    (setV s v x).pending = s.pending ∧ (setV s v x).heldCmds = s.heldCmds ∧ (setV s v x).xlats = s.xlats ∧
    (setV s v x).images = s.images ∧ (setV s v x).bankAt = s.bankAt ∧ (setV s v x).grade = s.grade ∧ (setV s v x).regs = s.regs ∧
    (setV s v x).latch = s.latch ∧ (setV s v x).blks = s.blks ∧ (setV s v x).cycles = s.cycles ∧ (setV s v x).clks = s.clks ∧
    (setV s v x).clkBase = s.clkBase ∧ (setV s v x).devInit = s.devInit ∧ (setV s v x).devPolicy = s.devPolicy ∧
    (setV s v x).sounded = s.sounded ∧ (setV s v x).hbm = s.hbm ∧ (setV s v x).host = s.host ∧ (setV s v x).sram = s.sram ∧
    (setV s v x).hbmPoison = s.hbmPoison ∧ (setV s v x).sramPoison = s.sramPoison ∧ (setV s v x).hbmUpset = s.hbmUpset ∧
    (setV s v x).sramUpset = s.sramUpset ∧ (setV s v x).queues = s.queues ∧ (setV s v x).rings = s.rings ∧
    (setV s v x).tms = s.tms ∧ (setV s v x).tmLatch = s.tmLatch ∧ (setV s v x).ops = s.ops ∧ (setV s v x).starts = s.starts ∧
    (setV s v x).pends = s.pends ∧ (setV s v x).stalls = s.stalls ∧ (setV s v x).escs = s.escs ∧
    (setV s v x).reports = s.reports ∧ (setV s v x).owners = s.owners ∧ (setV s v x).cores = s.cores ∧
    (setV s v x).chans = s.chans ∧ (setV s v x).streams = s.streams ∧ (setV s v x).engTurn = s.engTurn ∧
    (setV s v x).handoffs = s.handoffs ∧ (setV s v x).lines = s.lines ∧ (setV s v x).berms = s.berms ∧
    (setV s v x).patrols = s.patrols ∧ (setV s v x).ctxs = s.ctxs ∧ (setV s v x).estWait = s.estWait ∧
    (setV s v x).early = s.early ∧ (setV s v x).estLast = s.estLast ∧ (setV s v x).estSelf = s.estSelf ∧
    (setV s v x).txFlows = s.txFlows ∧ (setV s v x).rxFlows = s.rxFlows ∧ (setV s v x).paused = s.paused ∧
    (setV s v x).portTurns = s.portTurns ∧ (setV s v x).sublinks = s.sublinks ∧ (setV s v x).links = s.links ∧
    (setV s v x).twyQ = s.twyQ ∧ (setV s v x).twyTurn = s.twyTurn ∧ (setV s v x).twySigs = s.twySigs ∧
    (setV s v x).twyIn = s.twyIn ∧ (setV s v x).rounds = s.rounds ∧ (setV s v x).snaps = s.snaps ∧
    (setV s v x).holdOps = s.holdOps ∧ (setV s v x).strands = s.strands ∧ (setV s v x).flash = s.flash ∧ (setV s v x).hl = s.hl ∧
    (setV s v x).jobCmds = s.jobCmds ∧ (setV s v x).releasing = s.releasing ∧ (setV s v x).invalBusy = s.invalBusy ∧
    (setV s v x).hostWait = s.hostWait ∧ (setV s v x).heldMsgs = s.heldMsgs ∧ (setV s v x).capAt = s.capAt ∧
    (setV s v x).freeCount = s.freeCount ∧ (setV s v x).out = s.out :=
  ⟨rfl, rfl, rfl, rfl, rfl, rfl, rfl, rfl, rfl, rfl, rfl, rfl, rfl, rfl, rfl, rfl, rfl, rfl, rfl, rfl, rfl, rfl, rfl, rfl, rfl, rfl,
    rfl, rfl, rfl, rfl, rfl, rfl, rfl, rfl, rfl, rfl, rfl, rfl, rfl, rfl, rfl, rfl, rfl, rfl, rfl, rfl, rfl, rfl, rfl, rfl, rfl, rfl,
    rfl, rfl, rfl, rfl, rfl, rfl, rfl, rfl, rfl, rfl, rfl, rfl, rfl, rfl, rfl, rfl, rfl, rfl⟩

@[simp] theorem setCore_frame (s : State) (c : Nat) (x : Core) :
    (setCore s c x).pending = s.pending ∧ (setCore s c x).heldCmds = s.heldCmds ∧ (setCore s c x).xlats = s.xlats ∧
    (setCore s c x).images = s.images ∧ (setCore s c x).bankAt = s.bankAt ∧ (setCore s c x).grade = s.grade ∧
    (setCore s c x).regs = s.regs ∧ (setCore s c x).latch = s.latch ∧ (setCore s c x).blks = s.blks ∧
    (setCore s c x).cycles = s.cycles ∧ (setCore s c x).clks = s.clks ∧ (setCore s c x).clkBase = s.clkBase ∧
    (setCore s c x).devInit = s.devInit ∧ (setCore s c x).devPolicy = s.devPolicy ∧ (setCore s c x).sounded = s.sounded ∧
    (setCore s c x).hbm = s.hbm ∧ (setCore s c x).host = s.host ∧ (setCore s c x).sram = s.sram ∧
    (setCore s c x).hbmPoison = s.hbmPoison ∧ (setCore s c x).sramPoison = s.sramPoison ∧ (setCore s c x).hbmUpset = s.hbmUpset ∧
    (setCore s c x).sramUpset = s.sramUpset ∧ (setCore s c x).queues = s.queues ∧ (setCore s c x).rings = s.rings ∧
    (setCore s c x).tms = s.tms ∧ (setCore s c x).tmLatch = s.tmLatch ∧ (setCore s c x).ops = s.ops ∧
    (setCore s c x).starts = s.starts ∧ (setCore s c x).pends = s.pends ∧ (setCore s c x).stalls = s.stalls ∧
    (setCore s c x).escs = s.escs ∧ (setCore s c x).reports = s.reports ∧ (setCore s c x).owners = s.owners ∧
    (setCore s c x).valleys = s.valleys ∧ (setCore s c x).chans = s.chans ∧ (setCore s c x).streams = s.streams ∧
    (setCore s c x).engTurn = s.engTurn ∧ (setCore s c x).handoffs = s.handoffs ∧ (setCore s c x).lines = s.lines ∧
    (setCore s c x).berms = s.berms ∧ (setCore s c x).patrols = s.patrols ∧ (setCore s c x).ctxs = s.ctxs ∧
    (setCore s c x).estWait = s.estWait ∧ (setCore s c x).early = s.early ∧ (setCore s c x).estLast = s.estLast ∧
    (setCore s c x).estSelf = s.estSelf ∧ (setCore s c x).txFlows = s.txFlows ∧ (setCore s c x).rxFlows = s.rxFlows ∧
    (setCore s c x).paused = s.paused ∧ (setCore s c x).portTurns = s.portTurns ∧ (setCore s c x).sublinks = s.sublinks ∧
    (setCore s c x).links = s.links ∧ (setCore s c x).twyQ = s.twyQ ∧ (setCore s c x).twyTurn = s.twyTurn ∧
    (setCore s c x).twySigs = s.twySigs ∧ (setCore s c x).twyIn = s.twyIn ∧ (setCore s c x).rounds = s.rounds ∧
    (setCore s c x).snaps = s.snaps ∧ (setCore s c x).holdOps = s.holdOps ∧ (setCore s c x).strands = s.strands ∧
    (setCore s c x).flash = s.flash ∧ (setCore s c x).hl = s.hl ∧ (setCore s c x).jobCmds = s.jobCmds ∧
    (setCore s c x).releasing = s.releasing ∧ (setCore s c x).invalBusy = s.invalBusy ∧ (setCore s c x).hostWait = s.hostWait ∧
    (setCore s c x).heldMsgs = s.heldMsgs ∧ (setCore s c x).capAt = s.capAt ∧ (setCore s c x).freeCount = s.freeCount ∧
    (setCore s c x).out = s.out :=
  ⟨rfl, rfl, rfl, rfl, rfl, rfl, rfl, rfl, rfl, rfl, rfl, rfl, rfl, rfl, rfl, rfl, rfl, rfl, rfl, rfl, rfl, rfl, rfl, rfl, rfl, rfl,
    rfl, rfl, rfl, rfl, rfl, rfl, rfl, rfl, rfl, rfl, rfl, rfl, rfl, rfl, rfl, rfl, rfl, rfl, rfl, rfl, rfl, rfl, rfl, rfl, rfl, rfl,
    rfl, rfl, rfl, rfl, rfl, rfl, rfl, rfl, rfl, rfl, rfl, rfl, rfl, rfl, rfl, rfl, rfl, rfl⟩

@[simp] theorem setStream_frame (s : State) (e : Eng) (n : Nat) (x : Stream) :
    (setStream s e n x).pending = s.pending ∧ (setStream s e n x).heldCmds = s.heldCmds ∧ (setStream s e n x).xlats = s.xlats ∧
    (setStream s e n x).images = s.images ∧ (setStream s e n x).bankAt = s.bankAt ∧ (setStream s e n x).grade = s.grade ∧
    (setStream s e n x).regs = s.regs ∧ (setStream s e n x).latch = s.latch ∧ (setStream s e n x).blks = s.blks ∧
    (setStream s e n x).cycles = s.cycles ∧ (setStream s e n x).clks = s.clks ∧ (setStream s e n x).clkBase = s.clkBase ∧
    (setStream s e n x).devInit = s.devInit ∧ (setStream s e n x).devPolicy = s.devPolicy ∧
    (setStream s e n x).sounded = s.sounded ∧ (setStream s e n x).hbm = s.hbm ∧ (setStream s e n x).host = s.host ∧
    (setStream s e n x).sram = s.sram ∧ (setStream s e n x).hbmPoison = s.hbmPoison ∧
    (setStream s e n x).sramPoison = s.sramPoison ∧ (setStream s e n x).hbmUpset = s.hbmUpset ∧
    (setStream s e n x).sramUpset = s.sramUpset ∧ (setStream s e n x).queues = s.queues ∧ (setStream s e n x).rings = s.rings ∧
    (setStream s e n x).tms = s.tms ∧ (setStream s e n x).tmLatch = s.tmLatch ∧ (setStream s e n x).ops = s.ops ∧
    (setStream s e n x).starts = s.starts ∧ (setStream s e n x).pends = s.pends ∧ (setStream s e n x).stalls = s.stalls ∧
    (setStream s e n x).escs = s.escs ∧ (setStream s e n x).reports = s.reports ∧ (setStream s e n x).owners = s.owners ∧
    (setStream s e n x).valleys = s.valleys ∧ (setStream s e n x).cores = s.cores ∧ (setStream s e n x).chans = s.chans ∧
    (setStream s e n x).engTurn = s.engTurn ∧ (setStream s e n x).handoffs = s.handoffs ∧ (setStream s e n x).lines = s.lines ∧
    (setStream s e n x).berms = s.berms ∧ (setStream s e n x).patrols = s.patrols ∧ (setStream s e n x).ctxs = s.ctxs ∧
    (setStream s e n x).estWait = s.estWait ∧ (setStream s e n x).early = s.early ∧ (setStream s e n x).estLast = s.estLast ∧
    (setStream s e n x).estSelf = s.estSelf ∧ (setStream s e n x).txFlows = s.txFlows ∧ (setStream s e n x).rxFlows = s.rxFlows ∧
    (setStream s e n x).paused = s.paused ∧ (setStream s e n x).portTurns = s.portTurns ∧
    (setStream s e n x).sublinks = s.sublinks ∧ (setStream s e n x).links = s.links ∧ (setStream s e n x).twyQ = s.twyQ ∧
    (setStream s e n x).twyTurn = s.twyTurn ∧ (setStream s e n x).twySigs = s.twySigs ∧ (setStream s e n x).twyIn = s.twyIn ∧
    (setStream s e n x).rounds = s.rounds ∧ (setStream s e n x).snaps = s.snaps ∧ (setStream s e n x).holdOps = s.holdOps ∧
    (setStream s e n x).strands = s.strands ∧ (setStream s e n x).flash = s.flash ∧ (setStream s e n x).hl = s.hl ∧
    (setStream s e n x).jobCmds = s.jobCmds ∧ (setStream s e n x).releasing = s.releasing ∧
    (setStream s e n x).invalBusy = s.invalBusy ∧ (setStream s e n x).hostWait = s.hostWait ∧
    (setStream s e n x).heldMsgs = s.heldMsgs ∧ (setStream s e n x).capAt = s.capAt ∧
    (setStream s e n x).freeCount = s.freeCount ∧ (setStream s e n x).out = s.out :=
  ⟨rfl, rfl, rfl, rfl, rfl, rfl, rfl, rfl, rfl, rfl, rfl, rfl, rfl, rfl, rfl, rfl, rfl, rfl, rfl, rfl, rfl, rfl, rfl, rfl, rfl, rfl,
    rfl, rfl, rfl, rfl, rfl, rfl, rfl, rfl, rfl, rfl, rfl, rfl, rfl, rfl, rfl, rfl, rfl, rfl, rfl, rfl, rfl, rfl, rfl, rfl, rfl, rfl,
    rfl, rfl, rfl, rfl, rfl, rfl, rfl, rfl, rfl, rfl, rfl, rfl, rfl, rfl, rfl, rfl, rfl, rfl⟩

@[simp] theorem stackTouch_frame (s : State) (stack : Nat) :
    (stackTouch s stack).pending = s.pending ∧ (stackTouch s stack).heldCmds = s.heldCmds ∧ (stackTouch s stack).xlats = s.xlats ∧
    (stackTouch s stack).images = s.images ∧ (stackTouch s stack).bankAt = s.bankAt ∧ (stackTouch s stack).grade = s.grade ∧
    (stackTouch s stack).regs = s.regs ∧ (stackTouch s stack).latch = s.latch ∧ (stackTouch s stack).blks = s.blks ∧
    (stackTouch s stack).cycles = s.cycles ∧ (stackTouch s stack).clks = s.clks ∧ (stackTouch s stack).clkBase = s.clkBase ∧
    (stackTouch s stack).devInit = s.devInit ∧ (stackTouch s stack).devPolicy = s.devPolicy ∧
    (stackTouch s stack).sounded = s.sounded ∧ (stackTouch s stack).hbm = s.hbm ∧ (stackTouch s stack).host = s.host ∧
    (stackTouch s stack).sram = s.sram ∧ (stackTouch s stack).hbmPoison = s.hbmPoison ∧
    (stackTouch s stack).sramPoison = s.sramPoison ∧ (stackTouch s stack).hbmUpset = s.hbmUpset ∧
    (stackTouch s stack).sramUpset = s.sramUpset ∧ (stackTouch s stack).queues = s.queues ∧ (stackTouch s stack).rings = s.rings ∧
    (stackTouch s stack).tms = s.tms ∧ (stackTouch s stack).tmLatch = s.tmLatch ∧ (stackTouch s stack).ops = s.ops ∧
    (stackTouch s stack).starts = s.starts ∧ (stackTouch s stack).pends = s.pends ∧ (stackTouch s stack).stalls = s.stalls ∧
    (stackTouch s stack).escs = s.escs ∧ (stackTouch s stack).reports = s.reports ∧ (stackTouch s stack).owners = s.owners ∧
    (stackTouch s stack).valleys = s.valleys ∧ (stackTouch s stack).cores = s.cores ∧ (stackTouch s stack).chans = s.chans ∧
    (stackTouch s stack).streams = s.streams ∧ (stackTouch s stack).engTurn = s.engTurn ∧
    (stackTouch s stack).handoffs = s.handoffs ∧ (stackTouch s stack).lines = s.lines ∧ (stackTouch s stack).berms = s.berms ∧
    (stackTouch s stack).patrols = s.patrols ∧ (stackTouch s stack).ctxs = s.ctxs ∧ (stackTouch s stack).estWait = s.estWait ∧
    (stackTouch s stack).early = s.early ∧ (stackTouch s stack).estLast = s.estLast ∧ (stackTouch s stack).estSelf = s.estSelf ∧
    (stackTouch s stack).txFlows = s.txFlows ∧ (stackTouch s stack).rxFlows = s.rxFlows ∧ (stackTouch s stack).paused = s.paused ∧
    (stackTouch s stack).portTurns = s.portTurns ∧ (stackTouch s stack).sublinks = s.sublinks ∧
    (stackTouch s stack).links = s.links ∧ (stackTouch s stack).twyQ = s.twyQ ∧ (stackTouch s stack).twyTurn = s.twyTurn ∧
    (stackTouch s stack).twySigs = s.twySigs ∧ (stackTouch s stack).twyIn = s.twyIn ∧ (stackTouch s stack).rounds = s.rounds ∧
    (stackTouch s stack).snaps = s.snaps ∧ (stackTouch s stack).holdOps = s.holdOps ∧ (stackTouch s stack).strands = s.strands ∧
    (stackTouch s stack).flash = s.flash ∧ (stackTouch s stack).hl = s.hl ∧ (stackTouch s stack).jobCmds = s.jobCmds ∧
    (stackTouch s stack).releasing = s.releasing ∧ (stackTouch s stack).invalBusy = s.invalBusy ∧
    (stackTouch s stack).heldMsgs = s.heldMsgs ∧ (stackTouch s stack).capAt = s.capAt ∧
    (stackTouch s stack).freeCount = s.freeCount ∧ (stackTouch s stack).out = s.out := by
  unfold stackTouch
  dsimp only
  split <;> simp

@[simp] theorem hbmCharge_frame (s : State) (stack : Nat) (who : HbmReq) :
    (hbmCharge s stack who).pending = s.pending ∧ (hbmCharge s stack who).heldCmds = s.heldCmds ∧
    (hbmCharge s stack who).xlats = s.xlats ∧ (hbmCharge s stack who).images = s.images ∧
    (hbmCharge s stack who).bankAt = s.bankAt ∧ (hbmCharge s stack who).grade = s.grade ∧
    (hbmCharge s stack who).latch = s.latch ∧ (hbmCharge s stack who).blks = s.blks ∧ (hbmCharge s stack who).cycles = s.cycles ∧
    (hbmCharge s stack who).clks = s.clks ∧ (hbmCharge s stack who).clkBase = s.clkBase ∧
    (hbmCharge s stack who).devInit = s.devInit ∧ (hbmCharge s stack who).devPolicy = s.devPolicy ∧
    (hbmCharge s stack who).sounded = s.sounded ∧ (hbmCharge s stack who).hbm = s.hbm ∧ (hbmCharge s stack who).host = s.host ∧
    (hbmCharge s stack who).sram = s.sram ∧ (hbmCharge s stack who).hbmPoison = s.hbmPoison ∧
    (hbmCharge s stack who).sramPoison = s.sramPoison ∧ (hbmCharge s stack who).hbmUpset = s.hbmUpset ∧
    (hbmCharge s stack who).sramUpset = s.sramUpset ∧ (hbmCharge s stack who).queues = s.queues ∧
    (hbmCharge s stack who).rings = s.rings ∧ (hbmCharge s stack who).tms = s.tms ∧ (hbmCharge s stack who).tmLatch = s.tmLatch ∧
    (hbmCharge s stack who).ops = s.ops ∧ (hbmCharge s stack who).starts = s.starts ∧ (hbmCharge s stack who).pends = s.pends ∧
    (hbmCharge s stack who).stalls = s.stalls ∧ (hbmCharge s stack who).escs = s.escs ∧
    (hbmCharge s stack who).reports = s.reports ∧ (hbmCharge s stack who).owners = s.owners ∧
    (hbmCharge s stack who).valleys = s.valleys ∧ (hbmCharge s stack who).cores = s.cores ∧
    (hbmCharge s stack who).chans = s.chans ∧ (hbmCharge s stack who).streams = s.streams ∧
    (hbmCharge s stack who).engTurn = s.engTurn ∧ (hbmCharge s stack who).handoffs = s.handoffs ∧
    (hbmCharge s stack who).lines = s.lines ∧ (hbmCharge s stack who).berms = s.berms ∧
    (hbmCharge s stack who).patrols = s.patrols ∧ (hbmCharge s stack who).ctxs = s.ctxs ∧
    (hbmCharge s stack who).estWait = s.estWait ∧ (hbmCharge s stack who).early = s.early ∧
    (hbmCharge s stack who).estLast = s.estLast ∧ (hbmCharge s stack who).estSelf = s.estSelf ∧
    (hbmCharge s stack who).txFlows = s.txFlows ∧ (hbmCharge s stack who).rxFlows = s.rxFlows ∧
    (hbmCharge s stack who).paused = s.paused ∧ (hbmCharge s stack who).portTurns = s.portTurns ∧
    (hbmCharge s stack who).sublinks = s.sublinks ∧ (hbmCharge s stack who).links = s.links ∧
    (hbmCharge s stack who).twyQ = s.twyQ ∧ (hbmCharge s stack who).twyTurn = s.twyTurn ∧
    (hbmCharge s stack who).twySigs = s.twySigs ∧ (hbmCharge s stack who).twyIn = s.twyIn ∧
    (hbmCharge s stack who).rounds = s.rounds ∧ (hbmCharge s stack who).snaps = s.snaps ∧
    (hbmCharge s stack who).holdOps = s.holdOps ∧ (hbmCharge s stack who).strands = s.strands ∧
    (hbmCharge s stack who).flash = s.flash ∧ (hbmCharge s stack who).hl = s.hl ∧ (hbmCharge s stack who).jobCmds = s.jobCmds ∧
    (hbmCharge s stack who).releasing = s.releasing ∧ (hbmCharge s stack who).invalBusy = s.invalBusy ∧
    (hbmCharge s stack who).hostWait = s.hostWait ∧ (hbmCharge s stack who).heldMsgs = s.heldMsgs ∧
    (hbmCharge s stack who).capAt = s.capAt ∧ (hbmCharge s stack who).freeCount = s.freeCount ∧
    (hbmCharge s stack who).out = s.out := by
  unfold hbmCharge
  dsimp only
  repeat' split
  all_goals simp

@[simp] theorem captureHbm_frame (s : State) (unit src : Nat) (sym : Option Nat) :
    (captureHbm s unit src sym).pending = s.pending ∧ (captureHbm s unit src sym).heldCmds = s.heldCmds ∧
    (captureHbm s unit src sym).xlats = s.xlats ∧ (captureHbm s unit src sym).images = s.images ∧
    (captureHbm s unit src sym).bankAt = s.bankAt ∧ (captureHbm s unit src sym).grade = s.grade ∧
    (captureHbm s unit src sym).latch = s.latch ∧ (captureHbm s unit src sym).blks = s.blks ∧
    (captureHbm s unit src sym).cycles = s.cycles ∧ (captureHbm s unit src sym).clks = s.clks ∧
    (captureHbm s unit src sym).clkBase = s.clkBase ∧ (captureHbm s unit src sym).devInit = s.devInit ∧
    (captureHbm s unit src sym).devPolicy = s.devPolicy ∧ (captureHbm s unit src sym).sounded = s.sounded ∧
    (captureHbm s unit src sym).hbm = s.hbm ∧ (captureHbm s unit src sym).host = s.host ∧
    (captureHbm s unit src sym).sram = s.sram ∧ (captureHbm s unit src sym).hbmPoison = s.hbmPoison ∧
    (captureHbm s unit src sym).sramPoison = s.sramPoison ∧ (captureHbm s unit src sym).hbmUpset = s.hbmUpset ∧
    (captureHbm s unit src sym).sramUpset = s.sramUpset ∧ (captureHbm s unit src sym).queues = s.queues ∧
    (captureHbm s unit src sym).rings = s.rings ∧ (captureHbm s unit src sym).tms = s.tms ∧
    (captureHbm s unit src sym).tmLatch = s.tmLatch ∧ (captureHbm s unit src sym).ops = s.ops ∧
    (captureHbm s unit src sym).starts = s.starts ∧ (captureHbm s unit src sym).pends = s.pends ∧
    (captureHbm s unit src sym).stalls = s.stalls ∧ (captureHbm s unit src sym).escs = s.escs ∧
    (captureHbm s unit src sym).reports = s.reports ∧ (captureHbm s unit src sym).owners = s.owners ∧
    (captureHbm s unit src sym).valleys = s.valleys ∧ (captureHbm s unit src sym).cores = s.cores ∧
    (captureHbm s unit src sym).chans = s.chans ∧ (captureHbm s unit src sym).streams = s.streams ∧
    (captureHbm s unit src sym).engTurn = s.engTurn ∧ (captureHbm s unit src sym).handoffs = s.handoffs ∧
    (captureHbm s unit src sym).lines = s.lines ∧ (captureHbm s unit src sym).berms = s.berms ∧
    (captureHbm s unit src sym).patrols = s.patrols ∧ (captureHbm s unit src sym).ctxs = s.ctxs ∧
    (captureHbm s unit src sym).estWait = s.estWait ∧ (captureHbm s unit src sym).early = s.early ∧
    (captureHbm s unit src sym).estLast = s.estLast ∧ (captureHbm s unit src sym).estSelf = s.estSelf ∧
    (captureHbm s unit src sym).txFlows = s.txFlows ∧ (captureHbm s unit src sym).rxFlows = s.rxFlows ∧
    (captureHbm s unit src sym).paused = s.paused ∧ (captureHbm s unit src sym).portTurns = s.portTurns ∧
    (captureHbm s unit src sym).sublinks = s.sublinks ∧ (captureHbm s unit src sym).links = s.links ∧
    (captureHbm s unit src sym).twyQ = s.twyQ ∧ (captureHbm s unit src sym).twyTurn = s.twyTurn ∧
    (captureHbm s unit src sym).twySigs = s.twySigs ∧ (captureHbm s unit src sym).twyIn = s.twyIn ∧
    (captureHbm s unit src sym).rounds = s.rounds ∧ (captureHbm s unit src sym).snaps = s.snaps ∧
    (captureHbm s unit src sym).holdOps = s.holdOps ∧ (captureHbm s unit src sym).strands = s.strands ∧
    (captureHbm s unit src sym).flash = s.flash ∧ (captureHbm s unit src sym).hl = s.hl ∧
    (captureHbm s unit src sym).jobCmds = s.jobCmds ∧ (captureHbm s unit src sym).releasing = s.releasing ∧
    (captureHbm s unit src sym).invalBusy = s.invalBusy ∧ (captureHbm s unit src sym).hostWait = s.hostWait ∧
    (captureHbm s unit src sym).heldMsgs = s.heldMsgs ∧ (captureHbm s unit src sym).freeCount = s.freeCount ∧
    (captureHbm s unit src sym).out = s.out := by
  unfold captureHbm
  dsimp only
  split <;> simp

@[simp] theorem captureSram_frame (s : State) (core w : Nat) (scrub : Bool) (sym : Option Nat) :
    (captureSram s core w scrub sym).pending = s.pending ∧ (captureSram s core w scrub sym).heldCmds = s.heldCmds ∧
    (captureSram s core w scrub sym).xlats = s.xlats ∧ (captureSram s core w scrub sym).images = s.images ∧
    (captureSram s core w scrub sym).bankAt = s.bankAt ∧ (captureSram s core w scrub sym).grade = s.grade ∧
    (captureSram s core w scrub sym).latch = s.latch ∧ (captureSram s core w scrub sym).blks = s.blks ∧
    (captureSram s core w scrub sym).cycles = s.cycles ∧ (captureSram s core w scrub sym).clks = s.clks ∧
    (captureSram s core w scrub sym).clkBase = s.clkBase ∧ (captureSram s core w scrub sym).devInit = s.devInit ∧
    (captureSram s core w scrub sym).devPolicy = s.devPolicy ∧ (captureSram s core w scrub sym).sounded = s.sounded ∧
    (captureSram s core w scrub sym).hbm = s.hbm ∧ (captureSram s core w scrub sym).host = s.host ∧
    (captureSram s core w scrub sym).sram = s.sram ∧ (captureSram s core w scrub sym).hbmPoison = s.hbmPoison ∧
    (captureSram s core w scrub sym).sramPoison = s.sramPoison ∧ (captureSram s core w scrub sym).hbmUpset = s.hbmUpset ∧
    (captureSram s core w scrub sym).sramUpset = s.sramUpset ∧ (captureSram s core w scrub sym).queues = s.queues ∧
    (captureSram s core w scrub sym).rings = s.rings ∧ (captureSram s core w scrub sym).tms = s.tms ∧
    (captureSram s core w scrub sym).tmLatch = s.tmLatch ∧ (captureSram s core w scrub sym).ops = s.ops ∧
    (captureSram s core w scrub sym).starts = s.starts ∧ (captureSram s core w scrub sym).pends = s.pends ∧
    (captureSram s core w scrub sym).stalls = s.stalls ∧ (captureSram s core w scrub sym).escs = s.escs ∧
    (captureSram s core w scrub sym).reports = s.reports ∧ (captureSram s core w scrub sym).owners = s.owners ∧
    (captureSram s core w scrub sym).valleys = s.valleys ∧ (captureSram s core w scrub sym).cores = s.cores ∧
    (captureSram s core w scrub sym).chans = s.chans ∧ (captureSram s core w scrub sym).streams = s.streams ∧
    (captureSram s core w scrub sym).engTurn = s.engTurn ∧ (captureSram s core w scrub sym).handoffs = s.handoffs ∧
    (captureSram s core w scrub sym).lines = s.lines ∧ (captureSram s core w scrub sym).berms = s.berms ∧
    (captureSram s core w scrub sym).patrols = s.patrols ∧ (captureSram s core w scrub sym).ctxs = s.ctxs ∧
    (captureSram s core w scrub sym).estWait = s.estWait ∧ (captureSram s core w scrub sym).early = s.early ∧
    (captureSram s core w scrub sym).estLast = s.estLast ∧ (captureSram s core w scrub sym).estSelf = s.estSelf ∧
    (captureSram s core w scrub sym).txFlows = s.txFlows ∧ (captureSram s core w scrub sym).rxFlows = s.rxFlows ∧
    (captureSram s core w scrub sym).paused = s.paused ∧ (captureSram s core w scrub sym).portTurns = s.portTurns ∧
    (captureSram s core w scrub sym).sublinks = s.sublinks ∧ (captureSram s core w scrub sym).links = s.links ∧
    (captureSram s core w scrub sym).twyQ = s.twyQ ∧ (captureSram s core w scrub sym).twyTurn = s.twyTurn ∧
    (captureSram s core w scrub sym).twySigs = s.twySigs ∧ (captureSram s core w scrub sym).twyIn = s.twyIn ∧
    (captureSram s core w scrub sym).rounds = s.rounds ∧ (captureSram s core w scrub sym).snaps = s.snaps ∧
    (captureSram s core w scrub sym).holdOps = s.holdOps ∧ (captureSram s core w scrub sym).strands = s.strands ∧
    (captureSram s core w scrub sym).flash = s.flash ∧ (captureSram s core w scrub sym).hl = s.hl ∧
    (captureSram s core w scrub sym).jobCmds = s.jobCmds ∧ (captureSram s core w scrub sym).releasing = s.releasing ∧
    (captureSram s core w scrub sym).invalBusy = s.invalBusy ∧ (captureSram s core w scrub sym).hostWait = s.hostWait ∧
    (captureSram s core w scrub sym).heldMsgs = s.heldMsgs ∧ (captureSram s core w scrub sym).freeCount = s.freeCount ∧
    (captureSram s core w scrub sym).out = s.out := by
  unfold captureSram
  dsimp only
  split <;> simp

@[simp] theorem beatStop_frame (s : State) (d : Nat) :
    (beatStop s d).pending = s.pending ∧ (beatStop s d).heldCmds = s.heldCmds ∧ (beatStop s d).xlats = s.xlats ∧
    (beatStop s d).images = s.images ∧ (beatStop s d).bankAt = s.bankAt ∧ (beatStop s d).grade = s.grade ∧
    (beatStop s d).latch = s.latch ∧ (beatStop s d).blks = s.blks ∧ (beatStop s d).cycles = s.cycles ∧
    (beatStop s d).clks = s.clks ∧ (beatStop s d).clkBase = s.clkBase ∧ (beatStop s d).devInit = s.devInit ∧
    (beatStop s d).devPolicy = s.devPolicy ∧ (beatStop s d).sounded = s.sounded ∧ (beatStop s d).hbm = s.hbm ∧
    (beatStop s d).host = s.host ∧ (beatStop s d).sram = s.sram ∧ (beatStop s d).hbmPoison = s.hbmPoison ∧
    (beatStop s d).sramPoison = s.sramPoison ∧ (beatStop s d).hbmUpset = s.hbmUpset ∧ (beatStop s d).sramUpset = s.sramUpset ∧
    (beatStop s d).queues = s.queues ∧ (beatStop s d).rings = s.rings ∧ (beatStop s d).tms = s.tms ∧
    (beatStop s d).tmLatch = s.tmLatch ∧ (beatStop s d).ops = s.ops ∧ (beatStop s d).starts = s.starts ∧
    (beatStop s d).pends = s.pends ∧ (beatStop s d).stalls = s.stalls ∧ (beatStop s d).escs = s.escs ∧
    (beatStop s d).reports = s.reports ∧ (beatStop s d).owners = s.owners ∧ (beatStop s d).valleys = s.valleys ∧
    (beatStop s d).cores = s.cores ∧ (beatStop s d).chans = s.chans ∧ (beatStop s d).streams = s.streams ∧
    (beatStop s d).engTurn = s.engTurn ∧ (beatStop s d).handoffs = s.handoffs ∧ (beatStop s d).lines = s.lines ∧
    (beatStop s d).berms = s.berms ∧ (beatStop s d).patrols = s.patrols ∧ (beatStop s d).ctxs = s.ctxs ∧
    (beatStop s d).estWait = s.estWait ∧ (beatStop s d).early = s.early ∧ (beatStop s d).estLast = s.estLast ∧
    (beatStop s d).estSelf = s.estSelf ∧ (beatStop s d).txFlows = s.txFlows ∧ (beatStop s d).rxFlows = s.rxFlows ∧
    (beatStop s d).paused = s.paused ∧ (beatStop s d).portTurns = s.portTurns ∧ (beatStop s d).sublinks = s.sublinks ∧
    (beatStop s d).links = s.links ∧ (beatStop s d).twyQ = s.twyQ ∧ (beatStop s d).twyTurn = s.twyTurn ∧
    (beatStop s d).twySigs = s.twySigs ∧ (beatStop s d).twyIn = s.twyIn ∧ (beatStop s d).rounds = s.rounds ∧
    (beatStop s d).snaps = s.snaps ∧ (beatStop s d).holdOps = s.holdOps ∧ (beatStop s d).strands = s.strands ∧
    (beatStop s d).flash = s.flash ∧ (beatStop s d).hl = s.hl ∧ (beatStop s d).jobCmds = s.jobCmds ∧
    (beatStop s d).releasing = s.releasing ∧ (beatStop s d).invalBusy = s.invalBusy ∧ (beatStop s d).hostWait = s.hostWait ∧
    (beatStop s d).heldMsgs = s.heldMsgs ∧ (beatStop s d).capAt = s.capAt ∧ (beatStop s d).freeCount = s.freeCount ∧
    (beatStop s d).out = s.out :=
  ⟨rfl, rfl, rfl, rfl, rfl, rfl, rfl, rfl, rfl, rfl, rfl, rfl, rfl, rfl, rfl, rfl, rfl, rfl, rfl, rfl, rfl, rfl, rfl, rfl, rfl, rfl,
    rfl, rfl, rfl, rfl, rfl, rfl, rfl, rfl, rfl, rfl, rfl, rfl, rfl, rfl, rfl, rfl, rfl, rfl, rfl, rfl, rfl, rfl, rfl, rfl, rfl, rfl,
    rfl, rfl, rfl, rfl, rfl, rfl, rfl, rfl, rfl, rfl, rfl, rfl, rfl, rfl, rfl, rfl, rfl, rfl⟩

@[simp] theorem passStatus_frame (s : State) (inst : Nat) :
    (passStatus s inst).pending = s.pending ∧ (passStatus s inst).heldCmds = s.heldCmds ∧ (passStatus s inst).xlats = s.xlats ∧
    (passStatus s inst).images = s.images ∧ (passStatus s inst).bankAt = s.bankAt ∧ (passStatus s inst).grade = s.grade ∧
    (passStatus s inst).latch = s.latch ∧ (passStatus s inst).blks = s.blks ∧ (passStatus s inst).cycles = s.cycles ∧
    (passStatus s inst).clks = s.clks ∧ (passStatus s inst).clkBase = s.clkBase ∧ (passStatus s inst).devInit = s.devInit ∧
    (passStatus s inst).devPolicy = s.devPolicy ∧ (passStatus s inst).sounded = s.sounded ∧ (passStatus s inst).hbm = s.hbm ∧
    (passStatus s inst).host = s.host ∧ (passStatus s inst).sram = s.sram ∧ (passStatus s inst).hbmPoison = s.hbmPoison ∧
    (passStatus s inst).sramPoison = s.sramPoison ∧ (passStatus s inst).hbmUpset = s.hbmUpset ∧
    (passStatus s inst).sramUpset = s.sramUpset ∧ (passStatus s inst).queues = s.queues ∧ (passStatus s inst).rings = s.rings ∧
    (passStatus s inst).tms = s.tms ∧ (passStatus s inst).tmLatch = s.tmLatch ∧ (passStatus s inst).ops = s.ops ∧
    (passStatus s inst).starts = s.starts ∧ (passStatus s inst).pends = s.pends ∧ (passStatus s inst).stalls = s.stalls ∧
    (passStatus s inst).escs = s.escs ∧ (passStatus s inst).reports = s.reports ∧ (passStatus s inst).owners = s.owners ∧
    (passStatus s inst).valleys = s.valleys ∧ (passStatus s inst).cores = s.cores ∧ (passStatus s inst).chans = s.chans ∧
    (passStatus s inst).streams = s.streams ∧ (passStatus s inst).engTurn = s.engTurn ∧
    (passStatus s inst).handoffs = s.handoffs ∧ (passStatus s inst).lines = s.lines ∧ (passStatus s inst).berms = s.berms ∧
    (passStatus s inst).patrols = s.patrols ∧ (passStatus s inst).ctxs = s.ctxs ∧ (passStatus s inst).estWait = s.estWait ∧
    (passStatus s inst).early = s.early ∧ (passStatus s inst).estLast = s.estLast ∧ (passStatus s inst).estSelf = s.estSelf ∧
    (passStatus s inst).txFlows = s.txFlows ∧ (passStatus s inst).rxFlows = s.rxFlows ∧ (passStatus s inst).paused = s.paused ∧
    (passStatus s inst).portTurns = s.portTurns ∧ (passStatus s inst).sublinks = s.sublinks ∧
    (passStatus s inst).links = s.links ∧ (passStatus s inst).twyQ = s.twyQ ∧ (passStatus s inst).twyTurn = s.twyTurn ∧
    (passStatus s inst).twySigs = s.twySigs ∧ (passStatus s inst).twyIn = s.twyIn ∧ (passStatus s inst).rounds = s.rounds ∧
    (passStatus s inst).snaps = s.snaps ∧ (passStatus s inst).holdOps = s.holdOps ∧ (passStatus s inst).strands = s.strands ∧
    (passStatus s inst).flash = s.flash ∧ (passStatus s inst).jobCmds = s.jobCmds ∧ (passStatus s inst).releasing = s.releasing ∧
    (passStatus s inst).invalBusy = s.invalBusy ∧ (passStatus s inst).hostWait = s.hostWait ∧
    (passStatus s inst).heldMsgs = s.heldMsgs ∧ (passStatus s inst).capAt = s.capAt ∧
    (passStatus s inst).freeCount = s.freeCount := by
  unfold passStatus
  dsimp only
  split <;> simp

@[simp] theorem chanFail_frame (s : State) (inst c : Nat) :
    (chanFail s inst c).pending = s.pending ∧ (chanFail s inst c).heldCmds = s.heldCmds ∧ (chanFail s inst c).xlats = s.xlats ∧
    (chanFail s inst c).images = s.images ∧ (chanFail s inst c).bankAt = s.bankAt ∧ (chanFail s inst c).grade = s.grade ∧
    (chanFail s inst c).latch = s.latch ∧ (chanFail s inst c).blks = s.blks ∧ (chanFail s inst c).cycles = s.cycles ∧
    (chanFail s inst c).clks = s.clks ∧ (chanFail s inst c).clkBase = s.clkBase ∧ (chanFail s inst c).devInit = s.devInit ∧
    (chanFail s inst c).devPolicy = s.devPolicy ∧ (chanFail s inst c).sounded = s.sounded ∧ (chanFail s inst c).hbm = s.hbm ∧
    (chanFail s inst c).host = s.host ∧ (chanFail s inst c).sram = s.sram ∧ (chanFail s inst c).hbmPoison = s.hbmPoison ∧
    (chanFail s inst c).sramPoison = s.sramPoison ∧ (chanFail s inst c).hbmUpset = s.hbmUpset ∧
    (chanFail s inst c).sramUpset = s.sramUpset ∧ (chanFail s inst c).queues = s.queues ∧ (chanFail s inst c).rings = s.rings ∧
    (chanFail s inst c).tms = s.tms ∧ (chanFail s inst c).tmLatch = s.tmLatch ∧ (chanFail s inst c).ops = s.ops ∧
    (chanFail s inst c).starts = s.starts ∧ (chanFail s inst c).pends = s.pends ∧ (chanFail s inst c).stalls = s.stalls ∧
    (chanFail s inst c).escs = s.escs ∧ (chanFail s inst c).reports = s.reports ∧ (chanFail s inst c).owners = s.owners ∧
    (chanFail s inst c).valleys = s.valleys ∧ (chanFail s inst c).cores = s.cores ∧ (chanFail s inst c).streams = s.streams ∧
    (chanFail s inst c).engTurn = s.engTurn ∧ (chanFail s inst c).handoffs = s.handoffs ∧ (chanFail s inst c).lines = s.lines ∧
    (chanFail s inst c).berms = s.berms ∧ (chanFail s inst c).patrols = s.patrols ∧ (chanFail s inst c).ctxs = s.ctxs ∧
    (chanFail s inst c).estWait = s.estWait ∧ (chanFail s inst c).early = s.early ∧ (chanFail s inst c).estLast = s.estLast ∧
    (chanFail s inst c).estSelf = s.estSelf ∧ (chanFail s inst c).txFlows = s.txFlows ∧ (chanFail s inst c).rxFlows = s.rxFlows ∧
    (chanFail s inst c).paused = s.paused ∧ (chanFail s inst c).portTurns = s.portTurns ∧
    (chanFail s inst c).sublinks = s.sublinks ∧ (chanFail s inst c).links = s.links ∧ (chanFail s inst c).twyQ = s.twyQ ∧
    (chanFail s inst c).twyTurn = s.twyTurn ∧ (chanFail s inst c).twySigs = s.twySigs ∧ (chanFail s inst c).twyIn = s.twyIn ∧
    (chanFail s inst c).rounds = s.rounds ∧ (chanFail s inst c).snaps = s.snaps ∧ (chanFail s inst c).holdOps = s.holdOps ∧
    (chanFail s inst c).strands = s.strands ∧ (chanFail s inst c).flash = s.flash ∧ (chanFail s inst c).jobCmds = s.jobCmds ∧
    (chanFail s inst c).releasing = s.releasing ∧ (chanFail s inst c).invalBusy = s.invalBusy ∧
    (chanFail s inst c).hostWait = s.hostWait ∧ (chanFail s inst c).heldMsgs = s.heldMsgs ∧ (chanFail s inst c).capAt = s.capAt ∧
    (chanFail s inst c).freeCount = s.freeCount := by
  unfold chanFail
  dsimp only
  split <;> simp

@[simp] theorem refused_frame (s : State) (v : Nat) :
    (refused s v).pending = s.pending ∧ (refused s v).heldCmds = s.heldCmds ∧ (refused s v).xlats = s.xlats ∧
    (refused s v).images = s.images ∧ (refused s v).bankAt = s.bankAt ∧ (refused s v).grade = s.grade ∧
    (refused s v).latch = s.latch ∧ (refused s v).blks = s.blks ∧ (refused s v).cycles = s.cycles ∧ (refused s v).clks = s.clks ∧
    (refused s v).clkBase = s.clkBase ∧ (refused s v).devInit = s.devInit ∧ (refused s v).devPolicy = s.devPolicy ∧
    (refused s v).sounded = s.sounded ∧ (refused s v).hbm = s.hbm ∧ (refused s v).host = s.host ∧ (refused s v).sram = s.sram ∧
    (refused s v).hbmPoison = s.hbmPoison ∧ (refused s v).sramPoison = s.sramPoison ∧ (refused s v).hbmUpset = s.hbmUpset ∧
    (refused s v).sramUpset = s.sramUpset ∧ (refused s v).queues = s.queues ∧ (refused s v).rings = s.rings ∧
    (refused s v).tms = s.tms ∧ (refused s v).tmLatch = s.tmLatch ∧ (refused s v).ops = s.ops ∧ (refused s v).starts = s.starts ∧
    (refused s v).pends = s.pends ∧ (refused s v).stalls = s.stalls ∧ (refused s v).escs = s.escs ∧
    (refused s v).reports = s.reports ∧ (refused s v).owners = s.owners ∧ (refused s v).valleys = s.valleys ∧
    (refused s v).cores = s.cores ∧ (refused s v).chans = s.chans ∧ (refused s v).streams = s.streams ∧
    (refused s v).engTurn = s.engTurn ∧ (refused s v).handoffs = s.handoffs ∧ (refused s v).lines = s.lines ∧
    (refused s v).berms = s.berms ∧ (refused s v).patrols = s.patrols ∧ (refused s v).ctxs = s.ctxs ∧
    (refused s v).estWait = s.estWait ∧ (refused s v).early = s.early ∧ (refused s v).estLast = s.estLast ∧
    (refused s v).estSelf = s.estSelf ∧ (refused s v).txFlows = s.txFlows ∧ (refused s v).rxFlows = s.rxFlows ∧
    (refused s v).paused = s.paused ∧ (refused s v).portTurns = s.portTurns ∧ (refused s v).sublinks = s.sublinks ∧
    (refused s v).links = s.links ∧ (refused s v).twyQ = s.twyQ ∧ (refused s v).twyTurn = s.twyTurn ∧
    (refused s v).twySigs = s.twySigs ∧ (refused s v).twyIn = s.twyIn ∧ (refused s v).rounds = s.rounds ∧
    (refused s v).snaps = s.snaps ∧ (refused s v).holdOps = s.holdOps ∧ (refused s v).strands = s.strands ∧
    (refused s v).flash = s.flash ∧ (refused s v).jobCmds = s.jobCmds ∧ (refused s v).releasing = s.releasing ∧
    (refused s v).invalBusy = s.invalBusy ∧ (refused s v).hostWait = s.hostWait ∧ (refused s v).heldMsgs = s.heldMsgs ∧
    (refused s v).capAt = s.capAt ∧ (refused s v).freeCount = s.freeCount := by
  unfold refused
  simp

@[simp] theorem ctxFree_frame (s : State) :
    (ctxFree s).pending = s.pending ∧ (ctxFree s).heldCmds = s.heldCmds ∧ (ctxFree s).xlats = s.xlats ∧
    (ctxFree s).images = s.images ∧ (ctxFree s).bankAt = s.bankAt ∧ (ctxFree s).grade = s.grade ∧ (ctxFree s).latch = s.latch ∧
    (ctxFree s).blks = s.blks ∧ (ctxFree s).cycles = s.cycles ∧ (ctxFree s).clks = s.clks ∧ (ctxFree s).clkBase = s.clkBase ∧
    (ctxFree s).devInit = s.devInit ∧ (ctxFree s).devPolicy = s.devPolicy ∧ (ctxFree s).sounded = s.sounded ∧
    (ctxFree s).hbm = s.hbm ∧ (ctxFree s).host = s.host ∧ (ctxFree s).sram = s.sram ∧ (ctxFree s).hbmPoison = s.hbmPoison ∧
    (ctxFree s).sramPoison = s.sramPoison ∧ (ctxFree s).hbmUpset = s.hbmUpset ∧ (ctxFree s).sramUpset = s.sramUpset ∧
    (ctxFree s).queues = s.queues ∧ (ctxFree s).rings = s.rings ∧ (ctxFree s).tms = s.tms ∧ (ctxFree s).tmLatch = s.tmLatch ∧
    (ctxFree s).ops = s.ops ∧ (ctxFree s).starts = s.starts ∧ (ctxFree s).pends = s.pends ∧ (ctxFree s).stalls = s.stalls ∧
    (ctxFree s).escs = s.escs ∧ (ctxFree s).reports = s.reports ∧ (ctxFree s).owners = s.owners ∧
    (ctxFree s).valleys = s.valleys ∧ (ctxFree s).cores = s.cores ∧ (ctxFree s).chans = s.chans ∧
    (ctxFree s).streams = s.streams ∧ (ctxFree s).engTurn = s.engTurn ∧ (ctxFree s).handoffs = s.handoffs ∧
    (ctxFree s).lines = s.lines ∧ (ctxFree s).berms = s.berms ∧ (ctxFree s).patrols = s.patrols ∧
    (ctxFree s).estWait = s.estWait ∧ (ctxFree s).early = s.early ∧ (ctxFree s).estLast = s.estLast ∧
    (ctxFree s).estSelf = s.estSelf ∧ (ctxFree s).txFlows = s.txFlows ∧ (ctxFree s).rxFlows = s.rxFlows ∧
    (ctxFree s).paused = s.paused ∧ (ctxFree s).portTurns = s.portTurns ∧ (ctxFree s).sublinks = s.sublinks ∧
    (ctxFree s).links = s.links ∧ (ctxFree s).twyQ = s.twyQ ∧ (ctxFree s).twyTurn = s.twyTurn ∧ (ctxFree s).twySigs = s.twySigs ∧
    (ctxFree s).twyIn = s.twyIn ∧ (ctxFree s).rounds = s.rounds ∧ (ctxFree s).snaps = s.snaps ∧ (ctxFree s).holdOps = s.holdOps ∧
    (ctxFree s).strands = s.strands ∧ (ctxFree s).flash = s.flash ∧ (ctxFree s).jobCmds = s.jobCmds ∧
    (ctxFree s).releasing = s.releasing ∧ (ctxFree s).invalBusy = s.invalBusy ∧ (ctxFree s).hostWait = s.hostWait ∧
    (ctxFree s).heldMsgs = s.heldMsgs ∧ (ctxFree s).capAt = s.capAt ∧ (ctxFree s).freeCount = s.freeCount := by
  unfold ctxFree
  split <;> simp

@[simp] theorem settleValleys_frame (s : State) (vs : List Nat) :
    (settleValleys s vs).pending = s.pending ∧ (settleValleys s vs).heldCmds = s.heldCmds ∧ (settleValleys s vs).xlats = s.xlats ∧
    (settleValleys s vs).images = s.images ∧ (settleValleys s vs).bankAt = s.bankAt ∧ (settleValleys s vs).grade = s.grade ∧
    (settleValleys s vs).latch = s.latch ∧ (settleValleys s vs).blks = s.blks ∧ (settleValleys s vs).cycles = s.cycles ∧
    (settleValleys s vs).clks = s.clks ∧ (settleValleys s vs).clkBase = s.clkBase ∧ (settleValleys s vs).devInit = s.devInit ∧
    (settleValleys s vs).devPolicy = s.devPolicy ∧ (settleValleys s vs).sounded = s.sounded ∧ (settleValleys s vs).hbm = s.hbm ∧
    (settleValleys s vs).host = s.host ∧ (settleValleys s vs).sram = s.sram ∧ (settleValleys s vs).hbmPoison = s.hbmPoison ∧
    (settleValleys s vs).sramPoison = s.sramPoison ∧ (settleValleys s vs).hbmUpset = s.hbmUpset ∧
    (settleValleys s vs).sramUpset = s.sramUpset ∧ (settleValleys s vs).queues = s.queues ∧ (settleValleys s vs).rings = s.rings ∧
    (settleValleys s vs).tms = s.tms ∧ (settleValleys s vs).tmLatch = s.tmLatch ∧ (settleValleys s vs).ops = s.ops ∧
    (settleValleys s vs).starts = s.starts ∧ (settleValleys s vs).pends = s.pends ∧ (settleValleys s vs).stalls = s.stalls ∧
    (settleValleys s vs).escs = s.escs ∧ (settleValleys s vs).reports = s.reports ∧ (settleValleys s vs).owners = s.owners ∧
    (settleValleys s vs).valleys = s.valleys ∧ (settleValleys s vs).cores = s.cores ∧ (settleValleys s vs).chans = s.chans ∧
    (settleValleys s vs).streams = s.streams ∧ (settleValleys s vs).engTurn = s.engTurn ∧
    (settleValleys s vs).handoffs = s.handoffs ∧ (settleValleys s vs).lines = s.lines ∧ (settleValleys s vs).berms = s.berms ∧
    (settleValleys s vs).patrols = s.patrols ∧ (settleValleys s vs).ctxs = s.ctxs ∧ (settleValleys s vs).estWait = s.estWait ∧
    (settleValleys s vs).early = s.early ∧ (settleValleys s vs).estLast = s.estLast ∧ (settleValleys s vs).estSelf = s.estSelf ∧
    (settleValleys s vs).txFlows = s.txFlows ∧ (settleValleys s vs).rxFlows = s.rxFlows ∧ (settleValleys s vs).paused = s.paused ∧
    (settleValleys s vs).portTurns = s.portTurns ∧ (settleValleys s vs).sublinks = s.sublinks ∧
    (settleValleys s vs).links = s.links ∧ (settleValleys s vs).twyQ = s.twyQ ∧ (settleValleys s vs).twyTurn = s.twyTurn ∧
    (settleValleys s vs).twySigs = s.twySigs ∧ (settleValleys s vs).twyIn = s.twyIn ∧ (settleValleys s vs).rounds = s.rounds ∧
    (settleValleys s vs).snaps = s.snaps ∧ (settleValleys s vs).holdOps = s.holdOps ∧ (settleValleys s vs).strands = s.strands ∧
    (settleValleys s vs).flash = s.flash ∧ (settleValleys s vs).jobCmds = s.jobCmds ∧
    (settleValleys s vs).releasing = s.releasing ∧ (settleValleys s vs).invalBusy = s.invalBusy ∧
    (settleValleys s vs).hostWait = s.hostWait ∧ (settleValleys s vs).heldMsgs = s.heldMsgs ∧
    (settleValleys s vs).capAt = s.capAt ∧ (settleValleys s vs).freeCount = s.freeCount := by
  unfold settleValleys
  let p : State → Prop := fun t => t.pending = s.pending ∧ t.heldCmds = s.heldCmds ∧ t.xlats = s.xlats ∧ t.images = s.images ∧ t.bankAt = s.bankAt ∧
     t.grade = s.grade ∧ t.latch = s.latch ∧ t.blks = s.blks ∧ t.cycles = s.cycles ∧ t.clks = s.clks ∧ t.clkBase = s.clkBase ∧
     t.devInit = s.devInit ∧ t.devPolicy = s.devPolicy ∧ t.sounded = s.sounded ∧ t.hbm = s.hbm ∧ t.host = s.host ∧
     t.sram = s.sram ∧ t.hbmPoison = s.hbmPoison ∧ t.sramPoison = s.sramPoison ∧ t.hbmUpset = s.hbmUpset ∧
     t.sramUpset = s.sramUpset ∧ t.queues = s.queues ∧ t.rings = s.rings ∧ t.tms = s.tms ∧ t.tmLatch = s.tmLatch ∧
     t.ops = s.ops ∧ t.starts = s.starts ∧ t.pends = s.pends ∧ t.stalls = s.stalls ∧ t.escs = s.escs ∧ t.reports = s.reports ∧
     t.owners = s.owners ∧ t.valleys = s.valleys ∧ t.cores = s.cores ∧ t.chans = s.chans ∧ t.streams = s.streams ∧
     t.engTurn = s.engTurn ∧ t.handoffs = s.handoffs ∧ t.lines = s.lines ∧ t.berms = s.berms ∧ t.patrols = s.patrols ∧
     t.ctxs = s.ctxs ∧ t.estWait = s.estWait ∧ t.early = s.early ∧ t.estLast = s.estLast ∧ t.estSelf = s.estSelf ∧
     t.txFlows = s.txFlows ∧ t.rxFlows = s.rxFlows ∧ t.paused = s.paused ∧ t.portTurns = s.portTurns ∧ t.sublinks = s.sublinks ∧
     t.links = s.links ∧ t.twyQ = s.twyQ ∧ t.twyTurn = s.twyTurn ∧ t.twySigs = s.twySigs ∧ t.twyIn = s.twyIn ∧
     t.rounds = s.rounds ∧ t.snaps = s.snaps ∧ t.holdOps = s.holdOps ∧ t.strands = s.strands ∧ t.flash = s.flash ∧
     t.jobCmds = s.jobCmds ∧ t.releasing = s.releasing ∧ t.invalBusy = s.invalBusy ∧ t.hostWait = s.hostWait ∧
     t.heldMsgs = s.heldMsgs ∧ t.capAt = s.capAt ∧ t.freeCount = s.freeCount
  have h1 : p (vs.foldl (fun s v => settle s (pgValley v)) s) :=
    foldl_keeps p _ _ (fun t v h => by simpa [p] using h) s ⟨rfl, rfl, rfl, rfl, rfl, rfl, rfl, rfl, rfl, rfl, rfl, rfl, rfl, rfl,
    rfl, rfl, rfl, rfl, rfl, rfl, rfl, rfl, rfl, rfl, rfl, rfl, rfl, rfl, rfl, rfl, rfl, rfl, rfl, rfl, rfl, rfl, rfl, rfl, rfl, rfl,
    rfl, rfl, rfl, rfl, rfl, rfl, rfl, rfl, rfl, rfl, rfl, rfl, rfl, rfl, rfl, rfl, rfl, rfl, rfl, rfl, rfl, rfl, rfl, rfl, rfl, rfl,
    rfl, rfl⟩
  exact foldl_keeps p _ _ (fun t d h => by
    split
    · simpa [p] using h
    · exact h) _ h1

end Sys2Proof.Machine
end

