-- ==== Sys2Proof/Laws/Queue.lean ====
section
/-! SUPPORT. Laws of queues and of the dispatch of a head command. -/

namespace Sys2Proof.Machine

@[simp] theorem getQ_setQ_same (s : State) (q : Nat) (x : Queue) : getQ (setQ s q x) q = x := by simp [getQ, setQ]

theorem getQ_setQ_ne (s : State) (q p : Nat) (x : Queue) (h : p ≠ q) : getQ (setQ s q x) p = getQ s p := by
  simp [getQ, setQ, tget_tput_ne _ _ _ _ _ h]

theorem getQ_congr (s t : State) (h : t.queues = s.queues) (q : Nat) : getQ t q = getQ s q := by simp [getQ, h]

theorem heldBack_of_run (c : Instr) (s t : State) (h : t.hostWait = false) : heldBack c s t = t := by simp [heldBack, h]

/-- A dispatch that needs no held request happens. -/
theorem headBack_of_run (c : Instr) (q : Nat) (s t : State) (h : t.hostWait = false) : headBack c q s t = t := by simp [headBack, h]

/-- A head command that is ready is performed: `go` on the state in which it has its number. A SNAP has then paused the other queues. -/
theorem dispatchBy_ready (s : State) (q op : Nat) (c : Rec) (go : State → Nat → Head → State) (h : Safe.ready s q op c)
    (hs : op ≠ opSnap) : dispatchBy s q op go = go (takeHead s q).1 (Safe.seq s q) ⟨c, none, 0xFFFF⟩ := by
  obtain ⟨⟨h1, h2, h3, h4, h5, h6, h7⟩, h8⟩ := h
  simp only [dispatchBy, h1, h2, h3, h4, h6, h8]
  simp [refuseHead, h5, h6, ground, hs, h8, Safe.seq, takeHead]

/-- A head command that waits only shows its wait. -/
theorem dispatchBy_waits (s : State) (q op : Nat) (c : Rec) (go : State → Nat → Head → State) (w : Waits) (h : Safe.atHead s q op c)
    (hs : op ≠ opSnap) (hw : waitsFor s q ⟨c, none, 0xFFFF⟩ = some w) : dispatchBy s q op go = setWait s q w := by
  obtain ⟨h1, h2, h3, h4, h5, h6, h7⟩ := h
  simp only [dispatchBy, h1, h2, h3, h4, h6, hw]
  by_cases hf : slotFirst s q ⟨c, none, 0xFFFF⟩ = true
  · simp [hf]
  · simp [hf, refuseHead, h5, h6, ground, hs, hw]

/-- What taking the head command does to its queue. -/
theorem takeHead_queue (s : State) (q op : Nat) (c : Rec) (h : Safe.atHead s q op c) :
    getQ (takeHead s q).1 q =
      { getQ s q with nextSeq := (getQ s q).nextSeq + 1, waitKind := 0, waitTm := 0, waitValue := 0, waitSince := 0, waitFloor := 0, waitMem := false
                      head := BitVec.ofNat 16 (((getQ s q).head.toNat + 1) % ringLen (getQ s q))
                      fetched := (getQ s q).fetched.drop 1, loads := loadsTake (getQ s q).loads c } := by
  have h1 := h.1
  unfold headOf at h1
  cases hr : (getQ s q).replay with
  | some r =>
    rw [hr] at h1
    cases hc : r.cmds <;> simp [hc] at h1
  | none =>
    rw [hr] at h1
    cases hf : (getQ s q).fetched with
    | nil => simp [hf] at h1
    | cons a b =>
      have : a = c := by simpa [hf] using h1
      subst this
      simp [takeHead, Queue.unwait, hr, hf, ringLen]

theorem takeHead_other (s : State) (q p : Nat) (h : p ≠ q) : getQ (takeHead s q).1 p = getQ s p := by
  simp [takeHead, getQ_setQ_ne _ _ _ _ h]

/-- Taking the head command changes its queue alone. -/
theorem takeHead_frame (s : State) (q : Nat) : (takeHead s q).1 = { s with queues := (takeHead s q).1.queues } := rfl

end Sys2Proof.Machine
end

