-- ==== Sys2Proof/Machine/Failures.lean ====
section
/-! DEFINITION. The failures of R308, with the immediate effect that its table gives each; their paths are the host's. -/

namespace Sys2Proof.Machine

/-- The failures of R308 that have an immediate effect on the module. A module lost in twin mode, and one without a partner, has none here:
what its group sees of it are late REDUCEs (R288) and a lost partner. -/
inductive Failure where
  /-- An uncorrectable word of core SRAM, found by the layer task of a handle (R137). -/
  | sramWord (queue seq : Nat)
  /-- An uncorrectable HBM unit, found by the Berm unit of a stack in a claimed block of an UPDATE, with its SEL and its slot (R241). -/
  | hbmUnit (stack : Nat) (u : Upd) (block sel slot : Nat)
  /-- A core retired during a run: a position of a valley. -/
  | coreRetired (valley pos : Nat) (hole : Bool)
  /-- A scale-out port lost. -/
  | portLost (port : Nat)
  /-- One Tideway link lost. -/
  | linkLost (link : Nat)
  /-- The partner lost, or both links. -/
  | partnerLost
  /-- A die steward's firmware fails. -/
  | stewardFailed (die : Nat)
  /-- A supply dip to low-water mode. -/
  | supplyDip (mv : Nat)
  /-- A controlled stop, or a thermal trip. -/
  | stopped (cause mv minMv : Nat) (input : Bool)

/-- The column "Immediate effect" of R308. Task ABORTED_ECC; a Berm block left uncommitted; a spare that starts with zeros; packets that move
to other ports; half the Tideway; mirror rounds and SNAPs to the partner that stop; a steward faulted, whose grants stop while its units wait
(`grantWait`); power capped; a module that stops with a crash record, its volatile state lost. -/
def Failure.effect (s : State) : Failure → State
  | .sramWord q seq => taskAbort s q seq { status := stEcc }
  | .hbmUnit h u i sel slot => stopBlock s h u i sel slot (fun u => u.addEcc i)
  | .coreRetired v pos hole => retireCore s v pos hole
  | .portLost p => doLinkChange s p 0
  | .linkLost l => doLinkDown s l
  | .partnerLost => doPartnerLost s
  | .stewardFailed d => doHeartbeatLost s d
  | .supplyDip mv => doLowWaterEntry s mv
  | .stopped cause mv minMv input => controlledStop s cause mv minMv input

end Sys2Proof.Machine
end

