-- ==== Sys2Proof/Laws/Failures.lean ====
section
/-! SUPPORT. The failures of R308 that a command of its own reports, and the cases in which one command brings about another's. -/

namespace Sys2Proof.Machine

theorem exec_portLost (p : Nat) (s : State) : exec (.linkChange p 0) s = .next ((Failure.portLost p).effect s) := rfl

theorem exec_linkDown (l : Nat) (s : State) (h : (doLinkDown s l).hostWait = false) :
    exec (.linkDown l) s = .next ((Failure.linkLost l).effect s) :=
  congrArg Host.Outcome.next (heldBack_of_run _ _ _ h)

theorem exec_partnerLost (s : State) (h : (doPartnerLost s).hostWait = false) : exec .partnerLost s = .next (Failure.partnerLost.effect s) :=
  congrArg Host.Outcome.next (heldBack_of_run _ _ _ h)

theorem exec_heartbeatLost (d : Nat) (s : State) : exec (.heartbeatLost d) s = .next ((Failure.stewardFailed d).effect s) := rfl

theorem exec_lowWaterEntry (mv : Nat) (s : State) : exec (.lowWaterEntry mv) s = .next ((Failure.supplyDip mv).effect s) := rfl

theorem undervoltage_stops (mv minMv : Nat) (s : State) (h : mv ≤ 38000) (r : railsUp s = true) :
    exec (.undervoltage mv minMv) s = .next ((Failure.stopped 1 mv minMv false).effect s) := by
  simp [exec, execUndervoltage, doUndervoltage, inputLost, h, r, Failure.effect]

/-- A steward that is faulted gives no grant: a unit of a context it holds waits (R264, R308). -/
theorem grantWait_of_faulted (s : State) (q : Nat) (u : Bound) (hb : boundTo s q = some u) (hf : clocked s (pgSteward u.die) = false) :
    (grantWait s q).isSome = true := by
  simp [grantWait, hb, hf]

end Sys2Proof.Machine
end

