-- ==== Sys2Proof/Laws/Flit.lean ====
section
/-! SUPPORT. What the bytes of a flit are: the fields read back from those written, and the CRC that R411 asks for holds. -/

namespace Sys2Proof.Machine

@[simp] theorem leBytes_length (k n : Nat) : (leBytes k n).length = k := by
  induction k generalizing n with
  | zero => rfl
  | succ k ih => simp [leBytes, ih]

theorem leNat_leBytes (k n : Nat) : leNat (leBytes k n) = n % 256 ^ k := by
  induction k generalizing n with
  | zero => simp [leBytes, leNat, Nat.mod_one]
  | succ k ih =>
    simp only [leBytes, leNat, ih, BitVec.toNat_ofNat]
    have h : n % 256 ^ (k + 1) = n % 256 + 256 * (n / 256 % 256 ^ k) := by rw [Nat.pow_succ', Nat.mod_mul]
    rw [h]

theorem crcBit_lt (c : Nat) (h : c < 2 ^ 32) : crcBit c < 2 ^ 32 := by
  unfold crcBit
  split
  · exact Nat.xor_lt_two_pow (by omega) (by decide)
  · omega

theorem crcByte_lt (c : Nat) (b : Byte) (h : c < 2 ^ 32) : crcByte c b < 2 ^ 32 := by
  unfold crcByte
  exact crcBit_lt _ (crcBit_lt _ (crcBit_lt _ (crcBit_lt _ (crcBit_lt _ (crcBit_lt _ (crcBit_lt _ (crcBit_lt _
    (Nat.xor_lt_two_pow h (Nat.lt_of_lt_of_le b.isLt (by decide))))))))))

theorem crc32c_lt (l : List Byte) : crc32c l < 2 ^ 32 := by
  have h : ∀ (l : List Byte) (c : Nat), c < 2 ^ 32 → l.foldl crcByte c < 2 ^ 32 := by
    intro l
    induction l with
    | nil => exact fun c h => h
    | cons b l ih => exact fun c h => ih _ (crcByte_lt c b h)
  exact Nat.xor_lt_two_pow (h l _ (by decide)) (by decide)

/-- The header of a flit before its CRC. -/
def flitHead (f : Flit) (seq ack : Nat) : List Byte :=
  [BitVec.ofNat 8 (16 + f.ty % 16), BitVec.ofNat 8 f.job, BitVec.ofNat 8 f.which, 0] ++ leBytes 4 seq ++ leBytes 4 ack ++
    leBytes 4 0 ++ leBytes 8 f.dest ++ leBytes 4 0

@[simp] theorem flitHead_length (f : Flit) (seq ack : Nat) : (flitHead f seq ack).length = 28 := by simp [flitHead]

theorem flitBytes_eq (f : Flit) (seq ack : Nat) :
    flitBytes f seq ack = flitHead f seq ack ++ leBytes 4 (crc32c (flitHead f seq ack ++ f.body)) ++ f.body := rfl

/-- A field of the header reads what was written there. -/
theorem flitField_flitBytes (f : Flit) (seq ack o n : Nat) (h : o + n ≤ 28) :
    flitField (flitBytes f seq ack) o n = leNat ((flitHead f seq ack).drop o |>.take n) := by
  rw [flitBytes_eq, flitField, slice, List.append_assoc, List.drop_append_of_le_length (by simp; omega),
    List.take_append_of_le_length (by simp; omega), List.length_append, List.length_drop, flitHead_length,
    show n - (28 - o + (leBytes 4 (crc32c (flitHead f seq ack ++ f.body)) ++ f.body).length) = 0 by omega]
  simp

/-- The first byte holds VER 1 and TYPE. -/
theorem flitField_ty (f : Flit) (seq ack : Nat) : flitField (flitBytes f seq ack) 0 1 = 16 + f.ty % 16 := by
  rw [flitField_flitBytes f seq ack 0 1 (by decide)]
  simp [flitHead, leNat]
  omega

theorem flitTy_flitBytes (f : Flit) (seq ack : Nat) (h : f.ty ≤ 7) : flitTy (flitBytes f seq ack) = f.ty := by
  rw [flitTy, flitField_ty]; omega

/-- A flit as the module writes it, of a TYPE of R411 and with that TYPE's payload, is good. -/
theorem flitGood_flitBytes (f : Flit) (seq ack : Nat) (h1 : 1 ≤ f.ty) (h7 : f.ty ≤ 7) (hb : f.body.length = flitBody f.ty) :
    flitGood (flitBytes f seq ack) = true := by
  have hc : flitField (flitBytes f seq ack) 28 4 = crc32c (flitHead f seq ack ++ f.body) := by
    have hm := crc32c_lt (flitHead f seq ack ++ f.body)
    rw [flitBytes_eq, flitField, slice, List.append_assoc, List.drop_append, List.take_append]
    simp [List.drop_of_length_le, leNat_leBytes]
    omega
  have ht : (flitBytes f seq ack).take 28 = flitHead f seq ack := by
    rw [flitBytes_eq, List.append_assoc, List.take_append_of_le_length (by simp), List.take_of_length_le (by simp)]
  have hd : (flitBytes f seq ack).drop 32 = f.body := by
    rw [flitBytes_eq, List.drop_append_of_le_length (by simp), List.drop_of_length_le (by simp), List.nil_append]
  have hl : (flitBytes f seq ack).length = 32 + flitBody f.ty := by rw [flitBytes_eq]; simp [hb]; omega
  have hv : (16 + f.ty % 16) / 16 = 1 := by omega
  simp only [flitGood, hc, ht, hd, hl, flitTy_flitBytes f seq ack h7, flitField_ty, hv, h1, h7, decide_true, Bool.and_self]

end Sys2Proof.Machine
end

