-- ==== Sys2Proof/Laws/Mem.lean ====
section
/-! SUPPORT. Laws of the memories: a read after a store, and that a store keeps the canonical form. -/

namespace Sys2Proof.Machine

/-- The canonical form of a memory: addresses strictly rise, and no byte is listed that reads 0 unlisted. -/
abbrev Memory.wf (m : Memory) : Bool := twf (fun _ => (0 : Byte)) m

theorem memSet_wf (l : List Byte) : ∀ (m : Memory) (a : Nat), Memory.wf m = true → Memory.wf (memSet m a l) = true := by
  induction l with
  | nil => intro m a h; exact h
  | cons b r ih => intro m a h; exact ih _ _ (twf_tput 0 m a b h)

/-- A byte after a store: the stored one inside the bytes stored, as before outside. -/
theorem tget_memSet (l : List Byte) : ∀ (m : Memory) (a i : Nat),
    tget 0 (memSet m a l) i = if a ≤ i ∧ i < a + l.length then l.getD (i - a) 0 else tget 0 m i := by
  induction l with
  | nil => intro m a i; simp only [memSet, List.length_nil]; split <;> first | omega | rfl
  | cons b r ih =>
    intro m a i
    simp only [memSet, ih, tget_tput, List.length_cons]
    rcases Nat.lt_trichotomy i a with h | h | h
    · simp [show ¬(a + 1 ≤ i) by omega, show ¬(a ≤ i) by omega, show i ≠ a by omega]
    · subst h; rw [if_neg (by omega), if_pos rfl, if_pos (by omega)]; simp
    · by_cases hr : i < a + 1 + r.length
      · simp [show a + 1 ≤ i by omega, hr, show a ≤ i by omega, show i < a + (r.length + 1) by omega,
          show i - a = (i - (a + 1)) + 1 by omega]
      · simp [hr, show ¬(i < a + (r.length + 1)) by omega, show i ≠ a by omega]

/-- Bytes read at an address outside those stored are as before. -/
theorem memGet_memSet_ne (m : Memory) (a b n : Nat) (l : List Byte) (h : b + n ≤ a ∨ a + l.length ≤ b) :
    memGet (memSet m a l) b n = memGet m b n := by
  unfold memGet
  apply List.map_congr_left
  intro i hi
  have := List.mem_range.mp hi
  rw [tget_memSet, if_neg (by omega)]

/-- Bytes read where they were stored. -/
theorem memGet_memSet_same (m : Memory) (a : Nat) (l : List Byte) : memGet (memSet m a l) a l.length = l := by
  unfold memGet
  apply List.ext_getElem
  · simp
  · intro i h1 h2
    simp only [List.getElem_map, List.getElem_range]
    rw [tget_memSet, if_pos ⟨by omega, by omega⟩]
    simp [h2]

@[simp] theorem memGet_length (m : Memory) (a n : Nat) : (memGet m a n).length = n := by simp [memGet]

end Sys2Proof.Machine
end

