-- ==== Sys2Proof/Laws/Keeps.lean ====
section
/-! SUPPORT. What every operation of the machine keeps: the commands that wait, the grade, and the canonical form of the three memories. -/

namespace Sys2Proof.Machine

/-- From `z` to `t` the waiting commands and the grade are as before, and the memories are canonical if they were. -/
def Keeps (z t : State) : Prop :=
  t.pending = z.pending ∧ t.grade = z.grade ∧ (Memory.wf z.hbm = true → Memory.wf t.hbm = true) ∧
  (Memory.wf z.host = true → Memory.wf t.host = true) ∧ (Memory.wf z.sram = true → Memory.wf t.sram = true)

theorem Keeps.refl (z : State) : Keeps z z := ⟨rfl, rfl, id, id, id⟩

/-- A state with the same five fields. -/
theorem Keeps.of {z a t : State} (h : Keeps z a) (h1 : t.pending = a.pending) (h2 : t.grade = a.grade) (h3 : t.hbm = a.hbm)
    (h4 : t.host = a.host) (h5 : t.sram = a.sram) : Keeps z t := by
  obtain ⟨k1, k2, k3, k4, k5⟩ := h
  exact ⟨h1.trans k1, h2.trans k2, by rw [h3]; exact k3, by rw [h4]; exact k4, by rw [h5]; exact k5⟩

theorem Keeps.hbm {z a t : State} (h : Keeps z a) (h1 : t.pending = a.pending) (h2 : t.grade = a.grade)
    (h3 : Memory.wf a.hbm = true → Memory.wf t.hbm = true) (h4 : t.host = a.host) (h5 : t.sram = a.sram) : Keeps z t := by
  obtain ⟨k1, k2, k3, k4, k5⟩ := h
  exact ⟨h1.trans k1, h2.trans k2, fun w => h3 (k3 w), by rw [h4]; exact k4, by rw [h5]; exact k5⟩

theorem Keeps.host {z a t : State} (h : Keeps z a) (h1 : t.pending = a.pending) (h2 : t.grade = a.grade) (h3 : t.hbm = a.hbm)
    (h4 : Memory.wf a.host = true → Memory.wf t.host = true) (h5 : t.sram = a.sram) : Keeps z t := by
  obtain ⟨k1, k2, k3, k4, k5⟩ := h
  exact ⟨h1.trans k1, h2.trans k2, by rw [h3]; exact k3, fun w => h4 (k4 w), by rw [h5]; exact k5⟩

theorem Keeps.sram {z a t : State} (h : Keeps z a) (h1 : t.pending = a.pending) (h2 : t.grade = a.grade) (h3 : t.hbm = a.hbm)
    (h4 : t.host = a.host) (h5 : Memory.wf a.sram = true → Memory.wf t.sram = true) : Keeps z t := by
  obtain ⟨k1, k2, k3, k4, k5⟩ := h
  exact ⟨h1.trans k1, h2.trans k2, by rw [h3]; exact k3, by rw [h4]; exact k4, fun w => h5 (k5 w)⟩

theorem keeps_ite {z a b : State} (c : Prop) [Decidable c] (ha : Keeps z a) (hb : Keeps z b) : Keeps z (if c then a else b) := by
  split <;> assumption

/-- What every step of a fold keeps, the fold keeps; `p` reads the state from the fold's accumulator. -/
theorem keeps_fold {α β : Type} {z : State} (p : β → State) (f : β → α → β) (l : List α)
    (h : ∀ b a, Keeps z (p b) → Keeps z (p (f b a))) : ∀ b, Keeps z (p b) → Keeps z (p (l.foldl f b)) := by
  induction l with
  | nil => intro b hb; exact hb
  | cons a r ih => intro b hb; exact ih _ (h b a hb)

theorem keeps_foldl {α : Type} {z : State} (f : State → α → State) (l : List α) (b : State) (hb : Keeps z b)
    (h : ∀ b a, Keeps z b → Keeps z (f b a)) : Keeps z (l.foldl f b) := keeps_fold id f l h b hb

theorem keeps_foldl_fst {α γ : Type} {z : State} (f : State × γ → α → State × γ) (l : List α) (b : State × γ) (hb : Keeps z b.1)
    (h : ∀ b a, Keeps z b.1 → Keeps z (f b a).1) : Keeps z (l.foldl f b).1 := keeps_fold (·.1) f l h b hb

/-- The state of a pair that a function has answered. -/
theorem keeps_fst {γ : Type} {z s : State} {g : γ} {p : State × γ} (e : p = (s, g)) (h : Keeps z p.1) : Keeps z s := by
  rw [e] at h; exact h

end Sys2Proof.Machine
end

