-- ==== Sys2Proof/Laws/PerInstr.lean ====
section
/-! SUPPORT. What holds of every command as syntax, one lemma a constructor. The table gives no row bits: no word of any length spells
a command, so each command reaches the queue from outside alone (log 1). -/

/-- No word of the table's numbering spells the command. -/
def Sys2Proof.Laws.Unspelled.Statement (i : Sys2Proof.Instr) : Prop :=
  ∀ nbits w : Nat, Sys2Proof.decodeTableWord nbits w ≠ some i

namespace Sys2Proof.Laws.Unspelled

theorem nop (q : Nat) : Statement (.nop q) := nofun
theorem cfgWrite (q : Nat) : Statement (.cfgWrite q) := nofun
theorem patch (q : Nat) : Statement (.patch q) := nofun
theorem start (q : Nat) : Statement (.start q) := nofun
theorem copy (q : Nat) : Statement (.copy q) := nofun
theorem small (q : Nat) : Statement (.small q) := nofun
theorem signal (q : Nat) : Statement (.signal q) := nofun
theorem wait (q : Nat) : Statement (.wait q) := nofun
theorem fence (q : Nat) : Statement (.fence q) := nofun
theorem reduce (q : Nat) : Statement (.reduce q) := nofun
theorem update (q : Nat) : Statement (.update q) := nofun
theorem snap (q : Nat) : Statement (.snap q) := nofun
theorem hold (q : Nat) : Statement (.hold q) := nofun
theorem release (q : Nat) : Statement (.release q) := nofun
theorem callChart (q : Nat) : Statement (.callChart q) := nofun
theorem cancel (q : Nat) : Statement (.cancel q) := nofun
theorem doorbell (fn q : Nat) (value : Word32) : Statement (.doorbell fn q value) := nofun
theorem commandFetch (q : Nat) : Statement (.commandFetch q) := nofun
theorem loadCheck (q : Nat) : Statement (.loadCheck q) := nofun
theorem signalRelease (q : Nat) : Statement (.signalRelease q) := nofun
theorem completionWrite (ring : Nat) : Statement (.completionWrite ring) := nofun
theorem ringFaultRetry (fn ring : Nat) : Statement (.ringFaultRetry fn ring) := nofun
theorem watchdogExpiry (q : Nat) : Statement (.watchdogExpiry q) := nofun
theorem stallAck (job : Nat) : Statement (.stallAck job) := nofun
theorem queueReset (fn q : Nat) : Statement (.queueReset fn q) := nofun
theorem stop (fn q : Nat) : Statement (.stop fn q) := nofun
theorem resume (fn q : Nat) : Statement (.resume fn q) := nofun
theorem tmWrite (fn tm width : Nat) (value : Word64) : Statement (.tmWrite fn tm width value) := nofun
theorem tmRead (fn tm width : Nat) : Statement (.tmRead fn tm width) := nofun
theorem tmAddLatch (value : Word32) : Statement (.tmAddLatch value) := nofun
theorem tmAdd (wide : Bool) (value : Word64) : Statement (.tmAdd wide value) := nofun
theorem escalationReport : Statement .escalationReport := nofun
theorem read : Statement .read := nofun
theorem commit (clearHistory thenRead : Bool) : Statement (.commit clearHistory thenRead) := nofun
theorem slotRun (v c lslot : Nat) : Statement (.slotRun v c lslot) := nofun
theorem passIssue (v c : Nat) : Statement (.passIssue v c) := nofun
theorem tileComplete (v c : Nat) (parity : List Nat) : Statement (.tileComplete v c parity) := nofun
theorem drain (v c : Nat) (parity : List Nat) : Statement (.drain v c parity) := nofun
theorem panelFill (v : Nat) (c : Wired) : Statement (.panelFill v c) := nofun
theorem rowApply (v lslot : Nat) : Statement (.rowApply v lslot) := nofun
theorem taskComplete (q seq : Nat) : Statement (.taskComplete q seq) := nofun
theorem plainPacket (p : PlainPkt) : Statement (.plainPacket p) := nofun
theorem mergeWindowExpiry (v c bank word : Nat) : Statement (.mergeWindowExpiry v c bank word) := nofun
theorem scrubStep (v c bank : Nat) (upset : List Byte) : Statement (.scrubStep v c bank upset) := nofun
theorem channelReplay (die edge chan : Nat) : Statement (.channelReplay die edge chan) := nofun
theorem descriptorRead (e : Eng) (stream : Nat) : Statement (.descriptorRead e stream) := nofun
theorem runRead (e : Eng) (stream : Wired) : Statement (.runRead e stream) := nofun
theorem readReturn (e : Eng) (stream : Wired) : Statement (.readReturn e stream) := nofun
theorem gateOpen (e : Eng) (stream : Wired) : Statement (.gateOpen e stream) := nofun
theorem descriptorDone (e : Eng) (stream : Nat) : Statement (.descriptorDone e stream) := nofun
theorem copyComplete (e : Eng) (stream : Nat) : Statement (.copyComplete e stream) := nofun
theorem handoffUnit (stack stream : Nat) : Statement (.handoffUnit stack stream) := nofun
theorem handoffTimeout (v c : Nat) : Statement (.handoffTimeout v c) := nofun
theorem epochAck (e : Eng) (stream v : Nat) : Statement (.epochAck e stream v) := nofun
theorem lineBufferWrite (line : Nat) : Statement (.lineBufferWrite line) := nofun
theorem hbmAccess (stack unit : Nat) (who : HbmReq) (write : Option (Nat × List Byte)) (upset : HbmUpset) : Statement (.hbmAccess stack unit who write upset) := nofun
theorem patrolStep (stack : Nat) (upset : List Byte) : Statement (.patrolStep stack upset) := nofun
theorem headerOp (stack addr : Nat) (op : HdrReq) : Statement (.headerOp stack addr op) := nofun
theorem blockClaim (stack q seq : Nat) : Statement (.blockClaim stack q seq) := nofun
theorem blockCommit (stack q seq blk : Nat) : Statement (.blockCommit stack q seq blk) := nofun
theorem normWaitPass (stack q seq : Nat) : Statement (.normWaitPass stack q seq) := nofun
theorem bermWaitTimeout (stack q seq : Nat) (blk : Option Nat) : Statement (.bermWaitTimeout stack q seq blk) := nofun
theorem contextTake (ctx : Nat) : Statement (.contextTake ctx) := nofun
theorem exchangeStart (ctx : Nat) : Statement (.exchangeStart ctx) := nofun
theorem fillWaitTimeout (ctx : Nat) : Statement (.fillWaitTimeout ctx) := nofun
theorem scatter (port : Nat) (src : UdpSrc) (pkt : List Byte) : Statement (.scatter port src pkt) := nofun
theorem gather (port : Nat) (src : UdpSrc) (pkt : List Byte) : Statement (.gather port src pkt) := nofun
theorem up (port : Nat) (src : UdpSrc) (pkt : List Byte) : Statement (.up port src pkt) := nofun
theorem down (port : Nat) (src : UdpSrc) (pkt : List Byte) : Statement (.down port src pkt) := nofun
theorem louberAck (port : Nat) (src : UdpSrc) (pkt : List Byte) : Statement (.louberAck port src pkt) := nofun
theorem abort (port : Nat) (src : UdpSrc) (pkt : List Byte) : Statement (.abort port src pkt) := nofun
theorem louberAckSend (job srcPort ipHi ipLo : Nat) : Statement (.louberAckSend job srcPort ipHi ipLo) := nofun
theorem resendTimeout (job port ipHi ipLo : Nat) : Statement (.resendTimeout job port ipHi ipLo) := nofun
theorem lateTimeout (ctx : Nat) : Statement (.lateTimeout ctx) := nofun
theorem pauseFrame (port prio : Nat) : Statement (.pauseFrame port prio) := nofun
theorem otherFrame (port : Nat) (kind : FrameKind) : Statement (.otherFrame port kind) := nofun
theorem linkChange (port : Nat) (speed : Nat) : Statement (.linkChange port speed) := nofun
theorem retrain (port : Nat) : Statement (.retrain port) := nofun
theorem estJobEnable (job : Nat) (value : Word32) : Statement (.estJobEnable job value) := nofun
theorem train (l : Nat) (flit : List Byte) : Statement (.train l flit) := nofun
theorem trainSend (l : Nat) : Statement (.trainSend l) := nofun
theorem tidewayWrite (l : Nat) (flit : List Byte) : Statement (.tidewayWrite l flit) := nofun
theorem tidewaySignal (l : Nat) (flit : List Byte) : Statement (.tidewaySignal l flit) := nofun
theorem tidewayWake (l : Nat) (flit : List Byte) : Statement (.tidewayWake l flit) := nofun
theorem heartbeat (l : Nat) (flit : List Byte) : Statement (.heartbeat l flit) := nofun
theorem tidewayAck (l : Nat) (flit : List Byte) : Statement (.tidewayAck l flit) := nofun
theorem nak (l : Nat) (flit : NakFlit) : Statement (.nak l flit) := nofun
theorem heartbeatSend (l : Nat) : Statement (.heartbeatSend l) := nofun
theorem tidewayAckSend (l : Nat) : Statement (.tidewayAckSend l) := nofun
theorem replayTimeout (l : Nat) : Statement (.replayTimeout l) := nofun
theorem linkDown (l : Nat) : Statement (.linkDown l) := nofun
theorem partnerLost : Statement .partnerLost := nofun
theorem mirrorRound (job : Nat) : Statement (.mirrorRound job) := nofun
theorem mirrorRetry (job : Nat) : Statement (.mirrorRetry job) := nofun
theorem wakePartner : Statement .wakePartner := nofun
theorem linkRetrain (l : Nat) : Statement (.linkRetrain l) := nofun
theorem snapWrite (q seq : Nat) : Statement (.snapWrite q seq) := nofun
theorem restore (value : Word32) : Statement (.restore value) := nofun
theorem restoreDone : Statement .restoreDone := nofun
theorem holdEntered (page : Nat) : Statement (.holdEntered page) := nofun
theorem holdLeft (page : Nat) : Statement (.holdLeft page) := nofun
theorem soundStart (page : Nat) (value : Word32) : Statement (.soundStart page value) := nofun
theorem soundDone (page : Nat) (faults : List SoundFault) : Statement (.soundDone page faults) := nofun
theorem resetReq (page : Nat) : Statement (.resetReq page) := nofun
theorem countClr (page : Nat) : Statement (.countClr page) := nofun
theorem localTimeRead (fn page off width : Nat) : Statement (.localTimeRead fn page off width) := nofun
theorem registerWrite (fn addr width : Nat) (value : Word64) : Statement (.registerWrite fn addr width value) := nofun
theorem create (job : Nat) (vfEn : Bool) : Statement (.create job vfEn) := nofun
theorem destroy (job : Nat) : Statement (.destroy job) := nofun
theorem jobReset (job : Nat) : Statement (.jobReset job) := nofun
theorem inval (job : Nat) (walkInProgress : Bool) : Statement (.inval job walkInProgress) := nofun
theorem assign (job valley : Nat) : Statement (.assign job valley) := nofun
theorem valleyRelease (job valley : Nat) : Statement (.valleyRelease job valley) := nofun
theorem seqEnable (die ctx : Nat) (value : Word32) : Statement (.seqEnable die ctx value) := nofun
theorem functionLevelReset (fn : Nat) : Statement (.functionLevelReset fn) := nofun
theorem hotReset : Statement .hotReset := nofun
theorem getInfo (m : MboxSrc) : Statement (.getInfo m) := nofun
theorem fwBegin (m : MboxSrc) : Statement (.fwBegin m) := nofun
theorem fwData (m : MboxSrc) (chk : ImageChecks) (bufferFull : Bool) : Statement (.fwData m chk bufferFull) := nofun
theorem fwEnd (m : MboxSrc) (chk : FwEndChecks) : Statement (.fwEnd m chk) := nofun
theorem fwAbort (m : MboxSrc) : Statement (.fwAbort m) := nofun
theorem svnCommit (m : MboxSrc) (blown : Nat) : Statement (.svnCommit m blown) := nofun
theorem certRead (m : MboxSrc) : Statement (.certRead m) := nofun
theorem logRead (m : MboxSrc) : Statement (.logRead m) := nofun
theorem logClear (m : MboxSrc) : Statement (.logClear m) := nofun
theorem crashRead (m : MboxSrc) : Statement (.crashRead m) := nofun
theorem alertClear (m : MboxSrc) : Statement (.alertClear m) := nofun
theorem reset (m : MboxSrc) : Statement (.reset m) := nofun
theorem powerDown (m : MboxSrc) : Statement (.powerDown m) := nofun
theorem settingsWrite (m : MboxSrc) : Statement (.settingsWrite m) := nofun
theorem unknownCmd (m : MboxSrc) : Statement (.unknownCmd m) := nofun
theorem sbPointerWrite (bytes : List Byte) : Statement (.sbPointerWrite bytes) := nofun
theorem sbRead (count : Nat) : Statement (.sbRead count) := nofun
theorem shadowRefresh : Statement .shadowRefresh := nofun
theorem entdaa (addr : Nat) : Statement (.entdaa addr) := nofun
theorem setdasa (static addr : Nat) : Statement (.setdasa static addr) := nofun
theorem rstdaa : Statement .rstdaa := nofun
theorem getpid : Statement .getpid := nofun
theorem getbcr : Statement .getbcr := nofun
theorem getdcr : Statement .getdcr := nofun
theorem getstatus : Statement .getstatus := nofun
theorem enec (mask : Nat) : Statement (.enec mask) := nofun
theorem disec (mask : Nat) : Statement (.disec mask) := nofun
theorem otherCcc (code : Nat) : Statement (.otherCcc code) := nofun
theorem doeDiscovery (index : Nat) : Statement (.doeDiscovery index) := nofun
theorem getVersion : Statement .getVersion := nofun
theorem getCapabilities (req : List Byte) : Statement (.getCapabilities req) := nofun
theorem negotiateAlgorithms (req : List Byte) : Statement (.negotiateAlgorithms req) := nofun
theorem getDigests : Statement .getDigests := nofun
theorem getCertificate (slot offset length : Nat) : Statement (.getCertificate slot offset length) := nofun
theorem challenge (slot : Nat) (req : List Byte) : Statement (.challenge slot req) := nofun
theorem getMeasurements (index : Nat) (signed : Bool) (req : List Byte) : Statement (.getMeasurements index signed req) := nofun
theorem getCosign (payload : List Byte) : Statement (.getCosign payload) := nofun
theorem getSlhChain (payload : List Byte) : Statement (.getSlhChain payload) := nofun
theorem unsupportedRequest (code : Nat) : Statement (.unsupportedRequest code) := nofun
theorem cosignReady : Statement .cosignReady := nofun
theorem idcode : Statement .idcode := nofun
theorem bypass (code : Nat) : Statement (.bypass code) := nofun
theorem samplePreload (pins preload : List Bool) : Statement (.samplePreload pins preload) := nofun
theorem extest : Statement .extest := nofun
theorem clamp : Statement .clamp := nofun
theorem reload (die : Nat) (source : Bool) : Statement (.reload die source) := nofun
theorem heartbeatLost (die : Nat) : Statement (.heartbeatLost die) := nofun
theorem slEnable (job : Nat) (value : Word32) : Statement (.slEnable job value) := nofun
theorem flush (job : Nat) : Statement (.flush job) := nofun
theorem slLineWrite (job : Nat) : Statement (.slLineWrite job) := nofun
theorem slHeaderRewrite (job : Nat) : Statement (.slHeaderRewrite job) := nofun
theorem intervalUpdate : Statement .intervalUpdate := nofun
theorem powerOn (chk : ImageChecks) (faults : List BootFault) : Statement (.powerOn chk faults) := nofun
theorem bootTimeout : Statement .bootTimeout := nofun
theorem overvoltage (mv minMv : Nat) : Statement (.overvoltage mv minMv) := nofun
theorem undervoltage (mv minMv : Nat) : Statement (.undervoltage mv minMv) := nofun
theorem lowWaterEntry (mv : Nat) : Statement (.lowWaterEntry mv) := nofun
theorem lowWaterDip (mv : Nat) : Statement (.lowWaterDip mv) := nofun
theorem lowWaterExit (mv : Nat) : Statement (.lowWaterExit mv) := nofun
theorem governorTick (watts peak : Nat) : Statement (.governorTick watts peak) := nofun
theorem thermalSample (t : Temps) : Statement (.thermalSample t) := nofun
theorem refclk100Loss : Statement .refclk100Loss := nofun
theorem refclk156Loss : Statement .refclk156Loss := nofun
theorem modResetN (lowMicros : Nat) (chk : ImageChecks) (faults : List BootFault) : Statement (.modResetN lowMicros chk faults) := nofun
theorem moduleReset (chk : ImageChecks) (faults : List BootFault) : Statement (.moduleReset chk faults) := nofun
theorem deviceReset : Statement .deviceReset := nofun
theorem resetComplete (page : Nat) : Statement (.resetComplete page) := nofun
theorem powerDownExpiry : Statement .powerDownExpiry := nofun
theorem stby12vChange (ok : Bool) : Statement (.stby12vChange ok) := nofun
theorem configurationRequest (r : CfgReq) : Statement (.configurationRequest r) := nofun
theorem pauseExpiry (port : Nat) : Statement (.pauseExpiry port) := nofun

end Sys2Proof.Laws.Unspelled
end

