-- ==== Sys2Proof/WellFormed.lean ====
section
/-! DEFINITION. Which commands are well formed: every operand that names a resource lies within the ranges of the module (R18, R41,
R188, R218, R314 and the chapters), and frames and packets have the lengths their links carry. -/

namespace Sys2Proof

namespace Wf

/-- A function: 0 the physical function, j + 1 job j's virtual function (R321). -/
def fn (n : Nat) : Bool := n ≤ 64
/-- A queue (R41). -/
def queue (n : Nat) : Bool := n < 16384
/-- A completion ring (R41). -/
def ring (n : Nat) : Bool := n < 2048
/-- A tidemark (R41). -/
def tm (n : Nat) : Bool := n < 8192
/-- A job (R314). -/
def job (n : Nat) : Bool := n < 64
/-- A global valley index (R18). -/
def valley (n : Nat) : Bool := n < 1200
/-- A logical core (R19): no grade has more than 250. -/
def coreNo (n : Nat) : Bool := n < 250
/-- A layer slot (R167). -/
def lslot (n : Nat) : Bool := n < 2
/-- A stack (R13). -/
def stack (n : Nat) : Bool := n < 8
/-- A stream (R188). -/
def stream (n : Nat) : Bool := n < 4096
/-- A die (R12). -/
def die (n : Nat) : Bool := n < 12
/-- A port (R41). -/
def port (n : Nat) : Bool := n < 16
/-- A Tideway link (R41). -/
def link (n : Nat) : Bool := n < 2
/-- A bucket context (R287). -/
def ctx (n : Nat) : Bool := n < 256
/-- The BAR0 address of a page (R41, R42). -/
def page (n : Nat) : Bool := n % 4096 = 0 && (Machine.pageOf n).isSome
/-- The width of an access in bits. -/
def width (n : Nat) : Bool := n = 8 || n = 16 || n = 32 || n = 64
/-- A sequence number (R166). -/
def seq (n : Nat) : Bool := n < 2 ^ 50
/-- A word of a core's bank (R133). -/
def bank (b : Nat) : Bool := b < 8
/-- An error in transit: of a word of a core, over its 35 bytes (R133, R136). -/
def wireErr (e : WireErr) : Bool := valley e.valley && coreNo e.core && e.word < 5120 && e.upset.length = 35
/-- A Louber packet: its header at least, one data packet's payload at most (R278). -/
def packet (l : List Byte) : Bool := 32 ≤ l.length && l.length ≤ 8224
/-- Where a Louber frame comes from: an IP address of 16 bytes, an Ethernet address of 6 (R276). -/
def udpSrc (r : UdpSrc) : Bool := r.ip.length = 16 && r.mac.length = 6
/-- A mailbox frame (R350). -/
def frame (m : MboxSrc) : Bool := match m with | .pcie => true | .sideband f => f.length ≤ 256

end Wf

open Wf in
/-- Whether a command's operands lie in their ranges. -/
def wellFormed : Instr → Bool
  | .nop q | .cfgWrite q | .patch q | .start q | .copy q | .small q | .signal q | .wait q | .fence q | .reduce q | .update q
  | .snap q | .hold q | .release q | .callChart q | .cancel q | .commandFetch q | .loadCheck q | .signalRelease q
  | .watchdogExpiry q => queue q
  | .doorbell f q _ | .queueReset f q | .stop f q | .resume f q => fn f && queue q
  | .completionWrite r => ring r
  | .ringFaultRetry f r => fn f && ring r
  | .stallAck j | .create j _ | .destroy j | .jobReset j | .inval j _ | .mirrorRound j | .mirrorRetry j | .estJobEnable j _
  | .slEnable j _ | .flush j | .slLineWrite j | .slHeaderRewrite j => job j
  | .tmWrite f t w _ | .tmRead f t w => fn f && tm t && width w
  | .slotRun v c l => valley v && coreNo c && lslot l
  | .passIssue v c | .tileComplete v c _ | .drain v c _ | .handoffTimeout v c => valley v && coreNo c
  | .rowApply v l => valley v && lslot l
  | .taskComplete q n | .snapWrite q n => queue q && seq n
  | .plainPacket p => valley p.valley && 1 ≤ p.words && p.words ≤ 8 && p.upset.length ≤ 280 &&
    (match p.data with | some d => p.addr % 32 + d.length ≤ 256 | none => true)
  | .mergeWindowExpiry v c b w => valley v && coreNo c && bank b && w < 640
  | .scrubStep v c b _ => valley v && coreNo c && bank b
  | .channelReplay d e c => die d && e < 4 && c < 168
  | .panelFill v c => valley v && coreNo c.no && c.errs.all wireErr
  | .runRead e n | .readReturn e n | .gateOpen e n => stack e.stack && stream n.no && n.errs.all wireErr
  | .descriptorRead e n | .descriptorDone e n | .copyComplete e n =>
    stack e.stack && stream n
  | .epochAck e n v => stack e.stack && stream n && valley v
  | .handoffUnit h n => stack h && stream n
  | .hbmAccess h _ _ _ _ | .patrolStep h _ => stack h
  | .headerOp h _ r => stack h && job r.job
  | .blockClaim h q n | .normWaitPass h q n | .blockCommit h q n _ | .bermWaitTimeout h q n _ => stack h && queue q && seq n
  | .contextTake x | .exchangeStart x | .fillWaitTimeout x | .lateTimeout x => ctx x
  | .scatter p r l | .gather p r l | .up p r l | .down p r l | .louberAck p r l | .abort p r l => port p && udpSrc r && packet l
  | .louberAckSend j _ a b => job j && a < 2 ^ 64 && b < 2 ^ 64
  | .resendTimeout j p a b => job j && port p && a < 2 ^ 64 && b < 2 ^ 64
  | .pauseFrame p _ | .pauseExpiry p | .otherFrame p _ | .linkChange p _ | .retrain p => port p
  | .train l _ | .tidewayWrite l _ | .tidewaySignal l _ | .tidewayWake l _ | .heartbeat l _ | .tidewayAck l _ | .nak l _
  | .trainSend l | .heartbeatSend l | .tidewayAckSend l | .replayTimeout l | .linkDown l | .linkRetrain l => link l
  | .holdEntered p | .holdLeft p | .soundStart p _ | .soundDone p _ | .resetReq p | .countClr p | .resetComplete p => page p
  | .localTimeRead f p _ w => fn f && page p && width w
  | .registerWrite f _ w _ => fn f && width w
  | .assign j v | .valleyRelease j v => job j && valley v
  | .seqEnable d x _ => die d && x < 8
  | .functionLevelReset f => fn f
  | .getInfo m | .fwBegin m | .fwData m _ _ | .fwEnd m _ | .fwAbort m | .svnCommit m _ | .certRead m | .logRead m | .logClear m
  | .crashRead m | .alertClear m | .reset m | .powerDown m | .settingsWrite m | .unknownCmd m => frame m
  | .entdaa a => a < 128
  | .setdasa a b => a < 128 && b < 128
  | .reload d _ | .heartbeatLost d => die d
  | .configurationRequest (.busMaster f _) | .configurationRequest (.powerState f _) | .configurationRequest (.read f _) => fn f
  | .configurationRequest (.numVFs n) => n ≤ 64
  | .configurationRequest (.resize _ n) => n < 64
  | .lineBufferWrite _ | .configurationRequest (.bar _ _ _) | .configurationRequest .translated
  | .tmAddLatch _ | .tmAdd _ _ | .escalationReport | .read | .commit _ _ | .partnerLost | .wakePartner | .restore _ | .restoreDone
  | .hotReset | .sbPointerWrite _ | .sbRead _ | .shadowRefresh | .rstdaa | .getpid | .getbcr | .getdcr | .getstatus | .enec _
  | .disec _ | .otherCcc _ | .doeDiscovery _ | .getVersion | .getCapabilities _ | .negotiateAlgorithms _ | .getDigests
  | .getCertificate _ _ _ | .challenge _ _ | .getMeasurements _ _ _ | .getCosign _ | .getSlhChain _ | .unsupportedRequest _
  | .cosignReady | .idcode | .bypass _ | .samplePreload _ _ | .extest | .clamp | .intervalUpdate | .powerOn _ _ | .bootTimeout
  | .overvoltage _ _ | .undervoltage _ _ | .lowWaterEntry _ | .lowWaterDip _ | .lowWaterExit _ | .governorTick _ _
  | .thermalSample _ | .refclk100Loss | .refclk156Loss | .modResetN _ _ _ | .moduleReset _ _ | .deviceReset | .powerDownExpiry
  | .stby12vChange _ => true

end Sys2Proof
end

