-- ==== Sys2Proof/Tests/Slice0.lean ====
section
/-! SUPPORT. Tests: ill-formed commands are refused, small steps give what the manual says, and each `witness_<Name>` shows states and
operands that meet the hypotheses of the statement of that name, clause by clause, at boundary values where a range is named. -/

namespace Sys2Proof.Tests

/- One theorem after another: the kernel's threads for many evaluations at once do not fit the memory. -/
set_option Elab.async false

open Machine

/-! ### Well-formedness: one ill-formed command for each check -/

theorem test_wf_fn : wellFormed (.functionLevelReset 65) = false := by decide
theorem test_wf_queue : wellFormed (.nop 16384) = false := by decide
theorem test_wf_ring : wellFormed (.completionWrite 2048) = false := by decide
theorem test_wf_tm : wellFormed (.tmRead 0 8192 64) = false := by decide
theorem test_wf_width : wellFormed (.tmRead 0 0 24) = false := by decide
theorem test_wf_job : wellFormed (.flush 64) = false := by decide
theorem test_wf_valley : wellFormed (.assign 0 1200) = false := by decide
theorem test_wf_core : wellFormed (.passIssue 0 250) = false := by decide
theorem test_wf_lslot : wellFormed (.rowApply 0 2) = false := by decide
theorem test_wf_seq : wellFormed (.taskComplete 0 (2 ^ 50)) = false := by decide
theorem test_wf_stack : wellFormed (.patrolStep 8 []) = false := by decide
theorem test_wf_stream : wellFormed (.handoffUnit 0 4096) = false := by decide
theorem test_wf_die : wellFormed (.heartbeatLost 12) = false := by decide
theorem test_wf_context : wellFormed (.seqEnable 0 8 0) = false := by decide
theorem test_wf_port : wellFormed (.retrain 16) = false := by decide
theorem test_wf_link : wellFormed (.linkDown 2) = false := by decide
theorem test_wf_ctx : wellFormed (.lateTimeout 256) = false := by decide
theorem test_wf_page : wellFormed (.countClr (pgQm + 4)) = false := by decide
theorem test_wf_bank : wellFormed (.scrubStep 0 0 8 []) = false := by decide
theorem test_wf_word : wellFormed (.mergeWindowExpiry 0 0 0 640) = false := by decide
theorem test_wf_edge : wellFormed (.channelReplay 0 4 0) = false := by decide
theorem test_wf_channel : wellFormed (.channelReplay 0 0 168) = false := by decide
theorem test_wf_packet : wellFormed (.scatter 0 ⟨List.replicate 16 0, List.replicate 6 0, 0, false⟩ (List.replicate 31 0)) = false := by decide
theorem test_wf_source : wellFormed (.abort 0 ⟨[], List.replicate 6 0, 0, false⟩ (List.replicate 32 0)) = false := by decide
theorem test_wf_address : wellFormed (.louberAckSend 0 0 (2 ^ 64) 0) = false := by decide
theorem test_wf_frame : wellFormed (.getInfo (.sideband (List.replicate 257 0))) = false := by decide +kernel
theorem test_wf_words : wellFormed (.plainPacket ⟨.io, 0, 0, 0, none, 9, false, [], none⟩) = false := by decide
theorem test_wf_upset : wellFormed (.plainPacket ⟨.io, 0, 0, 0, none, 1, false, List.replicate 281 0, none⟩) = false := by decide +kernel
theorem test_wf_span : wellFormed (.plainPacket ⟨.io, 0, 0, 31, some (List.replicate 226 0), 1, false, [], none⟩) = false := by decide +kernel
theorem test_wf_i3c : wellFormed (.entdaa 128) = false := by decide
theorem test_wf_numVFs : wellFormed (.configurationRequest (.numVFs 65)) = false := by decide

/-! ### States and operands -/

/-- The module up on the main input. -/
def up0 : State := { hl := { boot := .up, mainIn := true } }

/-- Registers stored one after the other. -/
def withRegs (l : List (Nat × Nat)) (s : State) : State := l.foldl (fun s e => wr s e.1 e.2) s

/-- A mailbox frame with TAG 7. -/
def frame (cmd : Nat) (p : List Byte) : List Byte := [BitVec.ofNat 8 cmd, 7, 0, BitVec.ofNat 8 (p.length / 4)] ++ p

/-- HBM with the three tables of a walk at 0x10000: device virtual addresses from 0 are HBM from 0, those from 2^30 host memory from 0. -/
def tables : Memory := memSet (memSet (memSet [] 0x10000 (leBytes 8 0x11001)) 0x11000 (leBytes 8 7)) 0x11008 (leBytes 8 15)

/-- Job 0 active with four queues, 16 tidemarks, two rings, four streams and valley 0; ring 0 enabled. -/
def job0 : State :=
  { withRegs [(jobCtl 0, 1), (bk (pgJob + 0x88) 0, 0x10000), (bk (pgJob + 0x90) 0, 0x40000), (bk (pgJob + 0x94) 0, 0x100000),
      (bk (pgJob + 0x98) 0, 0x20000), (bk (pgJob + 0x9C) 0, 0x40000)] up0 with
    owners := [(0, 1)], rings := [(0, { sizeLog2 := 4, base := 0x40000, enable := true })], hbm := tables
    hl := { up0.hl with busMaster := [0] } }

/-- A record of eight words: opcode and word 0's other bits, the signal's value, the operand words. -/
def command (op bits sig : Nat) (ws : List Nat) : Rec := (([op + bits, sig] ++ ws ++ List.replicate 6 0).take 8).map (BitVec.ofNat 64)

/-- Queue 0 enabled with those commands fetched and checked. -/
def fetched (cs : List Rec) : Queue :=
  { sizeLog2 := 4, enable := true, tail := BitVec.ofNat 16 cs.length, fetched := cs, loads := [{ count := cs.length, checked := true }] }

/-- Job 0 with one command at the head of queue 0. -/
def atHead (c : Rec) : State := { job0 with queues := [(0, fetched [c])] }

/-- The smallest product image: BF16 by BF16, one chain of one pass of one step on core 0, drained as FP32. -/
def product : Image :=
  [(0, 1), (2, 0x3F8000003F800000), (3, 0x3F800000), (4, 0x1000001000000), (8, 0x200000), (9, 0x201000), (10, 0x202000), (16, 0x4007FFFE001), (17, 0xFFFF0000000000),
   (19, 0xFFFF0000000000)]

/-- A row task of OP 2 over one row of eight FP32 elements on core 0. -/
def rowTask : Image :=
  [(0, 0x7702), (2, 0x3F8000003F800000), (3, 0x3F800000), (4, 0x1000000), (16, 0x1000100002), (17, 0x200008), (19, 0x3F800000), (20, 0x200000), (21, 0x202000),
   (22, 0x4000)]

/-- A flash that can be read and written. -/
def goodChecks : ImageChecks := ⟨true⟩

/-! ### Witnesses: steps, JTAG, the sideband, attestation, the mailboxes -/

theorem witness_StepRunsTheFrontCommand :
    ({ up0 with pending := [.nop 0, .idcode] } : State).pending = .nop 0 :: [.idcode] ∧
    (up0.pending = [] ∧ up0.heldCmds = [] ∧ 7 < up0.grade.stacks ∧ up up0 = true ∧ clocked up0 (pgHbm 7) = true ∧ up {} = false) ∧
    (let s : State := { up0 with heldCmds := [.queueReset 0 0] }
     s.heldCmds = [.queueReset 0 0] ∧ s.pending = []) := by decide +kernel

theorem witness_JtagInstructionsSelectTheirRegisters :
    (hlOn up0 = true ∧ up0.hl.boot = .up) ∧ hlOn { hl := { stby := true } } = true := by decide

theorem witness_SidebandTransactionsReachTheShadowRegisters :
    hlOn up0 = true ∧ up0.hl.sbHeld = none ∧ (1 < (2 : Byte).toNat ∧ 1 < (0xFF : Byte).toNat) ∧
    (hlOn { up0 with hl := { up0.hl with sbHeld := some [] } } = true ∧
      ({ up0 with hl := { up0.hl with sbHeld := some [] } } : State).hl.sbHeld ≠ none) := by decide

theorem witness_I3cCommonCommandCodesAct :
    (hlOn up0 = true ∧ up0.hl.i3cAddr = none ∧ 0xFF % 2 = 1) ∧
    (hlOn { up0 with hl := { up0.hl with i3cAddr := some 127 } } = true ∧
      ({ up0 with hl := { up0.hl with i3cAddr := some 127 } } : State).hl.i3cAddr ≠ none) := by decide

theorem witness_DoeAnswersWhatTheModuleSupports : up0.hl.boot = .up ∧ 0 ≤ (idChain up0 0).length := by
  exact ⟨rfl, Nat.zero_le _⟩

/-- The module with a co-signature begun, computed or not. -/
def cosigned (ready : Bool) : State := { up0 with hl := { up0.hl with cosign := some { hash := [1], sig := [1, 2, 3], ready := ready } } }

theorem witness_SignedResponsesStartACoSignature :
    (up0.hl.boot = .up ∧ cosigning up0 = false ∧ 1 ≤ 1 ∧ 4 ≤ 4) ∧ ((cosigned false).hl.boot = .up ∧ cosigning (cosigned false) = true) ∧
    (0 = 0 ∨ (4 < 0 ∧ 0 ≠ 0xFF)) ∧ (5 = 0 ∨ (4 < 5 ∧ 5 ≠ 0xFF)) ∧
    (∃ co, (cosigned true).hl.boot = .up ∧ (cosigned true).hl.cosign = some co ∧ co.ready = true ∧ (co.stale = false ∨ 0 = 0) ∧
      vendorReq 1 [1, 0, 0, 0, 0, 0, 0, 0, 2, 0] = some (0, 2)) ∧
    vendorReq 2 [2, 0, 0, 0, 0, 0, 0, 0, 2, 0] = some (0, 2) := by
  refine ⟨by decide, by decide, by decide, by decide, ⟨_, rfl, rfl, ?_⟩, ?_⟩ <;> decide

/-- A log of two entries, three lost, and bytes in the journal. -/
def logged : State :=
  { up0 with hl := { up0.hl with log := [⟨5, 0x10, 1, 2, 3, 4, 5⟩, ⟨6, 0x20, 1, 2, 3, 4, 5⟩], logSeq := 6, logLost := 3, journal := [(0, [1, 2, 3])] } }

theorem witness_MailboxReadsAnswerWithTheirData :
    let taken := fun (cmd : Nat) (p : List Byte) => Safe.mboxFrame logged (.sideband (frame cmd p)) (frame cmd p) p ∧ frameCmd (frame cmd p) = cmd
    taken 0x01 [] ∧ (taken 0x20 [1, 0, 0, 0, 0, 0, 0, 0] ∧ arg [1, 0, 0, 0, 0, 0, 0, 0] 0 ≤ 1) ∧ taken 0x30 [6, 0, 0, 0] ∧
    taken 0x31 [6, 0, 0, 0] ∧
    (taken 0x32 [0x08, 0xFF, 3, 0, 248, 0, 0, 0] ∧ arg [0x08, 0xFF, 3, 0, 248, 0, 0, 0] 1 = 248 ∧
      arg [0x08, 0xFF, 3, 0, 248, 0, 0, 0] 0 + 248 = 0x40000) ∧
    (taken 0x99 [] ∧ knownCmd 0x99 = false) := by
  unfold Safe.mboxFrame; decide +kernel

/-- The module with that update running. -/
def updating (u : FwUpd) : State := { up0 with hl := { up0.hl with update := some u } }

/-- Two bytes received over the sideband, the flash erased. -/
def received : FwUpd := { pcie := false, bytes := [1, 2], erased := true }

/-- An image of SEC_VERSION 3 runs and stands in flash, no fuse blown. -/
def svn3 : State :=
  { up0 with flash := { secVersion := 3 }, hl := { up0.hl with running := [0, 0, 0, 0, 0, 0, 0, 0, 3, 0, 0, 0] } }

theorem witness_FirmwareUpdatesWriteTheImage :
    let taken := fun (s : State) (cmd : Nat) (p : List Byte) => Safe.mboxFrame s (.sideband (frame cmd p)) (frame cmd p) p ∧ frameCmd (frame cmd p) = cmd
    let begun : FwUpd := { pcie := false, bytes := [1, 2] }
    (taken up0 0x10 [] ∧ up0.hl.update = none) ∧ (taken (updating begun) 0x10 [] ∧ (updating begun).hl.update = some begun) ∧
    (taken (updating begun) 0x11 [2, 0, 0, 0, 9, 8, 7, 6] ∧ leNat (slice [2, 0, 0, 0, 9, 8, 7, 6] 0 4) = begun.bytes.length ∧
      begun.erased = false ∧ begun.bytes.length + (8 - 4) < 0x5000) ∧
    (taken (updating received) 0x11 [2, 0, 0, 0, 9, 8, 7, 6] ∧ leNat (slice [2, 0, 0, 0, 9, 8, 7, 6] 0 4) = received.bytes.length ∧
      received.erased = true ∧ goodChecks.flashOk = true) ∧
    (taken (updating begun) 0x13 [] ∧ begun.pcie = srcPcie (.sideband [])) ∧
    (taken svn3 0x14 [] ∧ svn3.hl.update = none ∧ svn3.hl.boot = .up ∧ svn3.flash.secVersion = imgSec svn3.hl.running ∧
      svn3.flash.svn < imgSec svn3.hl.running) := by
  unfold Safe.mboxFrame; decide +kernel

theorem witness_MailboxActionsTakeEffect :
    let taken := fun (cmd : Nat) (p : List Byte) =>
      Safe.mboxFrame logged (.sideband (frame cmd p)) (frame cmd p) p ∧ frameCmd (frame cmd p) = cmd ∧ logged.hl.boot ≠ .recovery
    taken 0x33 [5, 0, 0, 0] ∧
    (taken 0x50 [1, 0, 0, 0, 1, 0, 0, 0] ∧ arg [1, 0, 0, 0, 1, 0, 0, 0] 0 = 1 ∧ leNat (slice ([1, 0, 0, 0, 1, 0, 0, 0].drop 4) 0 1) ≤ 1) ∧
    (taken 0x50 [3, 0, 0, 0, 0xE8, 3, 0, 0] ∧ arg [3, 0, 0, 0, 0xE8, 3, 0, 0] 0 = 3 ∧
      1000 ≤ leNat (slice ([3, 0, 0, 0, 0xE8, 3, 0, 0].drop 4) 0 2) ∧ leNat (slice ([3, 0, 0, 0, 0xE8, 3, 0, 0].drop 4) 0 2) ≤ logged.grade.tdp) ∧
    (taken 0x40 [0, 1, 0, 0] ∧ arg [0, 1, 0, 0] 0 = 0x100 ∧ canModule logged = true) ∧
    taken 0x41 [] := by
  unfold Safe.mboxFrame; decide +kernel

/-- The 48 bytes of a digest, one by one. -/
def digest (d : List Byte) : List Byte := (List.range 48).map (fun i => (slice d 0 48).getD i 0)

theorem slice_eq_digest (d : List Byte) : slice d 0 48 = digest d := by
  refine List.ext_getElem ?_ fun i h _ => ?_
  · simp [slice, digest]; omega
  · simp [digest, List.getD_eq_getElem?_getD, List.getElem?_eq_getElem h]

/-- The factory image with the digest of its body, 4,096 bytes of 0, in BODY_DIGEST. -/
def goodImage : List Byte := factoryImage.take 0x40 ++ digest (Config.sha384 (List.replicate 0x1000 0)) ++ factoryImage.drop 0x70

theorem digest_length (d : List Byte) : (digest d).length = 48 := by simp [digest]

theorem goodImage_body : goodImage.drop 0x5000 = List.replicate 0x1000 0 := by
  simp [goodImage, factoryImage, List.drop_append, List.drop_replicate, List.drop_take, digest_length, -List.reduceReplicate]

theorem goodImage_digest : slice goodImage 0x40 48 = digest (Config.sha384 (List.replicate 0x1000 0)) := by
  simp [goodImage, slice, List.drop_append, List.take_append, digest_length, factoryImage, -List.reduceReplicate]

theorem goodImage_bodyOk : bodyOk goodImage = true := by
  have hn : imgBody goodImage = 0x1000 := by decide +kernel
  simp only [bodyOk, hn, goodImage_body, goodImage_digest, slice_eq_digest, List.take_replicate, Nat.min_self, decide_true]

theorem witness_FirmwareUpdatesWriteTheImage_fwEnd :
    let u : FwUpd := { received with bytes := goodImage }
    Safe.mboxFrame (updating u) (.sideband (frame 0x12 [])) (frame 0x12 []) [] ∧ (updating u).hl.update = some u ∧
    (updating u).hl.boot ≠ .recovery ∧ u.pcie = srcPcie (.sideband []) ∧ u.erased = true ∧
    u.bytes.length = 0x5000 + imgBody u.bytes ∧ bodyOk u.bytes = true ∧ goodChecks.flashOk = true := by
  refine ⟨⟨rfl, rfl⟩, rfl, by decide, rfl, rfl, ?_, goodImage_bodyOk, rfl⟩
  decide +kernel

/-- The module after a boot of the good image, whose keys hash to the fuses. -/
def bootable : State :=
  { job0 with
    flash := { image := goodImage, rsaKeyHash := Config.sha384 (slice (goodImage.take 0x5000) 0xC0 0x184),
               slhKeyHash := Config.sha384 (slice (goodImage.take 0x5000) 0x70 0x30) }
    hl := { job0.hl with running := goodImage.take 0x5000, log := [⟨5, 0x10, 1, 2, 3, 4, 5⟩] } }

/-- The two signature checks, of which no value can be shown (Config.rsaVerify, Config.slhVerify), take the good image's header (log 11). -/
def signed : Prop := rsaOk (goodImage.take 0x5000) = true ∧ slhOk (goodImage.take 0x5000) = true

theorem bootable_imageFail (sg : signed) (s : State) (h : s.flash = bootable.flash) : imageFail s goodChecks = 0 := by
  have hf : imgFormatOk (goodImage.take 0x5000) = true := by decide +kernel
  have hk : keysOk s (goodImage.take 0x5000) = true := by simp only [keysOk, h, bootable, decide_true, Bool.and_self]
  have hv : ¬ imgSec (goodImage.take 0x5000) < s.flash.svn := by rw [h]; decide +kernel
  have hh : headerFail s (goodImage.take 0x5000) = 0 := by
    simp only [headerFail, hf, hk, hv, sg.1, sg.2, Bool.not_true, Bool.false_eq_true, if_false]
  simp only [imageFail]
  rw [h, show bootable.flash.image = goodImage from rfl, hh, goodImage_bodyOk]
  decide +kernel

/-! ### Witnesses: queue commands -/

/-- The commands without operands that the witnesses put at a queue's head, reporting. -/
def nopCmd : Rec := command 0 0x100 0 []
/-- A FENCE. -/
def fenceCmd : Rec := command 0x22 0x100 0 []
/-- A WAIT for tidemark 3 at 5. -/
def waitCmd : Rec := command 0x21 0x100 0 [3, 5]
/-- A START of slot 0 of valley 0. -/
def startCmd : Rec := command 3 0 0 [1]
/-- Valley 0 with that slot 0. -/
def slot0 (y : Slot) : Tbl Valley := [(0, { slot0 := y })]

theorem witness_ShortCommandsAdvanceTheirQueue :
    (Safe.ready (atHead nopCmd) 0 opNop nopCmd ∧ cSigEn nopCmd = false ∧ cReport nopCmd = true) ∧
    (Safe.ready (atHead (command 0 0 0 [])) 0 opNop (command 0 0 0 []) ∧ cReport (command 0 0 0 []) = false) ∧
    Safe.ready { atHead waitCmd with tms := [(3, 5)] } 0 opWait waitCmd ∧ Safe.ready (atHead fenceCmd) 0 opFence fenceCmd ∧
    Safe.ready (atHead (command 0x20 0 9 [])) 0 opSignal (command 0x20 0 9 []) := by
  unfold Safe.ready Safe.atHead; decide +kernel

theorem witness_HeadCommandsWaitForTheirCondition :
    let running : State := { atHead startCmd with valleys := slot0 { st := .running } }
    let fenced : State := { atHead fenceCmd with ops := [{ queue := 0, seq := 7, job := 0, ring := 0, opcode := 0x10, cmd := [] }] }
    (Safe.atHead { atHead waitCmd with tms := [(3, 4)] } 0 opWait waitCmd ∧
      tmGet { atHead waitCmd with tms := [(3, 4)] } (wf' waitCmd 2 12 0) < wd waitCmd 3) ∧
    (Safe.atHead fenced 0 opFence fenceCmd ∧ ∃ o ∈ fenced.ops, o.queue = 0) ∧
    (Safe.atHead running 0 opStart startCmd ∧ (∀ v ∈ cValleys startCmd, ((getV running v).slot (cLslot startCmd)).st ≠ .invalid) ∧
      ∃ v ∈ cValleys startCmd, ((getV running v).slot (cLslot startCmd)).st.busy = true) := by
  unfold Safe.atHead; decide +kernel

theorem witness_AttachedSignalsArePerformed :
    let s : State := { atHead (command 0x20 0x50600 9 []) with tms := [(5, 2 ^ 64 - 2)] }
    Safe.ready s 0 opSignal (command 0x20 0x50600 9 []) ∧ cSigEn (command 0x20 0x50600 9 []) = true ∧ (getQ s 0).sigs = [] ∧
    (∀ o ∈ s.ops, o.queue ≠ 0) ∧ ∀ e ∈ s.valleys, ∀ m ∈ e.2.inbox, m.queue ≠ 0 := by
  unfold Safe.ready Safe.atHead; decide +kernel

/-- A PATCH of two words from word 0 of slot 0 of valley 0. -/
def patchCmd : Rec := command 2 0 0 [1, 0x400, 11, 12]
/-- A CFG_WRITE of two words from 0x20000. -/
def cfgCmd : Rec := command 1 0 0 [1, 0x20000, 0x400, 0]
/-- That CFG_WRITE at the head, its words in HBM. -/
def cfgState : State := { atHead cfgCmd with hbm := memSet tables 0x20000 (leBytes 8 77 ++ leBytes 8 78) }

theorem witness_ConfigurationReachesItsSlots :
    (cSigEn patchCmd = false ∧ Safe.ready (atHead patchCmd) 0 opPatch patchCmd ∧ ∀ v ∈ cValleys patchCmd, valleyTakes (atHead patchCmd) v = true) ∧
    (let g := nread (slCommand (takeHead cfgState 0).1 0 (Safe.seq cfgState 0) cfgCmd false false) (Safe.job cfgState 0) (Safe.handle cfgState 0)
      (wd cfgCmd 3) (8 * wf' cfgCmd 4 18 9)
     cSigEn cfgCmd = false ∧ Safe.ready cfgState 0 opCfgWrite cfgCmd ∧ bitOf (wd cfgCmd 4) 19 = false ∧ g.failed = none ∧
     g.s.hostWait = false ∧ ∀ v ∈ cValleys cfgCmd, valleyTakes g.s v = true) := by
  unfold Safe.ready Safe.atHead; decide +kernel

theorem witness_StartArmsItsSlots :
    ∀ m ∈ [product, rowTask],
      let s : State := { atHead startCmd with valleys := slot0 { st := .loaded, words := m } }
      Safe.ready s 0 opStart startCmd ∧ cSigEn startCmd = false ∧ opFind s 0 (Safe.seq s 0) = none ∧ cValleys startCmd ≠ [] ∧
      iPbCount m = 0 ∧ iGuardEn m = false ∧ (cValleys startCmd).headD 0 = 0 ∧ (∀ h ∈ s.holdOps, h.late = []) ∧
      ∀ v ∈ cValleys startCmd, valleyTakes s v = true ∧ ((getV s v).slot (cLslot startCmd)).st = .loaded ∧
        ((getV s v).slot (cLslot startCmd)).linkAbort = none ∧ imageBad s.grade m = none ∧ imageForeign s (Safe.job s 0) v m = none ∧
        imageAbsent s v m = none ∧ ((getV s v).slot (cLslot startCmd)).words = m := by
  unfold Safe.ready Safe.atHead; decide +kernel

/-- A COPY of stream 0 of Flood engine 0. -/
def copyCmd : Rec := command 0x10 0 0 [2, 0x20000, 0x10003]
/-- A SMALL of four bytes to HBM. -/
def smallCmd : Rec := command 0x11 0 0 [5, 0x30008, 4, 0x04030201]
/-- A REDUCE of bucket 0 with its plan at 0x20000. -/
def reduceCmd : Rec := command 0x30 0 0 [6, 0x100000, 0x300100000, 5, 0x20000]
/-- An UPDATE of one block with its optimiser record at 0x21000. -/
def updateCmd : Rec := command 0x31 0 0 [4, 0x100000, 1, 5, 0x21000]
/-- That REDUCE at the head, its plan in HBM, its job enabled in Estuary. -/
def reduceState : State :=
  { withRegs [(estReg 0 0x88, 0x80000000)] (atHead reduceCmd) with hbm := memSet tables 0x20000 (bytes64 [0x200050000, 0x40000, 1, 0, 0, 0, 0, 0]) }
/-- That UPDATE at the head, an optimiser record of KIND 3 in HBM. -/
def updateState : State :=
  { atHead updateCmd with
    hbm := memSet tables 0x21000 (bytes64 ([0x3F80000000000003, 0x3F8000003F800000, 0, 0, 0x3F80000000000000, 0x3F800000, 0x50000] ++ List.replicate 9 0)) }

theorem witness_TransfersReducesAndUpdatesBegin_copy :
    (Safe.ready (atHead copyCmd) 0 opCopy copyCmd ∧ cSigEn copyCmd = false ∧ cTarget copyCmd = some (.engine ⟨.flood, 0⟩) ∧
      held (atHead copyCmd) (pgEng ⟨.flood, 0⟩) = false) ∧
    (let s := withRegs [(pgEng ⟨.flood, 0⟩ + 0xC, 0x10035)] (atHead copyCmd)
     Safe.ready s 0 opCopy copyCmd ∧ held s (pgEng ⟨.flood, 0⟩) = true) ∧
    (let s := atHead smallCmd
     let p := translate (Safe.handed s 0 smallCmd) (narReq (Safe.job s 0) (Safe.handle s 0)) (wd smallCmd 3) true
     Safe.ready s 0 opSmall smallCmd ∧ cSigEn smallCmd = false ∧ s.lines = [] ∧ rf s (pgNar + 0x80) 7 0 ≠ 0 ∧ p.2.isSome = true ∧
     p.1.hostWait = false) := by
  unfold Safe.ready Safe.atHead; decide +kernel

theorem witness_TransfersReducesAndUpdatesBegin :
    (let s := reduceState
     let k : Ctx := { st := .armed, queue := 0, seq := Safe.seq s 0, job := Safe.job s 0, cmd := reduceCmd }
     let r := setCtx { settle { Safe.handed s 0 reduceCmd with estWait := [(0, Safe.seq s 0)] } pgEst with estWait := [] } 0 k
     let g := vread r (ctxReq k) (rdPlan reduceCmd) 64
     Safe.ready s 0 opReduce reduceCmd ∧ cSigEn reduceCmd = false ∧ opFind s 0 (Safe.seq s 0) = none ∧ s.estWait = [] ∧ s.early = [] ∧
     freeCtx s = some 0 ∧ estEnabled s (Safe.job s 0) = true ∧ bucketBusy s (Safe.job s 0) (rdBucket reduceCmd) = false ∧
     g.failed = none ∧ g.s.hostWait = false ∧ planBad s.grade (words64 g.bytes) = false) ∧
    (let s := updateState
     let u : Upd := { queue := 0, seq := Safe.seq s 0, job := Safe.job s 0, cmd := updateCmd }
     let r := settle (setBerm (Safe.handed s 0 updateCmd) 0 [u]) (pgBerm 0)
     let g := vread r (bermReq u) (wd updateCmd 6) 128
     Safe.ready s 0 opUpdate updateCmd ∧ cSigEn updateCmd = false ∧ cTarget updateCmd = some (.berm 0) ∧ bermList s 0 = [] ∧
     0 < uCount updateCmd ∧ g.failed = none ∧ g.s.hostWait = false ∧ working r (pgBerm 0) = true ∧
     optBad (uNormWait updateCmd) (words64 g.bytes) = false) := by
  unfold Safe.ready Safe.atHead; decide +kernel

/-- A HOLD of steward 0 until tidemark 3 reaches 9. -/
def holdCmd : Rec := command 0x40 0 0 [7, 3, 9]
/-- A SNAP of job 0. -/
def snapCmd : Rec := command 0x32 0 0 [0x10, 0x100000, 0x20000]

theorem witness_SnapAndHoldBegin :
    (Safe.ready (atHead snapCmd) 0 opSnap snapCmd ∧ cSigEn snapCmd = false) ∧
    (let s := withRegs [(pgSteward 0 + 0x10, 0x31)] (atHead holdCmd)
     Safe.ready s 0 opHold holdCmd ∧ cSigEn holdCmd = false ∧ cPages holdCmd ≠ [] ∧
     ∀ pg ∈ cPages holdCmd, armedHold s pg = true ∧ held s pg = false ∧ (blk s pg).entering = false ∧ (blk s pg).scope = none ∧
       stewardless s pg = false) := by
  unfold Safe.ready Safe.atHead; decide +kernel

/-- A CALL_CHART of a chart at 0x20000. -/
def callCmd : Rec := command 0x50 0 0 [0x20000, 0x20400]
/-- That CALL_CHART at the head, a chart of two commands in HBM. -/
def callState : State :=
  { atHead callCmd with hbm := memSet tables 0x20000 (bytes64 (command 2 0 0 [] ++ command 0 0x100 0 [] ++ command 0x21 0 0 [3, 1])) }
/-- And a chart of a command of no opcode. -/
def badCall : State := { callState with hbm := memSet tables 0x20000 (bytes64 (command 1 0 0 [] ++ command 0x3F 0 0 [])) }
/-- A RELEASE of steward 0. -/
def releaseCmd : Rec := command 0x41 0 0 [7]
/-- A CANCEL of command `n` of queue 1. -/
def cancelCmd (n : Nat) : Rec := command 0x51 0 0 [2 ^ 50 + n]

theorem witness_ChartsReleasesAndCancelsAct :
    (let r := chartRead (Safe.handed callState 0 callCmd) (Safe.job callState 0) (Safe.handle callState 0) callCmd
     let g := fun (cmds : List Rec) ps =>
       scanLoad (slParams r.1 (Safe.job callState 0) (wd callCmd 3) ps) 0 (Safe.seq callState 0 + 1) true 0 (cmds.map (substRec ps))
     Safe.ready callState 0 opCallChart callCmd ∧ opFind callState 0 (Safe.seq callState 0) = none ∧
     (match r.2 with
      | .ok cmds ps => decide (cmds.length = 2) && !(g cmds ps).1.hostWait && (g cmds ps).2.isNone && (boundTo (g cmds ps).1 0).isNone
      | _ => false) = true) ∧
    (let s := badCall
     let r := chartRead (Safe.handed s 0 callCmd) (Safe.job s 0) (Safe.handle s 0) callCmd
     let g := fun (cmds : List Rec) ps =>
       scanLoad (slParams r.1 (Safe.job s 0) (wd callCmd 3) ps) 0 (Safe.seq s 0 + 1) true 0 (cmds.map (substRec ps))
     Safe.ready s 0 opCallChart callCmd ∧ opFind s 0 (Safe.seq s 0) = none ∧
     (match r.2 with
      | .ok cmds ps => !(g cmds ps).1.hostWait && (g cmds ps).2.isSome
      | _ => false) = true) ∧
    (let s : State := { atHead releaseCmd with blks := [(pgSteward 0, { entering := true })] }
     Safe.ready s 0 opRelease releaseCmd ∧ cSigEn releaseCmd = false ∧ pgSteward 0 ∈ cPages releaseCmd ∧
     wakeable s (pgSteward 0) (blk s (pgSteward 0)) = true) ∧
    (let s := atHead (cancelCmd 0)
     Safe.ready s 0 opCancel (cancelCmd 0) ∧ cSigEn (cancelCmd 0) = false ∧ wd (cancelCmd 0) 2 / 2 ^ 50 ≠ 0 ∧
     (getQ s 1).nextSeq.toNat ≤ wd (cancelCmd 0) 2 % 2 ^ 50 ∧ (getQ s 1).cancels.contains 0 = false) ∧
    (let s : State := { atHead (cancelCmd 2) with queues := [(0, fetched [cancelCmd 2]), (1, { nextSeq := 3 })] }
     Safe.ready s 0 opCancel (cancelCmd 2) ∧ cSigEn (cancelCmd 2) = false ∧ 2 < (getQ s 1).nextSeq.toNat ∧ opFind s 1 2 = none ∧
     Safe.seq s 0 + 1 < 2 ^ 50) := by
  unfold Safe.ready Safe.atHead; decide +kernel

/-! ### Witnesses: the queue manager, tidemarks, escalation -/

/-- Job 0 with that queue 1. -/
def withQ1 (q : Queue) : State := { job0 with queues := [(1, q)] }
/-- An enabled ring of 16 slots at 0x20000. -/
def ringQ : Queue := { sizeLog2 := 4, enable := true, cmdBase := 0x20, tail := 14 }
/-- Records fetched as one load, not yet checked. -/
def unchecked (cs : List Rec) : Queue :=
  { sizeLog2 := 4, enable := true, tail := BitVec.ofNat 16 cs.length, fetched := cs, loads := [{ count := cs.length }] }
/-- Queue 1 with a held signal that adds 5 to tidemark 3. -/
def sigState : State := withQ1 { ringQ with nextSeq := 4, sigs := [{ seq := 2, last := 2, own := true, tm := 3, add := true, value := 5 }] }
/-- A COPY of queue 1 in progress under number 1. -/
def copyOp : Op := { queue := 1, seq := 1, job := 0, ring := 0, opcode := 0x10, cmd := copyCmd }

theorem witness_DoorbellsSubmitAndFetchesRead :
    (let s := withQ1 ringQ
     let x := getQ s 1
     s.hostWait = false ∧ fnOk s 0 (fun j => ownsQueue s j 1) = true ∧ jobState s x.job.toNat < 2 ∧
     ((15 : Word32).toNat < ringLen x ∧ (15 : Word32).toNat < 2 ^ 16 ∧ (x.loads.filter (fun l => !l.checked)).length < 64) ∧
     ringLen x ≤ (16 : Word32).toNat) ∧
    (let s : State := { withQ1 { ringQ with head := 13 } with hbm := memSet tables 0x20340 (bytes64 nopCmd) }
     let x := getQ s 1
     let g := nread s x.job.toNat (handleOf 1 (x.nextSeq.toNat + x.fetched.length))
        (x.cmdBase.toNat * 4096 + 64 * ((x.head.toNat + x.fetched.length) % ringLen x)) 64
     s.hostWait = false ∧ queueLive s x = true ∧ x.skipMode = false ∧ x.fetchBad = none ∧
     x.fetched.length < (x.tail.toNat + ringLen x - x.head.toNat % ringLen x) % ringLen x ∧ g.failed = none ∧ g.s.hostWait = false) := by
  decide +kernel

theorem witness_LoadsAreCheckedWhole :
    let found := fun (cs : List Rec) =>
      let s := withQ1 (unchecked cs)
      let x := getQ s 1
      let l : Load := { count := cs.length }
      (queueLive s x = true ∧ x.skipMode = false ∧ x.replay = none ∧ x.loads = [l] ∧ l.checked = false ∧ x.fetched ≠ [] ∧
        l.count ≤ x.fetched.length) ∧ (scanLoad s 1 x.nextSeq.toNat false 0 (x.fetched.take l.count)).1.hostWait = false ∧
      x.nextSeq.toNat - l.gone.length = x.nextSeq.toNat ∧ l.gone ++ x.fetched.take l.count = x.fetched.take l.count
    let ends := fun (cs : List Rec) => (scanLoad (withQ1 (unchecked cs)) 1 0 false 0 cs).2
    (found [command 0 0 0 [], nopCmd] ∧ ends [command 0 0 0 [], nopCmd] = none) ∧
    (found [nopCmd, command 0x3F 0 0 [3, 1]] ∧ (ends [nopCmd, command 0x3F 0 0 [3, 1]]).isSome = true) := by
  refine ⟨⟨?_, ?_⟩, ⟨?_, ?_⟩⟩ <;> decide +kernel

/-- A record of queue 1's command 1 that waits for ring 0, at whose last slot it stands. -/
def pendRec : Pend := { job := 0, ring := 0, words := [2 ^ 50 + 1, 0x1234, 0, 0], op := some (1, 1) }
/-- That record waiting for a ring in host memory. -/
def pendState : State :=
  { job0 with pends := [pendRec], ops := [{ copyOp with phase := .stored }]
              rings := [(0, { sizeLog2 := 4, base := 0x40000, enable := true, writeIdx := 15, readIdx := 1 })] }

theorem witness_SignalsAndRecordsAreReleased :
    (up sigState = true ∧ sigState.hostWait = false ∧ (∃ g ∈ (getQ sigState 1).sigs, sigReady sigState 1 g = true)) ∧
    (∃ g ∈ (getQ sigState 1).sigs, sigReady { sigState with ops := [copyOp] } 1 g = false) ∧
    (let s := pendState
     let r := getRing s 0
     let u := translate s (narReq r.job.toNat (pendRec.words.getD 0 0).toNat) (r.base.toNat * 4096 + 32 * (r.writeIdx.toNat % 2 ^ r.sizeLog2.toNat)) true
     s.hostWait = false ∧ s.jobCmds = [] ∧ (∀ e ∈ s.queues, e.2.resetting = false) ∧ up s = true ∧
     s.pends.find? (fun p => p.ring = 0) = some pendRec ∧ r.enable = true ∧ r.fault = false ∧ ringFull r = false ∧ s.lines = [] ∧
     (∀ o ∈ s.ops, o.job = pendRec.job → o.phase ≠ .ended) ∧ (u.2.any (·.host)) = true ∧ pendRec.words.length = 4 ∧
     (hostTouch u.1 (.narrows r.job.toNat)).hostWait = false ∧
     fnOk s 0 (fun j => ownsRing s j 1) = true ∧ ∀ p ∈ s.pends, p.ring ≠ 1) := by decide +kernel

/-- Queue 0 with that WAIT waiting at its head. -/
def waiting : State := { job0 with queues := [(0, { fetched [waitCmd] with waitKind := 1, waitTm := 3, waitValue := 5 })] }

theorem witness_QueuesStopResumeAndReset :
    (let x := getQ waiting 0
     waiting.hostWait = false ∧ (∀ e ∈ waiting.queues, e.2.paused = false) ∧ up waiting = true ∧ x.stopped = false ∧ x.paused = false ∧
     x.waitKind ≠ 0 ∧ headOf x = some ⟨waitCmd, none, 0xFFFF⟩ ∧ (waitsFor waiting 0 ⟨waitCmd, none, 0xFFFF⟩).isSome = true ∧
     isLong (cOp waitCmd) = false ∧ x.waitMem = false ∧ waitsFor { waiting with tms := [(3, 5)] } 0 ⟨waitCmd, none, 0xFFFF⟩ = none) ∧
    (let s : State := { job0 with queues := [(0, { fetched [startCmd] with waitKind := 2 })], valleys := slot0 { st := .running } }
     up s = true ∧ (getQ s 0).waitKind ≠ 0 ∧ (getQ s 0).waitMem = false ∧ headOf (getQ s 0) = some ⟨startCmd, none, 0xFFFF⟩ ∧
     (waitsFor s 0 ⟨startCmd, none, 0xFFFF⟩).isSome = true ∧ isLong (cOp startCmd) = true ∧ cOp startCmd ≠ opSnap ∧
     opFind s 0 (getQ s 0).nextSeq.toNat = none) ∧
    (∀ b ∈ [[0], []], let s : State := { job0 with queues := [(0, { fetched [cfgCmd] with waitMem := true })], hl := { job0.hl with busMaster := b } }
     up s = true ∧ (getQ s 0).stopped = false ∧ (getQ s 0).waitMem = true ∧ headOf (getQ s 0) = some ⟨cfgCmd, none, 0xFFFF⟩ ∧
     memReady s (getQ s 0).job.toNat = decide (b = [0]) ∧ cOp cfgCmd ≠ opSnap ∧ isLong (cOp cfgCmd) = false) ∧
    (fnOk (withQ1 ringQ) 1 (fun j => ownsQueue (withQ1 ringQ) j 1) = false ∧ fnOk (withQ1 ringQ) 0 (fun j => ownsQueue (withQ1 ringQ) j 1) = true) ∧
    (getQ (withQ1 { ringQ with stopped := true }) 1).stopped = true ∧
    (let x := getQ (withQ1 ringQ) 1
     x.stopped = false ∧ x.resetting = false ∧ x.waitKind = 0 ∧ x.sigs = [] ∧ (∀ o ∈ (withQ1 ringQ).ops, o.queue ≠ 1) ∧
     ∀ e ∈ (withQ1 ringQ).valleys, ∀ m ∈ e.2.inbox, m.queue ≠ 1) := by decide +kernel

theorem witness_TidemarksAreSetReadAndAdded :
    up job0 = true ∧ fnOk job0 0 (fun j => ownsTm job0 j 15) = true ∧ 32 ≠ 64 ∧ fnOk job0 2 (fun j => ownsTm job0 j 15) = false := by
  decide +kernel

/-- An enabled entry with one trip in its window, one short of its limit. -/
def escEntry : Esc := { enable := true, tripLimit := 1, window := 8, history := 2, lastStep := 4 }
/-- Entry 0 of job 0 so, a report for step 5 at the front, and words 0 and 1 staged for a COMMIT. -/
def escState (guard : Bool) (a b : Nat) : State :=
  { withRegs [(pgEsc + 0xA0, a), (pgEsc + 0xA4, b)] job0 with escs := [(escKey 0 0, escEntry)], reports := [⟨0, 0, 5, guard⟩] }

theorem witness_EscalationFollowsReportsAndCommits :
    (up (escState true 1 0) = true ∧ (escState true 1 0).reports = [⟨0, 0, 5, true⟩] ∧ (getEsc (escState true 1 0) 0 0) = escEntry ∧
      escEntry.enable = true ∧ escEntry.lastStep.toNat < 5 ∧ escEntry.toE4m3 = false ∧ escEntry.pin = 0 ∧
      escEntry.tripLimit.toNat ≤ ({ escEntry with history := setBit (escEntry.history <<< (5 - 4)) 0 true } : Esc).trips) ∧
    (escState false 1 0).reports = [⟨0, 0, 5, false⟩] ∧ (getEsc { escState true 1 0 with escs := [] } 0 0).enable = false ∧
    (let s := escState true 1 0
     (escIndex s).2 = (0, true) ∧ ((getEsc s 0 0).staged (rd s (pgEsc + 0xA0)) (rd s (pgEsc + 0xA4))).pin = 0) ∧
    (∀ p ∈ [0, 1, 2], ((getEsc (escState true (p * 2 ^ 29) 0) 0 0).staged (p * 2 ^ 29) 0).refused = false ∧
      ((getEsc (escState true (p * 2 ^ 29) 0) 0 0).staged (p * 2 ^ 29) 0).pin.toNat = p) ∧
    (let s := escState true (3 * 2 ^ 29) 0
     (escIndex s).2.2 = true ∧ ((getEsc s 0 0).staged (rd s (pgEsc + 0xA0)) (rd s (pgEsc + 0xA4))).refused = true) ∧
    (let s := escState true 0x80080900 0x10000
     (escIndex s).2.2 = true ∧ ((getEsc s 0 0).staged (rd s (pgEsc + 0xA0)) (rd s (pgEsc + 0xA4))).refused = true) := by decide +kernel

/-! ### Witnesses: jobs, resets, blocks -/

/-- Job 0's ranges and table, the job free. -/
def freeJob : State := withRegs [(jobCtl 0, 0)] job0

theorem witness_CreateMakesAJobActive :
    (up freeJob = true ∧ freeJob.hostWait = false ∧ freeJob.jobCmds = [] ∧ (∀ e ∈ freeJob.queues, e.2.resetting = false) ∧
      jobState freeJob 0 = 0 ∧ rangeClash freeJob 0 = false ∧ rootBad freeJob 0 = false) ∧ jobState job0 0 ≠ 0 := by decide +kernel

/-- Job 0 without a valley, work left in another job's queue alone. -/
def idleJob : State := { job0 with owners := [], queues := [(1, ringQ), (5, ringQ)], ops := [{ copyOp with queue := 7 }], tms := [(3, 7), (100, 7)] }

theorem witness_ResetAndDestroyClearAJob :
    (up idleJob = true ∧ idleJob.hostWait = false ∧ idleJob.jobCmds = [] ∧ (∀ e ∈ idleJob.queues, e.2.resetting = false ∧ e.2.paused = false) ∧
      jobState idleJob 0 ≠ 0 ∧ ownedValleys idleJob 0 = [] ∧ slOn idleJob 0 = false ∧
      ∀ q ∈ ownedRange idleJob 0 0x90, (∀ o ∈ idleJob.ops, o.queue ≠ q) ∧ (getQ idleJob q).sigs = []) ∧
    jobState idleJob 63 = 0 := by decide +kernel

theorem witness_ValleysAndContextsAreBound :
    let on := withRegs [(seqReg 0 7 0x84, 0x80000000)] job0
    (up job0 = true ∧ job0.hostWait = false ∧ jobState job0 0 = 1 ∧ tget 0 job0.owners 1199 = 0 ∧ valleyBound job0 1199 = false ∧
      tget 0 job0.owners 0 ≠ 0) ∧
    (ownsValley job0 0 0 = true ∧ valleyBound job0 0 = false ∧ present job0 (pgValley 0) = true ∧ job0.starts = [] ∧
      ((getV job0 0).slot 0).task = none ∧ ((getV job0 0).slot 1).task = none) ∧
    ownsValley job0 0 1199 = false ∧
    (rb job0 (seqReg 0 7 0x84) 31 = false ∧ (bitOf (0 : Word32).toNat 31 = true → bindBad job0 0 7 (0 : Word32).toNat = false)) ∧
    (let s := withRegs [(seqReg 0 7 0x88, 0x10000)] job0
     rb s (seqReg 0 7 0x84) 31 = false ∧ bitOf (0x80000001 : Word32).toNat 31 = true ∧ bindBad s 0 7 (0x80000001 : Word32).toNat = false) ∧
    (bitOf (0x8000003F : Word32).toNat 31 = true ∧ bindBad job0 0 7 (0x8000003F : Word32).toNat = true) ∧
    (up on = true ∧ on.hostWait = false ∧ rb on (seqReg 0 7 0x84) 31 = true) := by decide +kernel

theorem witness_DeviceResetsBeginAndEnd :
    (job0.hl.boot = .up ∧ job0.hostWait = false ∧ rb job0 (pgPwr + 0x98) 0 = false ∧ (64 ≠ 0 ∧ vfUp job0 (64 - 1) = false)) ∧
    (let s := withRegs [(pgPwr + 0x98, 1)] job0
     rb s (pgPwr + 0x98) 0 = true ∧ ∀ j ∈ List.range 64, slOn s j = false) ∧
    (({ job0 with devInit := true } : State).devInit = true ∧ lowWater { job0 with devInit := true } = false ∧
      ({ job0 with devInit := true } : State).chans = [] ∧ ({ job0 with devInit := true } : State).flash.holes = []) ∧
    (let s : State := { withRegs [(pgValley 0 + 0x10, 2), (pgValley 0 + 0xC, 0x10011)] job0 with blks := [(pgValley 0, { inReset := true })], releasing := [0] }
     s.devInit = false ∧ pageOf (pgValley 0) = some ⟨.valley, 0⟩ ∧ pgValley 0 % 4096 = 0 ∧ (blk s (pgValley 0)).inReset = true ∧ s.jobCmds = [] ∧
     (∀ e ∈ s.queues, e.2.resetting = false) ∧ s.starts = [] ∧ (∀ e ∈ s.valleys, e.2.inbox = []) ∧ s.berms = [] ∧ s.snaps = [] ∧ s.twyQ = [] ∧
     s.twySigs = [] ∧ s.rounds = [] ∧ s.chans = [] ∧ s.flash.holes = [] ∧ (∀ h ∈ s.holdOps, h.late = []) ∧ (∀ e ∈ s.streams, e.2.input = []) ∧
     holdsWork s ⟨.valley, 0⟩ = false ∧ 0 ∈ s.releasing ∧ ownIsland ⟨.valley, 0⟩ = true) := by decide +kernel

/-- Steward 0 entering the hold for a HOLD of queue 1. -/
def entering : State :=
  { job0 with blks := [(pgSteward 0, { entering := true, wake := true })]
              holdOps := [{ queue := 1, seq := 0, pages := [pgSteward 0], held := 0, unarmed := 0 }] }
/-- Valley 0, or steward 0, in the hold and woken, to return to that STATE. -/
def woken (pg back : Nat) (p : Page) : State :=
  { withRegs [(pg + 0xC, 0x10015)] job0 with
    blks := [(pg, { back := back, wake := true })], cycles := 9, clks := [(islandOf p, .halted 4)] }

theorem witness_BlocksEnterAndLeaveTheHold :
    (up entering = true ∧ entering.hostWait = false ∧ pageOf (pgSteward 0) = some ⟨.steward, 0⟩ ∧ pgSteward 0 % 4096 = 0 ∧
      (blk entering (pgSteward 0)).entering = true ∧ clocked entering (pgSteward 0) = true ∧ quiet entering ⟨.steward, 0⟩ = true ∧
      (blk entering (pgSteward 0)).wake = true ∧ ownIsland ⟨.steward, 0⟩ = true) ∧
    ((blk job0 (pgSteward 0)).entering = false ∧ (blk job0 (pgSteward 0)).wake = false) ∧
    ∀ e ∈ [(pgSteward 0, Page.mk .steward 0), (pgValley 0, ⟨.valley, 0⟩)], ∀ b ∈ [3, 4, 6],
      let s := woken e.1 b e.2
      up s = true ∧ s.hostWait = false ∧ pageOf e.1 = some e.2 ∧ e.1 % 4096 = 0 ∧ held s e.1 = true ∧ (blk s e.1).wake = true ∧
      (blk s e.1).back ∈ [3, 4, 6] ∧ s.starts = [] ∧ (∀ v ∈ s.valleys, v.2.inbox = []) ∧ bermList s e.2.inst = [] ∧ s.snaps = [] ∧
      s.twyQ = [] ∧ s.twySigs = [] ∧ s.rounds = [] ∧ (∀ h ∈ s.holdOps, h.late = []) ∧ (∀ e ∈ s.streams, e.2.input = []) ∧ ownIsland e.2 = true := by decide +kernel

/-- What every clause about sounding asks of a page that is no valley's and of its state. -/
def soundable (s : State) (pg : Nat) (p : Page) : Bool :=
  up s && !s.hostWait && decide (pageOf pg = some p) && pg % 4096 = 0 && present s pg && decide (s.chans = []) && s.flash.holes.isEmpty &&
  decide (s.starts = []) && s.berms.all (fun e => e.2.all (fun u => u.claimed.isEmpty)) &&
  (List.range 8).all (fun h => decide (pgHbm h = pg) || (decide (stateOf s (pgHbm h) ≠ 1) && decide (stateOf s (pgHbm h) ≠ 2)))
/-- A steward being sounded under scope 0, RETIRE_ON_FAIL as given. -/
def sounding (pg retire : Nat) (fromHold : Bool) : State :=
  { withRegs [(pg + 0xC, 0x10012), (pg + 0x30, retire * 16), (pg + 0x34, 1)] job0 with blks := [(pg, { scope := some 0, fromHold := fromHold })] }

theorem witness_SoundingsResetsAndCounts :
    (soundable job0 (pgSteward 0) ⟨.steward, 0⟩ = true ∧ (Page.mk .steward 0).kind ≠ .valley) ∧
    (soundable job0 (pgValley 0) ⟨.valley, 0⟩ = true ∧ ∀ l, ((getV job0 0).slot l).task = none) ∧
    (bitOf (0x15 : Word32).toNat 0 = true ∧ bitsOf (0x15 : Word32).toNat 3 1 ≤ 2) ∧ canSound .steward = true ∧
    stateOf job0 (pgSteward 0) = 3 ∧ stateOf (woken (pgSteward 0) 3 ⟨.steward, 0⟩) (pgSteward 0) = 5 ∧
    (soundable job0 (pgLink 0) ⟨.twyLink, 0⟩ = true ∧ (getLink job0 0).trained = false) ∧
    (soundable job0 pgQm ⟨.qm, 0⟩ = true ∧ canSound .qm = false ∧ canReset .qm = false ∧ canReset .steward = true) ∧
    (∀ b ∈ [true, false], ∀ r ∈ [0, 1],
      soundable (sounding (pgSteward 0) r b) (pgSteward 0) ⟨.steward, 0⟩ = true ∧ (blk (sounding (pgSteward 0) r b) (pgSteward 0)).scope = some 0 ∧
      stateOf (sounding (pgSteward 0) r b) (pgSteward 0) = 2 ∧ (soundReport .steward 0).2 ≠ 0 ∧
      rb (sounding (pgSteward 0) r b) (pgSteward 0 + 0x30) 4 = decide (r = 1)) := by
  refine ⟨?_, ⟨?_, fun l => ?_⟩, ?_⟩
  case refine_3 => simp only [Valley.slot]; split <;> rfl
  all_goals decide +kernel

theorem witness_RegistersAreReadAndWritten :
    up job0 = true ∧ job0.hostWait = false ∧ pageOf pgQm = some ⟨.qm, 0⟩ ∧ pgQm % 4096 = 0 ∧ 4095 < 4096 ∧ job0.hl.d3hot.contains 0 = false ∧
    job0.hl.d3hot.contains 64 = false ∧ present job0 pgQm = true ∧ 16 < 32 ∧ 64 ≠ 0 ∧ 32 ≤ 32 := by decide +kernel

/-- Job 0 with the place of its record set, and the record on or off. -/
def strandReg (on : Nat) : State := withRegs [(slReg 0 0x100, on), (slReg 0 0x108, 0x80000), (slReg 0 0x110, 1)] job0
/-- Its record on, 5,000 bytes staged at byte 100 of a line. -/
def staged : State := { strandReg 0xC0000000 with strands := [(0, { staged := List.replicate 5000 7, place := 100 })] }

theorem witness_StrandlinesAreWritten :
    let k := slReg 0 0x100
    (up (strandReg 0) = true ∧ (strandReg 0).hostWait = false ∧ (∀ h, h < 8 → stateOf (strandReg 0) (pgHbm h) ≠ 1 ∧ stateOf (strandReg 0) (pgHbm h) ≠ 2) ∧
      bitOf (0xC0000000 : Word32).toNat 29 = false ∧ bitOf (0xC0000000 : Word32).toNat 31 = true ∧ slOn (strandReg 0) 0 = false ∧
      0 < rf (strandReg 0) (slReg 0 0x110) 11 0 ∧
      (slResume (wf (wf (strandReg 0) k 31 31 1) k 30 30 (bitsOf (0xC0000000 : Word32).toNat 30 30)) 0).2 = 0) ∧
    slOn job0 63 = false ∧
    (up staged = true ∧ staged.hostWait = false ∧ (∀ h, h < 8 → stateOf staged (pgHbm h) ≠ 1 ∧ stateOf staged (pgHbm h) ≠ 2) ∧
      slOn staged 0 = true ∧ (strand staged 0).dropped = 0 ∧ (strand (slMark staged 0) 0).dropped = 0 ∧
      4096 - (strand staged 0).place % 4096 ≤ (strand staged 0).staged.length) ∧
    (strand job0 0).staged.length < 4096 - (strand job0 0).place % 4096 ∧
    (slBase staged 0 % 64 = 0 ∧ isHbm staged.grade (slBase staged 0) = true ∧ tget false staged.hbmPoison (slBase staged 0 / 64) = false ∧
      tget [] staged.hbmUpset (slBase staged 0 / 64) = []) := by decide +kernel

theorem witness_StewardsReloadAndIntervalsUpdate :
    let pg := pgSteward 11
    let ready : State := { job0 with hl := { job0.hl with updated := true } }
    (job0.hostWait = false ∧ up job0 = true ∧ 11 < 12 ∧ present job0 pg = true ∧ stateOf job0 pg ≠ 1 ∧ stateOf job0 pg ≠ 5 ∧
      job0.hl.updated = false ∧ clocked job0 pg = true ∧ hlOn job0 = true ∧ job0.flash.ckptHours < 24) ∧
    (ready.hostWait = false ∧ up ready = true ∧ present ready pg = true ∧ stateOf ready pg ≠ 1 ∧ stateOf ready pg ≠ 5 ∧
      ready.hl.updated = true ∧ ready.hl.update = none) := by decide +kernel

/-! ### Witnesses: boots, power, clocks -/

/-- The module standing at that point of its boot. -/
def bootAt (b : BootSt) (mainIn : Bool) : State := { job0 with hl := { job0.hl with boot := b, mainIn := mainIn } }
/-- A flash that cannot be read. -/
def badChecks : ImageChecks := ⟨false⟩
/-- Up, running an image, after an accepted update or not. -/
def ran (updated whole : Bool) (running : List Byte) : State :=
  { job0 with flash := { whole := whole }, hl := { job0.hl with updated := updated, running := running } }

theorem witness_BootsEndUpOrInRecovery (sg : signed) :
    (let s : State := { bootable with hl := { bootable.hl with boot := .off } }
     s.hl.boot ≠ .up ∧ s.hl.boot ≠ .starting ∧ imageFail s goodChecks = 0) ∧
    (let s : State := { bootable with hl := { bootable.hl with updated := true } }
     s.hl.boot = .up ∧ s.hl.d3hot.contains 0 = false ∧ s.hl.updated = true ∧ imageFail s goodChecks = 0) ∧
    (bootAt .off false).hl.boot ≠ .up ∧ (bootAt .off false).hl.boot ≠ .starting ∧ imageFail (bootAt .off false) badChecks ≠ 0 ∧
    (bootAt .starting true).hl.boot = .starting ∧ ((bootAt .stopped false).hl.boot = .stopped ∧ (bootAt .stopped false).hl.mainIn = false) ∧
    (bootAt .recovery true).hl.boot = .recovery ∧ (10 ≤ 10 ∧ canModule (ran false true [1]) = true) ∧ 9 < 10 ∧
    ((ran true false []).hl.updated = true ∧ imageFail (ran true false []) goodChecks ≠ 0) ∧
    ((ran false true [1]).hl.updated = false ∧ (ran false true [1]).flash.whole = true ∧ (ran false true [1]).hl.running ≠ [] ∧
      (ran false true [1]).hl.update = none ∧ (ran false true [1]).chans = [] ∧ (ran false true [1]).flash.holes = []) ∧
    ((ran false true []).hl.running = [] ∧ (ran false true []).hl.fail ≠ 9) ∧
    (let s : State := { ran false true [] with hl := { (ran false true []).hl with fail := 9 } }
     s.hl.running = [] ∧ s.hl.fail = 9 ∧ imageFail s badChecks ≠ 0) ∧ (ran false false []).flash.whole = false := by
  refine ⟨⟨by simp, by simp, bootable_imageFail sg _ rfl⟩, ⟨rfl, rfl, rfl, bootable_imageFail sg _ rfl⟩, ?_⟩
  decide +kernel

/-- Temperatures with the hottest compute die at `t`. -/
def temps (t : Nat) : Temps := ⟨[t], [95], 50, 20, 30, false⟩

theorem witness_ControlledStopsLeaveACrashRecord :
    railsUp job0 = true ∧ 60500 < 60501 ∧ 60500 ≤ 60500 ∧ 38000 ≤ 38000 ∧ 38000 < 38001 ∧
    (railsUp { job0 with hl := { job0.hl with downing := true } } = true ∧
      ({ job0 with hl := { job0.hl with downing := true } } : State).hl.downing = true) ∧ job0.hl.downing = false ∧
    110 < ((temps 111).dies.take 12).foldl max 0 := by decide +kernel

theorem witness_LowWaterGovernorAndThermalLimits :
    (railsUp job0 = true ∧ 65535 < 2 ^ 16 ∧ lowWater job0 = false ∧ 42500 ≤ 42500) ∧
    (let s := withRegs [(pgPwr + 0x80, 2 ^ 30)] job0
     railsUp s = true ∧ lowWater s = true ∧ 43500 < 43501) ∧
    (let s : State := { job0 with hl := { job0.hl with overTicks := 9999 } }
     railsUp s = true ∧ budgetNow s < 65535 * 100 ∧ s.hl.overTicks = 9999) ∧
    (¬ budgetNow job0 < 0 * 100 ∧ 0 * 10000 < budgetNow job0 * 97) ∧
    (((temps 101).dies.take 12).foldl max 0 ≤ 110 ∧ (temps 101).io ≤ 110 ∧
      ((temps 101).bases.take job0.grade.stacks).foldl max 0 ≤ 95 ∧ 100 < ((temps 101).dies.take 12).foldl max 0 ∧ job0.hl.thermCap = false) := by
  decide +kernel

theorem witness_ClocksStandbyAndConfigurationAct :
    (job0.hostWait = false ∧ railsUp job0 = true ∧ job0.hl.boot ≠ .clockLost) ∧
    (up job0 = true ∧ job0.snaps = [] ∧ (getLink { job0 with links := [(0, { trained := true })] } 0).trained = true) ∧ job0.hl.mainIn = true ∧
    (job0.hl.boot = .up ∧ job0.hl.numVFs < 1 ∧ 0 ≤ job0.hl.numVFs ∧ job0.hl.numVFs < 2 ^ 16) ∧
    (hlOn { job0 with hl := { job0.hl with mainIn := false, stby := true } } = true ∧
      ({ job0 with hl := { job0.hl with mainIn := false, stby := true } } : State).hl.mainIn = false) ∧
    hlOn (bootAt .off false) = false ∧ (bootAt .starting true).hl.boot = .starting ∧ job0.hl.boot = .up ∧ 64 ≤ 64 := by decide +kernel

/-! ### Witnesses: Estuary and the scale-out ports -/

/-- A REDUCE of bucket 6, step 1, filled at tidemark 9 by value 3, its plan at 0x20000. -/
def rdCmd : Rec := command 0x30 0 0 [0, 0x100000, 16384 + 2 ^ 32 * 6 + 2 ^ 48 * 9, 1 + 2 ^ 32 * 3, 0x20000]
/-- A ring plan of four positions. -/
def ringPlan : Rec := [4 + 7 * 2 ^ 16 + 2 * 2 ^ 32, 0x200000, 3, 0, 0, 0, 0, 0]
/-- A tree plan of four positions in groups of three, seen from position `self`. -/
def treePlan (self : Nat) : Rec := [5 + 7 * 2 ^ 16 + 4 * 2 ^ 32 + BitVec.ofNat 64 self * 2 ^ 48, 0x200000, 3 + 3 * 2 ^ 16, 0, 0, 0, 0, 0]
/-- Every position has an entry. -/
def planEntries : Tbl Rec := (List.range 4).map (fun i => (i, [1, 2, 3, 4, 5, 6, 0, 0]))
/-- A context of that REDUCE. -/
def ctxOf (st : CtxSt) (p : Rec) : Ctx := { st := st, queue := 1, seq := 4, job := 0, cmd := rdCmd, plan := p, entries := planEntries }
/-- Context 3 so, its job enabled, ports 0 and 1 up, tidemark 9 at `tm`. -/
def estuary (c : Ctx) (tm : Nat) : State :=
  { withRegs [(estReg 0 0x88, 0x80000005), (pgEst + 0x80, 0x30051234), (pgPort 0 + 0x80, 0xC0000000), (pgPort 1 + 0x80, 0xC0000000)] job0 with
    ctxs := if c = {} then [] else [(3, c)], tms := [(9, tm)]
    ops := [{ queue := 1, seq := 4, job := 0, ring := 0, opcode := 0x30, cmd := rdCmd }] }
/-- No context, and a REDUCE that waits for one with its plan in HBM. -/
def estFree : State := { estuary {} 5 with estWait := [(1, 4)], hbm := memSet tables 0x20000 (bytes64 ringPlan) }

theorem witness_ContextsAreTakenBeginAndTimeOut_take :
    let s := estFree
    let k : Ctx := { st := .armed, queue := 1, seq := 4, job := 0, cmd := rdCmd }
    let r := setCtx { s with estWait := s.estWait.filter (fun e => !(e.1 = 1 && e.2 = 4)) } 3 k
    let g := vread r (ctxReq k) (rdPlan rdCmd) 64
    (up s = true ∧ clocked s pgEst = true ∧ s.hostWait = false ∧ getCtx s 3 = {} ∧ s.early = [] ∧
      (nextReduce s).map (fun o => (o.queue, o.seq, o.job, o.cmd)) = some (1, 4, 0, rdCmd)) ∧
    g.failed = none ∧ g.s.hostWait = false ∧ planBad s.grade (words64 g.bytes) = false := by decide +kernel

theorem witness_ContextsAreTakenBeginAndTimeOut :
    let ready := fun (s : State) => (up s && clocked s pgEst && !s.hostWait) = true
    (ready (estuary (ctxOf .armed ringPlan) 2) ∧ getCtx (estuary (ctxOf .armed ringPlan) 2) 3 ≠ {} ∧
      opRunning (estuary (ctxOf .armed ringPlan) 2) 1 4 = true ∧ (ctxShort (estuary (ctxOf .armed ringPlan) 2) (ctxOf .armed ringPlan)).isSome = true) ∧
    (ready (estuary (ctxOf .exchanging ringPlan) 3) ∧ (ctxOf .exchanging ringPlan).moving = true ∧
      opRunning (estuary (ctxOf .exchanging ringPlan) 3) 1 4 = true ∧
      (∀ i ∈ (ctxOf .exchanging ringPlan).group, tget [] (ctxOf .exchanging ringPlan).entries i ≠ []) ∧
      ((ctxOf .exchanging ringPlan).awaited.find? (fun e => !((ctxOf .exchanging ringPlan).has e.1 e.2.1 e.2.2.1 e.2.2.2))).isSome = true) ∧
    ((ctxOf .armed ringPlan).moving = false ∧ (ctxOf .exchanging ringPlan).st ≠ .armed) ∧
    (let c := ctxOf .armed (treePlan 0)
     ready (estuary c 3) ∧ ctxShort (estuary c 3) c = none ∧ c.held = [] ∧ pTree c.plan = true ∧ c.leads = true ∧ c.members ≠ [] ∧ c.ownDone = false) ∧
    (let c := ctxOf .armed ringPlan
     ctxShort (estuary c 3) c = none ∧ c.held = []) := by
  decide +kernel

theorem witness_ContextsAreTakenBeginAndTimeOut_start :
    let c : Ctx := { ctxOf .armed ringPlan with cmd := command 0x30 0 0 [0, 0x100000, 8192 + 2 ^ 32 * 6 + 2 ^ 48 * 9, 1 + 2 ^ 32 * 3, 0x20000] }
    let a := ctxBegin (setCtx (estuary c 3) 3 { c with st := .exchanging, held := [] }) 3
    c.st = .armed ∧ ctxShort (estuary c 3) c = none ∧ c.held = [] ∧ a.2 = none ∧ a.1.hostWait = false ∧ (getCtx a.1 3).ownDone = false ∧
    (getCtx a.1 3).st = .exchanging ∧ pTree c.plan = false ∧ c.me < c.n ∧ c.ownDone = false := by decide +kernel

theorem witness_ContextsAreTakenBeginAndTimeOut_member :
    let c : Ctx := { ctxOf .armed (treePlan 1) with cmd := command 0x30 0 0 [0, 0x40000000, 8192 + 2 ^ 32 * 6 + 2 ^ 48 * 9, 1 + 2 ^ 32 * 3, 0x20000] }
    let a := ctxBegin (setCtx (estuary c 3) 3 { c with st := .exchanging, held := [] }) 3
    ctxShort (estuary c 3) c = none ∧ c.held = [] ∧ pTree c.plan = true ∧ c.leads = false ∧ c.written = [] ∧ 0 < c.q ∧ a.2 = none ∧
    a.1.hostWait = false := by decide +kernel

/-- The source of the frames below. -/
def source (fills : Bool) : UdpSrc := ⟨ipAddr 7 8, [1, 2, 3, 4, 5, 6], 49153, fills⟩
/-- A packet of job 5 of the net, bucket 6, step 1, plan 7. -/
def packet (ty pos num hops len psn : Nat) : List Byte :=
  ({ ty := ty, copy := 0, netJob := 5, bucket := 6, srcPos := pos, step := 1, off := num * 8192, psn := psn, len := len, planId := 7, hops := hops,
     crc := 5 } : Louber).bytes ++ List.replicate len 0x3F
/-- That REDUCE of a bucket of four packets in host memory. -/
def rdAdd : Rec := command 0x30 0 0 [0, 0x40000000, 32768 + 2 ^ 32 * 6 + 2 ^ 48 * 9, 1 + 2 ^ 32 * 3, 0x20000]
/-- What every clause about data packets asks: port 1 takes the packet, which is good, and context 3 is the one it is for. -/
def arrives (s : State) (ty : Nat) (p : List Byte) : Bool :=
  let h := louberOf p
  let j := louberJob s h
  !s.hostWait && portTakes s 1 && clocked s pgEst && !louberBad s p && decide (h.ty = ty) && decide (ctxFor s j h = some 3)
/-- And it is of the plan and expected. -/
def fits (s : State) (p : List Byte) : Bool :=
  decide ((louberOf p).planId = pPlanId (getCtx s 3).plan) && (getCtx s 3).expects (louberOf p)
/-- And the next of its flow, or ahead. -/
def comes (s : State) (p : List Byte) : Arrival :=
  arrival (rxFlow s (louberJob s (louberOf p)) (source true).port (source true).ip).expect (louberOf p).psn

theorem witness_DataPacketsReachTheirContext :
    (Instr.scatter 1 (source true) (packet 1 1 1 1 64 0), 1) ∈ [(Instr.scatter 1 (source true) (packet 1 1 1 1 64 0), 1)] ∧
    (let s := estuary (ctxOf .armed ringPlan) 2
     arrives s 1 (packet 1 1 1 1 64 0) = true ∧ fits s (packet 1 1 1 1 64 0) = true ∧ comes s (packet 1 1 1 1 64 0) = .next ∧
     (getCtx s 3).st = .armed) ∧
    (let s := estuary (ctxOf .exchanging ringPlan) 3
     arrives s 2 (packet 2 1 0 2 64 0) = true ∧ fits s (packet 2 1 0 2 64 0) = true ∧ comes s (packet 2 1 0 2 64 0) = .next ∧
     (getCtx s 3).moving = true ∧ (getCtx s 3).seen = [] ∧ (ctxOf .exchanging ringPlan).gatherRound 0 + 2 = (ctxOf .exchanging ringPlan).n ∧
     comes s (packet 2 1 0 2 64 9) = .ahead ∧ arrives s 2 (packet 2 1 0 3 64 0) = true ∧ fits s (packet 2 1 0 3 64 0) = false ∧
     (let p := packet 2 1 0 2 64 0
      let f := rxFlow s (louberJob s (louberOf p)) (source true).port (source true).ip
      let h := louberOf p
      let u := setCtx (rxAccept (louberIn s 1 (source true)) f 1 (source true).mac p) 3
        { getCtx s 3 with seen := (getCtx s 3).seen ++ [⟨h.ty, h.srcPos, h.copy, 0, h.hops, h.crc⟩] }
      let w := vwrite u (ctxReq (getCtx s 3)) (pResult (getCtx s 3).plan + 8192 * 0) (wordBytes (wordsOf (payload p)))
      w.fault = none ∧ w.s.hostWait = false)) ∧
    (let s := estuary (ctxOf .exchanging (treePlan 1)) 3
     arrives s 4 (packet 4 0 0 4 32 0) = true ∧ fits s (packet 4 0 0 4 32 0) = true ∧ (getCtx s 3).leads = false ∧
     pTree (getCtx s 3).plan = true) ∧
    (let s := estuary { ctxOf .exchanging (treePlan 0) with sums := [(0, { words := [1, 2, 3], members := 0 })] } 3
     arrives s 3 (packet 3 1 0 1 32 0) = true ∧ fits s (packet 3 1 0 1 32 0) = true ∧ (louberOf (packet 3 1 0 1 32 0)).hops = 1 ∧
     (getCtx s 3).ownDone = false ∧ (getSum (getCtx s 3) 0).words ≠ [] ∧ (getSum (getCtx s 3) 0).members + 1 < (getCtx s 3).members.length) := by
  decide +kernel

/-- The exchanging context of that REDUCE in a ring of `n`. -/
def addState (n : Nat) : State :=
  estuary { ctxOf .exchanging ([4 + 7 * 2 ^ 16 + BitVec.ofNat 64 n * 2 ^ 32, 0x200000, 3, 0, 0, 0, 0, 0]) with cmd := rdAdd } 3

/-- What the clauses about an arriving SCATTER segment ask, of packet `e.1` in a ring of `e.2`. -/
def adds (e : Nat × Nat) : Bool :=
      let s := addState e.2
      let p := packet 1 (e.2 - 1) e.1 1 64 0
      let c := getCtx s 3
      let f := rxFlow s (louberJob s (louberOf p)) (source true).port (source true).ip
      let h := louberOf p
      let k : Ctx := { c with seen := c.seen ++ [⟨h.ty, h.srcPos, h.copy, e.1, h.hops, h.crc⟩] }
      let o := ownPart (setCtx (rxAccept (louberIn s 1 (source true)) f 1 (source true).mac p) 3 k) 3 e.1
      arrives s 1 p && fits s p && decide (comes s p = .next) && decide (c.st = .exchanging) && c.seen.isEmpty && !pTree c.plan && !c.ownDone &&
      decide (c.scatterRound e.1 = 0) && decide (c.n = e.2) &&
      (match o.2 with
       | .ok own =>
         let sum := wordBytes (addWords (wordsOf (payload p)) own)
         let w := vwrite o.1 (ctxReq c) (pResult c.plan + 8192 * e.1) sum
         let r := ctxEntry (setCtx w.s 3 (getCtx o.1 3)) 3 c.succ
         decide (w.fault = none) && (match r.2 with | .ok _ => true | _ => false) && !r.1.hostWait && !estTwin r.1 c.job
       | _ => false)

theorem witness_DataPacketsReachTheirContext_add : adds (3, 4) = true ∧ adds (2, 2) = true ∧ 0 + 2 < 4 ∧ 0 + 2 = 2 := by
  decide +kernel

/-- An exchanging context, a flow to send with four packets unacknowledged and one received with two owed. -/
def flows : State :=
  { estuary (ctxOf .exchanging ringPlan) 3 with
    txFlows := [{ job := 0, port := 1, ip := ipAddr 7 8, next := 5,
                  unacked := (List.range 4).map (fun k => (⟨k, ipAddr 7 8, [1, 2, 3, 4, 5, 6], 3, packet 1 0 k 1 8 k, true⟩ : TxPkt)) }]
    rxFlows := [{ job := 0, srcPort := 49153, srcIp := ipAddr 7 8, port := 1, expect := 3, unacked := 2, last := (packet 1 1 0 1 8 2).take 32,
                  srcMac := [9, 9] }] }

theorem witness_FlowsAreAcknowledgedAndResent :
    (up flows = true ∧ clocked flows pgEst = true ∧ flows.hostWait = false ∧ portTakes flows 1 = true ∧ louberBad flows (packet 5 1 0 0 0 1) = false ∧
      (louberOf (packet 5 1 0 0 0 1)).ty = 5 ∧ (let h := louberOf (packet 5 1 0 0 0 1)
        ctxFor flows (louberJob flows h) h = some 3 ∧ h.planId = pPlanId (getCtx flows 3).plan)) ∧
    (let s : State := { flows with ctxs := [(3, ctxOf .exchanging ((4 + 8 * 2 ^ 16 + 2 * 2 ^ 32 : Word64) :: ringPlan.drop 1))] }
     let h := louberOf (packet 5 1 0 0 0 1)
     ctxFor s (louberJob s h) h = some 3 ∧ h.planId ≠ pPlanId (getCtx s 3).plan) ∧
    (∃ f ∈ flows.rxFlows, rxIs 0 49153 (ipAddr 7 8) f = true ∧ portSends flows f.port = true ∧
      portSends { flows with paused := [1] } f.port = false) ∧
    (∃ f ∈ flows.rxFlows, rxIs 0 49153 (ipAddr 7 8) f = true ∧ f.unacked ≠ 0) ∧ (flows.rxFlows.find? (rxIs 0 49153 (ipAddr 7 9)) = none) ∧
    (portSends flows 1 = true ∧ (flows.txFlows.find? (flowIs 0 1 (ipAddr 7 8))).isSome = true) ∧
    (∀ pos ∈ [0, 1], (let p := packet 6 pos 0 0 0 3
      let h := louberOf p
      louberBad flows p = false ∧ h.ty = 6 ∧ ctxFor flows (louberJob flows h) h = some 3 ∧ h.planId = pPlanId (getCtx flows 3).plan ∧
      comes flows p = .next)) ∧
    (1 ∈ (getCtx flows 3).group ∧ opRunning flows 1 4 = true) ∧ 0 ∉ (getCtx flows 3).group := by decide +kernel

theorem witness_PortsPauseDropAndTrain :
    (up flows = true ∧ flows.hostWait = false ∧ portTakes flows 1 = true ∧ 3 = estPrio flows ∧ 4 ≠ estPrio flows ∧ FrameKind.other ≠ .badFcs ∧
      linkUp flows 1 = true) ∧
    (clocked flows (pgPort 15) = true ∧ 15 < 16 ∧ 2 ≤ 2 ∧ rb flows (pgPort 15 + 0x80) 31 ≠ decide (2 = 2) ∧ breakout flows 15 = false ∧
      breakout (withRegs [(pgPort 15 + 0x80, 2 ^ 28)] flows) 15 = true) ∧
    (clocked flows pgEst = true ∧ jobInCtx flows 0 = true ∧ jobInCtx flows 63 = false ∧ estJobBad flows 63 (0x80000007 : Word32).toNat = false ∧
      estJobBad flows 63 (7 : Word32).toNat = false ∧ bitOf (0x80000007 : Word32).toNat 31 = true ∧ bitOf (7 : Word32).toNat 31 = false ∧
      estEnabled flows 63 = false) := by decide +kernel

/-! ### Witnesses: Tideway, snapshots -/

/-- Tideway in that STATE, link 0 trained with the number 2^32 - 1 expected, steward 1 in the hold to be woken by the partner. -/
def tideway (st : Nat) : State :=
  { withRegs [(pgTwy + 0xC, 0x10010 + st), (pgLink 0 + 0xC, 0x10013), (pgLink 1 + 0xC, 0x10013), (pgTwy + 0x94, 12), (twyReg 0 0x8C, 0x302),
      (twyReg 0 0x90, 0x80007), (pgSteward 1 + 0xC, 0x10015), (pgSteward 1 + 0x10, 0x43)] job0 with
    links := [(0, { trained := true, serial := 5, txNext := 4, rxNext := 2 ^ 32 - 1 })], tms := [(7, 3), (12, 2 ^ 64 - 1)] }
/-- A flit under number 2^32 - 1 that acknowledges up to `ack`. -/
def flit (f : Flit) (ack : Nat) : List Byte := flitBytes f (2 ^ 32 - 1) ack

theorem witness_FlitsFromThePartnerLand :
    (∀ st ∈ [3, 4, 5], let s := tideway st
      up s = true ∧ s.hostWait = false ∧ (getLink s 0).trained = true ∧ clocked s pgTwy = decide (st ≠ 5) ∧ (getLink s 0).unacked = [] ∧ s.twyQ = [] ∧
      s.twySigs = [] ∧ s.snaps = [] ∧ s.rounds = []) ∧
    flitGood (listSet (flit { ty := 4 } 4) 9 7) = false ∧
    (∀ t ∈ [3, 4, 5, 6, 7], flitGood (flit { ty := t } 4) = true ∧ flitTy (flit { ty := t } 4) = t ∧
      flitField (flit { ty := t } 4) 4 4 = (getLink (tideway 3) 0).rxNext) ∧
    flitField (flitBytes { ty := 4 } (2 ^ 32 - 2) 4) 4 4 ≠ (getLink (tideway 3) 0).rxNext ∧
    (∀ w ∈ [0, 1], flitField (flit { ty := 3, which := w } 4) 2 1 = w) ∧ partnerUp (tideway 3) = false ∧
    partnerUp (withRegs [(pgTwy + 0x80, 0x80000000)] (tideway 3)) = true := by decide +kernel

/-- A WRITE flit of 4,096 bytes to that address. -/
def writeFlit (dest : Nat) : Flit := { ty := 2, job := 0, dest := dest, body := List.replicate 4096 7 }

theorem writeFlit_body (dest : Nat) : (writeFlit dest).body.length = flitBody (writeFlit dest).ty := by
  simp [writeFlit, flitBody, -List.reduceReplicate]

theorem witness_FlitsFromThePartnerLand_write (dest : Nat) :
    flitGood (flit (writeFlit dest) 4) = true ∧ flitTy (flit (writeFlit dest) 4) = (writeFlit dest).ty ∧
    flitField (flit (writeFlit dest) 4) 4 4 = (getLink (tideway 3) 0).rxNext := by
  refine ⟨flitGood_flitBytes _ _ _ (by decide : 1 ≤ 2) (by decide : 2 ≤ 7) (writeFlit_body dest), flitTy_flitBytes _ _ _ (by decide : 2 ≤ 7), ?_⟩
  rw [flit, flitField_flitBytes _ _ _ 4 4 (by decide)]
  simp [flitHead, leBytes, leNat]
  decide +kernel

theorem witness_FlitsFromThePartnerLand_lands :
    (vwrite (setLink (tideway 3) 0 (getLink (tideway 3) 0)) (twyReq 0 0) (2 ^ 30) (List.replicate 4096 7)).s.hostWait = false := by
  decide +kernel

theorem witness_FlitsFromThePartnerLand_refused :
    (vwrite (setLink (tideway 3) 0 (getLink (tideway 3) 0)) (twyReq 0 0) (2 ^ 50) (List.replicate 4096 7)).s.hostWait = false := by
  decide +kernel

/-- Link 0 with those flits not acknowledged and a mirror round of job 0 in progress. -/
def unacked (un : List (Nat × Flit)) : State :=
  { tideway 3 with links := [(0, { trained := true, serial := 5, txNext := 2, rxNext := 9, unacked := un })], rounds := [(0, some { value := 5 })] }
/-- The last WRITE before the numbers wrap, of the round's entry 3, and a WAKE after it. -/
def writeAndWake : List (Nat × Flit) := [(2 ^ 32 - 1, { ty := 2, dest := 0x1000, entry := 3 }), (0, { ty := 4 })]

theorem witness_FlitsAreAcknowledgedAndReplayed :
    (let s := unacked writeAndWake
     up s = true ∧ s.hostWait = false ∧ (getLink s 0).trained = true ∧ clocked s pgTwy = true ∧ s.twyQ = [] ∧ s.twySigs = [] ∧ s.snaps = [] ∧
     (∀ e ∈ (getLink s 0).unacked, e.2.ty = 3 → ¬ arrival e.1 (flitField (flit { ty := 6 } 0) 8 4) = .ahead) ∧
     (∀ t ∈ [6, 7], flitGood (flit { ty := t } 0) = true ∧ flitTy (flit { ty := t } 0) = t) ∧
     ((getLink s 0).unacked.find? (fun e => e.1 = 2 ^ 32 - 1 && e.2.ty = 2)).map (fun e => (e.2.image, e.2.owner)) = some (false, 0) ∧
     (getRound s 0).map (·.failed) = some false) ∧
    (let f : Flit := { ty := 3, dest := 5 }
     let s := unacked [(1, f)]
     up s = true ∧ clocked s pgTwy = true ∧ flitGood (flit { ty := 6 } 2) = true ∧ flitTy (flit { ty := 6 } 2) = 6 ∧
     (getLink s 0).unacked = [(1, f)] ∧ arrival 1 (flitField (flit { ty := 6 } 2) 8 4) = .ahead ∧ f.ty = 3 ∧ f.which = 0 ∧
     (getRound s f.owner).map (fun r => (r.failed, r.lost)) = some (false, false) ∧
     tmGet s (rf s (twyReg f.owner 0x90) 12 0) % 2 ^ 32 ≤ 5 % 2 ^ 32) := by decide +kernel

/-- No link trained, but for link 0 where given. -/
def untrained (l : Tbl Link) : State := { tideway 3 with links := l }
/-- A TRAIN flit of pair 3 with that role in bit 2, of module 77. -/
def trainFlit (r : Nat) : List Byte :=
  flitBytes { ty := 1, body := [BitVec.ofNat 8 (3 + 4 * r), 0] ++ leBytes 6 0 ++ leBytes 8 77 ++ List.replicate 48 0 } 0 0

theorem witness_LinksTrainSendAndGoDown :
    (let s := unacked writeAndWake
     up s = true ∧ s.hostWait = false ∧ 0 < 2 ∧ clocked s pgTwy = true ∧ (getLink s 0).trained = true ∧ (getLink s (1 - 0)).trained = false ∧
     s.snaps = [] ∧ clocked s (pgLink 0) = true) ∧
    (let s := untrained []
     up s = true ∧ s.hostWait = false ∧ 1 < 2 ∧ clocked s pgTwy = true ∧ (getLink s 1).trained = false ∧ (getLink s 1).heard = false ∧ clocked s (pgLink 1) = true ∧ s.twyQ = [] ∧
     s.twySigs = [] ∧ s.snaps = [] ∧
     (∀ r ∈ [0, 1], flitGood (trainFlit r) = true ∧ flitTy (trainFlit r) = 1 ∧ flitField (trainFlit r) 32 1 % 4 = pairId s ∧
       (flitField (trainFlit r) 32 1 / 4 % 2 ≠ b2n s.flash.role ↔ r = 1)) ∧
     (getLink s (1 - 1)).trained = false) ∧
    (getLink (untrained [(1, { heard := true })]) 1).heard = true ∧
    (∀ n ∈ [77, 78], let s := untrained [(0, { trained := true, serial := n })]
     (getLink s (1 - 1)).trained = true ∧ ((getLink s (1 - 1)).serial = flitField (trainFlit 1) 40 8 ↔ n = 77)) := by decide +kernel

/-- Job 0 in mirror mode with a list of `n` entries, its reserved words at `bad`, and both links down. -/
def mirror (n bad : Nat) (es : List (List Nat)) (r : Option Round) : State :=
  { withRegs [(pgTwy + 0x80, 0x80000000), (twyReg 0 0x98, 0x30000)] (tideway 3) with
    hbm := memSet tables 0x30000 (leBytes 8 n ++ leBytes 8 bad ++ List.replicate 48 0 ++ es.flatten.flatMap (leBytes 8)), links := []
    rounds := match r with | some r => [(0, some r)] | none => [] }

theorem witness_MirrorRoundsAndThePartner :
    (let s := mirror 1 0 [[0, 0x1000, 0x1000, 0]] none
     let h := vread s (twyReq 0 0) (rd64 s (twyReg 0 0x98)) 64
     let b := vread h.s (twyReq 0 0) (rd64 s (twyReg 0 0x98) + 64) (32 * 1)
     let c := mirrorCopy 0 (partnerJob s 0) 0 [(words64 b.bytes).take 4] b.s
     up s = true ∧ s.hostWait = false ∧ getRound s 0 = none ∧ tmGet s (rf s (twyReg 0 0x90) 12 0) % 2 ^ 32 = 3 ∧ rd s (twyReg 0 0xA0) < 3 ∧
     mirrorReady s 0 = true ∧ h.failed = none ∧ wf' (words64 h.bytes) 0 15 0 = 1 ∧ wf' (words64 h.bytes) 0 63 16 = 0 ∧
     (∀ w ∈ ((words64 h.bytes).drop 1).map (·.toNat), w = 0) ∧ b.failed = none ∧ mirrorEntryBad ((words64 b.bytes).take 4) = false ∧ c.2 = none ∧
     c.1.hostWait = false ∧ nextLink c.1 = none ∧ s.snaps = []) ∧
    (let s := mirror 4097 0 [] (some { value := 9, failed := true })
     let h := vread s (twyReq 0 0) (rd64 s (twyReg 0 0x98)) 64
     up s = true ∧ s.hostWait = false ∧ (getRound s 0).map (fun r => (r.failed, r.value)) = some (true, 9) ∧ mirrorReady s 0 = true ∧
     4096 < wf' (words64 h.bytes) 0 15 0 ∧ h.s.hostWait = false) ∧
    (mirrorReady (withRegs [(pgTwy + 0x80, 0)] (mirror 0 0 [] none)) 0 = false ∧
      clocked (withRegs [(pgTwy + 0x80, 0)] (mirror 0 0 [] none)) pgTwy = true) := by decide +kernel

theorem witness_PartnerIsLostAndWoken :
    (up (tideway 3) = true ∧ (tideway 3).hostWait = false ∧ partnerUp (tideway 3) = false ∧ clocked (tideway 3) pgTwy = true ∧
      (tideway 3).twyQ = [] ∧ (tideway 3).twySigs = [] ∧ (tideway 3).snaps = [] ∧ nextLink (tideway 3) = some 0 ∧ (blk (tideway 3) pgTwy).entering = false) ∧
    (let s := mirror 0 0 [] (some { value := 9 })
     up s = true ∧ partnerUp s = true ∧ (∀ x ∈ s.snaps, x.phase = .waiting) ∧ (getRound s 0).isSome = true ∧ nextLink s = none) := by decide +kernel

/-- A SNAP to the job's own memory (0) or to the partner (2), its list at 0x30000. -/
def snapAt (place : Nat) : Rec := command 0x32 0 0 [place, 0x100000, 0x30000]
/-- The SNAP of queue 1 as Tideway holds it. -/
def snapJob : SnapJob := { queue := 1, seq := 4, job := 0 }
/-- Its long command. -/
def snapOp (place : Nat) : Op := { queue := 1, seq := 4, job := 0, ring := 0, opcode := 0x32, cmd := snapAt place }
/-- A list of the tidemark part and one entry of KIND `k`. -/
def snapList (k : Nat) : List Byte := [0x10002, 0, 0, 0, 0, 0, 0, 0, k, 0x2000, 64, 0].flatMap (leBytes 8)
/-- That SNAP at Tideway, the partner up or down. -/
def snapping (place k partner : Nat) : State :=
  { withRegs [(pgTwy + 0xC, 0x10013), (pgTwy + 0x80, partner * 2 ^ 31), (twyReg 0 0x8C, 0x302)] job0 with
    queues := [(1, { enable := true, pausedBy := [(1, 4)] })], snaps := [snapJob], ops := [snapOp place], tms := [(3, 9)]
    hbm := memSet tables 0x30000 (snapList k) }

theorem witness_SnapshotsAreWrittenAndRestored_snap :
    (∀ e ∈ [(0, 1, 1), (0, 7, 1), (2, 1, 0), (2, 1, 1)], let s := snapping e.1 e.2.1 e.2.2
      (up s && !s.hostWait) = true ∧ s.snaps.find? (fun y => y.queue = 1 && y.seq = 4) = some snapJob ∧ snapJob.phase = .waiting ∧
      opFind s 1 4 = some (snapOp e.1) ∧ (snapOp e.1).phase = .running) ∧
    snPartner (snapAt 0) = false ∧ snPartner (snapAt 2) = true ∧ (working (snapping 2 1 0) pgTwy = true ∧ clocked (snapping 2 1 0) pgTwy = true) ∧
    partnerUp (snapping 2 1 0) = false ∧ partnerUp (snapping 2 1 1) = true ∧ twyMode (snapping 2 1 1) 0 ≠ 0 := by decide +kernel

/-- A 64-byte image header with those words, and an image of the tidemark part behind it, in HBM at 0x40000. -/
def restoring (ctrl ver len : Nat) : State :=
  { withRegs [(pgTwy + 0xC, 0x10013), (pgTwy + 0xB0, 0x40000), (rsKey, ctrl)] job0 with
    hbm := memSet (memSet tables 0x30000 (snapList 1)) 0x40000
      (([ver + 0x20000, 1, len, 0, 0, 0x30000, 0, 0] ++ (List.range 64).map (· + 7)).flatMap (leBytes 8)) }

/-- What `rsImage` finds is an image of version 1, not exported, of the length its list gives. -/
def restorable (s : State) : Bool :=
  let m := rsImage s 0 (rd64 s (pgTwy + 0xB0))
  match m.2 with
  | .ok (h, es) => !m.1.hostWait && decide (wf' h 0 7 0 = 1) && !bitOf (wd h 0) 8 && decide (wd h 2 = imageLen m.1 0 (wf' h 0 21 16) es)
  | .error _ => false

theorem witness_SnapshotsAreWrittenAndRestored_restore :
    (let s := restoring 0 1 256
     let u := wr s rsKey (rd s rsKey % 2 ^ 31 / 2 ^ 28 * 2 ^ 28 + ((0x80000102 : Word32).toNat &&& 0x3F013F))
     up s = true ∧ s.hostWait = false ∧ clocked s pgTwy = true ∧ bitOf (0x80000102 : Word32).toNat 31 = true ∧ rf s rsKey 30 28 ≠ 1 ∧
     bitsOf (0x80000102 : Word32).toNat 21 16 = 0 ∧ rsBusy u 0 = false ∧ restorable u = true) ∧
    rsBusy { restoring 0x102 1 256 with queues := [(1, { enable := true })] } 0 = true ∧
    (let s := restoring 0x10000002 1 192
     rf s rsKey 30 28 = 1 ∧ rf s rsKey 21 16 = 0 ∧ restorable s = true ∧ rb s rsKey 8 = false) ∧
    15 < rf job0 (bk (pgJob + 0x94) 0) 30 16 := by decide +kernel

/-! ### Witnesses: Flood and Ebb engines -/

/-- A descriptor of runs of `len` bytes at 0x1000 over one core, MODE, COUNT1 and COUNT2, and word 7. -/
def descr (mode len c1 c2 w7 : Nat) : Rec :=
  ([0x1000 + mode * 2 ^ 56, len + c1 * 2 ^ 24 + c2 * 2 ^ 40, 1 + 2 ^ 16, 64, 0, if mode = 1 then 0 else 2 ^ 21, 0, w7]).map (BitVec.ofNat 64)
/-- The COPY of queue 1, two descriptors long, with those taken up. -/
def copyJob (l : List DescSt) : CopyJob := { queue := 1, seq := 4, job := 0, list := 0x20000, count := 2, next := l.length, active := l }
/-- A descriptor taken up. -/
def taken (d : Rec) (opened : Bool) (issued : Nat) : DescSt := { idx := 0, d := d, opened := opened, issued := issued }
/-- Its long command. -/
def copyRun : Op := { queue := 1, seq := 4, job := 0, ring := 0, opcode := 0x10, cmd := command 0x10 0 0 [0x12, 0x20000, 1] }
/-- Stream 2 of an engine so, its descriptor list and its data in HBM. -/
def streaming (e : Eng) (x : Stream) (d : Rec) : State :=
  { job0 with streams := [(streamKey e 2, x)], ops := [copyRun], hbm := memSet (memSet tables 0x20000 (bytes64 d)) 0x1000 (List.replicate 64 9)
              sram := (List.range 40).map (fun i => (i, 7)) }
/-- Flood and Ebb engine 0. -/
def flood0 : Eng := ⟨.flood, 0⟩
def ebb0 : Eng := ⟨.ebb, 0⟩

theorem witness_DescriptorsAreReadAndRunsIssued :
    (let s := streaming flood0 { copies := [copyJob []], acks := [3] } []
     s.hostWait = false ∧ streamWaits s (getStream s flood0 2) = true) ∧
    (∀ e ∈ [flood0, ebb0], ∀ d ∈ [descr 0 32 2 1 0xE000, descr 0 32 0 1 0],
      let s := streaming e { copies := [copyJob []] } (if e = ebb0 then descr 0 32 (if d = descr 0 32 0 1 0 then 0 else 2) 1 0x6000 else d)
      let x := getStream s e 2
      let g := nread s 0 (handleOf 1 4) 0x20000 64
      (s.hostWait = false ∧ x.reads = some (copyJob []) ∧ (∀ k ∈ x.copies, k = copyJob []) ∧ engIssue s e = true ∧ streamWaits s x = false ∧
        x.ahead.length < 64 ∧ (x.copies.flatMap (·.active)).isEmpty = true) ∧
      (g.failed = none ∧ g.s.hostWait = false ∧ descBad (decide (e.kind = .ebb)) (words64 g.bytes) = decide (d = descr 0 32 0 1 0) ∧
        descForeign g.s 0 (words64 g.bytes) = false ∧ descAbsent g.s (words64 g.bytes) = false ∧ opRunning g.s 1 4 = true ∧ x.flight = [] ∧
        (∀ k ∈ x.copies, k.ending = none))) ∧
    (let s := streaming flood0 { copies := [copyJob [taken (descr 0 32 2 1 0) true 0]] } []
     let x := getStream s flood0 2
     engIssue s flood0 = true ∧ streamWaits s x = false ∧ x.nextRun.map (fun p => p.2.idx) = some 0 ∧ stageRoom s flood0 x 32 = true ∧
     runTurn s flood0 2 = true ∧ runTurn s flood0 3 = false) := by decide +kernel

/-- A Flood stream of epoch 3 with one run's read in flight, sent under `epoch`, its gate open or not. -/
def inFlight (epoch : BitVec 8) (opened : Bool) : State :=
  streaming flood0 { epoch := 3, copies := [copyJob [taken (descr 0 32 2 1 0x2003) opened 1]], flight := [⟨epoch, 4, 1, 0, 0, 0x1000, 32⟩] } []

theorem witness_RunsAreStagedAndWritten :
    (∀ e ∈ [2, 3], ∀ b ∈ [false, true],
      let s := inFlight (BitVec.ofNat 8 e) b
      let x := getStream s flood0 2
      let g := vread (setStream s flood0 2 { x with flight := [] }) (engReq flood0 (copyJob [])) 0x1000 32
      let w := floodWrite g.s (engReq flood0 (copyJob [])) (descr 0 32 2 1 0x2003) { run := 0, bytes := g.bytes, poison := [false] } []
      (s.hostWait = false ∧ engRun s flood0 = true ∧ x.flight.length = 1 ∧ x.due = none ∧ (∀ k ∈ x.copies, k.ending = none) ∧
        (x.copies.map (fun c => (c.queue, c.seq, c.active.map (·.idx)))) = [(1, 4, [0])] ∧ opFind s 1 4 = some copyRun ∧ copyRun.cmd ≠ [] ∧
        slOn s 0 = false ∧ g.s.hostWait = false ∧ g.fault = none ∧ g.bad.any id = false) ∧ w.2.1 = true) ∧
    (let d := descr 0 32 2 1 0
     let s := streaming ebb0 { copies := [copyJob [taken d true 0]] } []
     let x := getStream s ebb0 2
     let g := ebbFetch s ebb0 [] d 0
     (s.hostWait = false ∧ engIssue s ebb0 = true ∧ streamWaits s x = false ∧ runTurn s ebb0 2 = true ∧ x.copies = [copyJob [taken d true 0]] ∧
       dMode d = 0 ∧ 0 < dRuns d ∧ (runCores d 0).head? = some (0, 0)) ∧
     (g.bad.any id = false ∧ (logical s 0 0).isSome = true)) ∧
    (let s := inFlight 3 false
     let x := getStream s flood0 2
     (x.gated s).isSome = true ∧ engIssue s flood0 = true ∧ streamKept s x = false) ∧
    (getStream (inFlight 3 true) flood0 2).gated (inFlight 3 true) = none := by decide +kernel

theorem witness_RunsAreStagedAndWritten_ebb :
    let d := descr 0 32 2 1 0
    let s := streaming ebb0 { copies := [copyJob [taken d true 0]] } []
    let s' : State := { s with engTurn := tput 4095 s.engTurn (streamKey ebb0 0 / 4096) 2 }
    let g := ebbFetch s' ebb0 [] d 0
    let w := vwrite (carry g.s (.core ((logical s 0 0).getD 0)) [memPlace g.s (engReq ebb0 (copyJob [])) (runAddr d 0).toNat] g.bytes.length) (engReq ebb0 (copyJob []))
      (runAddr d 0).toNat (slice g.bytes 0 (dLen d))
    w.fault = none ∧ w.dropped = false ∧ w.s.hostWait = false := by decide +kernel

/-- A hand-off unit from valley `v`, with a header word or without. -/
def handUnit (v : Nat) (h : Option Nat) : HandUnit :=
  { valley := v, core := 0, lslot := 0, stack := 0, stream := 2, row := 0, elem := 8, size2 := 4, data := [some 1, none, some 3, some 4], header := h
    queue := 5, seq := 6 }
/-- An Ebb hand-off stream that the unit `u` waits for, `k` units taken. -/
def handing (u : HandUnit) (k : Nat) : State :=
  { streaming ebb0 { copies := [{ copyJob [{ taken (descr 1 8 2 2 0) true 0 with units := k }] with next := 1 }] } [] with handoffs := [u] }

theorem witness_DescriptorsAndCopiesComplete :
    (let s := streaming flood0 { copies := [copyJob [{ taken (descr 0 32 2 1 0x4000) true 2 with written := 2 }]] } []
     let x := getStream s flood0 2
     s.hostWait = false ∧ engRun s flood0 = true ∧ (x.copies.find? (fun c => c.ending.isNone && !c.active.isEmpty)).isSome = true ∧
     (∀ c ∈ x.copies, ∀ d ∈ c.active, d.full = true ∧ d.host = []) ∧ streamKept s x = false) ∧
    (let c : CopyJob := { copyJob [] with next := 2 }
     let s := streaming flood0 { copies := [c] } []
     engRun s flood0 = true ∧ (getStream s flood0 2).copies = [c] ∧ c.ending = none ∧ c.next = c.count ∧ c.active = [] ∧ opRunning s 1 4 = true) ∧
    (let s := streaming flood0 { copies := [], epoch := 255, acks := [1199] } []
     up s = true ∧ 1199 ∈ (getStream s flood0 2).acks ∧ 3 ∉ (getStream s flood0 2).acks) ∧
    (∀ v ∈ [0, 1], ∀ h ∈ [none, some 77],
      let u := handUnit v h
      let d := descr 1 8 2 2 0
      let s := handing u 2
      let x := getStream s ebb0 2
      (engRun s ebb0 = true ∧ s.handoffs.find? (fun u => u.stack = ebb0.stack && u.stream = 2) = some u ∧ x.copies.length = 1 ∧ streamKept s x = false ∧
        (∀ c ∈ x.copies, c.ending = none ∧ c.active.length = 1 ∧ ∀ a ∈ c.active, a.opened = true) ∧ dMode d = 1 ∧
        2 + 1 < dCount d 1 * dCount d 2) ∧ opFind s 5 6 = none ∧ handOk d u = decide (v = 0) ∧ 0 ≤ (handAddr d u).1 ∧
      (u.header.isSome = true → dHdrBase d % 64 = 0 ∧ 0 ≤ (handAddr d u).2) ∧
      (let low := combPut [] (handAddr d u).1.toNat u.data
       let store := match u.header with | some w => combPut low (handAddr d u).2.toNat ((leBytes 2 w).map some) | none => low
       ∀ r ∈ combRuns store, r.2.length ≠ 256)) := by decide +kernel

theorem witness_DescriptorsAndCopiesComplete_line :
    let u : HandUnit := { handUnit 0 none with data := List.replicate 16 (some 1) }
    let d := descr 1 16 2 2 0
    let a := (handAddr d u).1.toNat
    let k : DescSt := { taken d true 0 with units := 1, comb := (List.range 256).foldl (fun l i =>
      if a ≤ a / 256 * 256 + i && a / 256 * 256 + i < a + 16 then l else tput 0 l (a / 256 * 256 + i) 5) [] }
    let c : CopyJob := { copyJob [k] with next := 1 }
    let s : State := { streaming ebb0 { copies := [c] } [] with handoffs := [u] }
    let x := getStream s ebb0 2
    let store := combPut k.comb a u.data
    let f := match logical s u.valley u.core with | some k => [Place.core k] | none => []
    let b := f.foldl (fun s p => carry s p [memPlace s (engReq ebb0 c) a] (u.data.filterMap id).length) { s with handoffs := [] }
    (engRun s ebb0 = true ∧ streamKept s x = false ∧ handOk d u = true ∧ 0 ≤ (handAddr d u).1 ∧ 1 + 1 < dCount d 1 * dCount d 2) ∧
    (match (combRuns store).filter (fun r => decide (r.2.length = 256)) with
     | [line] =>
       let w := vwrite (setStream b ebb0 2 { x with copies := [{ c with active := [{ k with comb := [], units := 2 }] }] }) (engReq ebb0 c) line.1 line.2
       decide (w.fault = none) && !w.dropped && !w.s.hostWait && w.stored
     | _ => false) = true := by decide +kernel

/-! ### Witnesses: cores and the plain -/

/-- The START of slot 0 of valley 0 in progress on queue 1. -/
def startRun : Op := { queue := 1, seq := 4, job := 0, ring := 0, opcode := 3, cmd := startCmd }
/-- Its task on core 0, that far on. -/
def taskAt (r : CoreRun) : Task := { queue := 1, seq := 4, cores := [0], runs := [(0, r)] }
/-- The physical core that is core 0 of valley 0. -/
def core0 : Nat := (logical job0 0 0).getD 0
/-- Valley 0 with an image in slot 0, its task and what core 0 holds. -/
def valleyRuns (m : Image) (st : SlotSt) (t : Task) (c : Core) : State :=
  { job0 with ops := [startRun], valleys := [(0, { slot0 := { st := st, words := m, armNo := 1, task := some t }, armed := 1 })]
              cores := [(core0, c)], sram := (List.range 64).map (fun i => (i, 0x3F)) }
/-- A panel of the first pass. -/
def panel0 : Panel := { lslot := 0, pass := 0, a := [[.fin false 1 0]], b := [[.fin false 3 0]] }
/-- The tail of an earlier task in slot 1 while the row task comes to slot 0. -/
def behindTail : State :=
  { valleyRuns rowTask .armed (taskAt {}) {} with
    valleys := [(0, { slot0 := { st := .armed, words := rowTask, armNo := 2, task := some (taskAt {}) }
                      slot1 := { st := .tail, words := product, armNo := 1, task := some (taskAt { on := true, issued := 1, done := 1 }) }, armed := 2 })] }
/-- Every core has gathered. -/
def gathered : Task := { taskAt { on := true } with gathered := [(0, [{}])] }
/-- What every clause about a core's task asks. -/
def coreTask (s : State) (t : Task) : Prop :=
  s.hostWait = false ∧ coresIssue s 0 = true ∧ coresRun s 0 = true ∧ logical s 0 0 = some core0 ∧ taskOf s 0 0 = some t ∧ t.ending = none

theorem witness_CoresRunTasksAndPasses :
    (let s := valleyRuns product .armed (taskAt {}) {}
     coreTask s (taskAt {}) ∧ iKind product ≠ 2 ∧ 0 ∈ (taskAt {}).cores ∧ ((taskAt {}).run 0).on = false ∧ slotBlocked s 0 0 0 1 = false) ∧
    (let m := rowTask
     let g := coreGather (slotMod behindTail 0 0 (fun y => { y with st := .running, task := some ((taskAt {}).setRun 0 { on := true }) })) core0 0 m
     coreTask behindTail (taskAt {}) ∧ iKind m = 2 ∧ slotBlocked behindTail 0 0 0 2 = false ∧ otherBusy behindTail 0 0 0 = true ∧ g.bad = false) := by
  unfold coreTask; decide +kernel

theorem witness_CoresRunTasksAndPasses_passes :
    (let t := taskAt { on := true }
     let s := valleyRuns product .running t {}
     coreTask s t ∧ fillNext s 0 0 = some (0, 0) ∧ (passAt product 0 0).isSome = true ∧ (pairOf (iFmtA product) (iFmtB product)).isSome = true ∧
     (getCore s core0).slotClear 0 = true ∧
     ∀ p ∈ (passAt product 0 0).toList, ∀ r ∈ (pairOf (iFmtA product) (iFmtB product)).toList,
       let a := sideLoad s 0 0 [] p p.chain.a (iTensor product 8) (iFmtA product) r.rank p.chain.rmask
       a.bad = false ∧ (sideLoad a.s 0 0 [] p p.chain.b (iTensor product 9) (iFmtB product) r.rank p.chain.cmask).bad = false) ∧
    (let t := taskAt { on := true, filled := 1 }
     let s := valleyRuns product .running t { inlet0 := some panel0 }
     coreTask s t ∧ (t.run 0).on = true ∧ t.issuedAll product 0 = false ∧ ((getCore s core0).panel 0 (t.run 0).issued).isSome = true ∧
     (passAt product 0 (t.run 0).issued).isSome = true ∧ tileWaits s 0 0 0 = false ∧ tileWaits s 0 0 1 = false ∧ (getCore s core0).inArray ++ (getCore s core0).toDrain = []) ∧
    (let s := valleyRuns rowTask .running gathered {}
     coreTask s gathered ∧ gathered.applied = false ∧ gathered.gatheredAll = true ∧ (∀ j ∈ gathered.cores, (gathered.run j).on = true) ∧
     iHandOff rowTask = false) := by
  unfold coreTask; decide +kernel

theorem witness_CoresRunTasksAndPasses_rows :
    (let s := valleyRuns rowTask .running gathered {}
     usesCrest rowTask = false ∧ rColsum rowTask = false ∧ gathered.row + 1 = rRows rowTask ∧
     (segRead (seedCore s 0 0 0) core0 rowTask 0 true).bad = false) ∧
    (let s := valleyRuns rowTask .armed (taskAt {}) {}
     let g := coreGather (seedCore (slotMod s 0 0 (fun y => { y with st := .running, task := some ((taskAt {}).setRun 0 { on := true }) })) 0 0 0) core0 0
       rowTask
     coreTask s (taskAt {}) ∧ slotBlocked s 0 0 0 1 = false ∧ g.bad = false ∧ (taskAt {}).gathered.isEmpty = true) := by
  unfold coreTask; decide +kernel

/-- The product with its result handed off to Ebb engine 0. -/
def handImage : Image := tput 0 product 4 (tget 0 product 4 ||| BitVec.ofNat 64 (2 ^ 23))

theorem witness_PassesDrainAndTasksEnd :
    (let t := taskAt { on := true, filled := 1, issued := 1 }
     let s := valleyRuns product .tail t { inlet0 := some panel0, inArray := [(0, 0)] }
     coreTask s t ∧ (getCore s core0).inArray = (0, 0) :: [] ∧ (passAt product 0 0).isSome = true ∧
     (pairOf (iFmtA product) (iFmtB product)).isSome = true ∧ (getCore s core0).panel 0 0 = some panel0) ∧
    (let t := taskAt { on := true, filled := 1, issued := 1, done := 1 }
     let s := valleyRuns product .tail t { toDrain := [(0, 0)] }
     coreTask s t ∧ (getCore s core0).toDrain = (0, 0) :: [] ∧ (passAt product 0 0).isSome = true ∧ drainHands s core0 0 product = false ∧ iOutFmt product ≠ 5 ∧
     iBiasSrc product = 0 ∧ iDeriv product = 0 ∧ iDropEn product = false) ∧
    (let t := taskAt { on := true, filled := 1, issued := 1, done := 1 }
     let m : Image := tput 0 (tput 0 product 4 0x10000410A0000) 10 0x4000202000
     let s := valleyRuns m .tail t { toDrain := [(0, 0)] }
     coreTask s t ∧ (passAt m 0 0).isSome = true ∧ drainHands s core0 0 m = false ∧ iOutFmt m = 5 ∧ (openGroup s core0 0).length < 7) := by
  unfold coreTask; decide +kernel

theorem witness_PassesDrainAndTasksEnd_ends :
    (let t := taskAt { on := true, filled := 1, issued := 1, done := 1 }
     let s := valleyRuns handImage .tail t { toDrain := [(0, 0)] }
     coreTask s t ∧ handWaits s 0 0 = some 0 ∧ opFind s t.queue t.seq = some startRun ∧ cLslot startRun.cmd = 0 ∧ 0 ∈ cValleys startRun.cmd ∧
     present s (pgEng ⟨.ebb, iEbbStack handImage⟩) = true) ∧
    (let t := taskAt { on := true, filled := 1, issued := 1, done := 1, drained := 1 }
     let s := valleyRuns product .tail t {}
     coreTask s t ∧ opFind s 1 4 = some startRun ∧ startRun.opcode = opStart ∧ startRun.phase = .running ∧ (1, 4) ∉ s.starts ∧
     ∀ w ∈ cValleys startRun.cmd, stateOf s (pgSteward (w / 100)) ≠ 1 ∧ valleyStill s w = false ∧ ((getV s w).slot 0).spoil = false ∧ taskDone s w 0 = true ∧ iPbCount ((getV s w).slot 0).words = 0 ∧
       iGuardEn ((getV s w).slot 0).words = false ∧ taskOf s w 0 = some t ∧ t.queue = 1 ∧ t.seq = 4) := by
  unfold coreTask; decide +kernel

/-- A packet from core 5 to core 0 of valley 0. -/
def plainTo (d : Option (List Byte)) (words addr : Nat) (fl : Option (Nat × Nat × Nat)) : PlainPkt := ⟨.core 5, 0, 0, addr, d, words, false, [], fl⟩
/-- Bytes in core 0's SRAM. -/
def plainState : State := { job0 with sram := (List.range 90).map (fun i => (i, 7)) }

theorem witness_PlainAccessesScrubsAndChannels :
    let s := plainState
    let k := sramWord core0 2
    (up s = true ∧ 11 < 12 ∧ 3 < 4 ∧ 7 < 8 ∧ valleyRefuses s 0 = false ∧ logical s 0 0 = some core0 ∧ tget false s.sramPoison k = false ∧
      tget [] s.sramUpset k = []) ∧
    (let p := plainTo (some (List.replicate 26 1)) 0 70 (some (0, 2, 3))
     plainFits p = true ∧ staleEpoch s 0 (0, 2, 3) = false ∧ p.addr % 32 + 26 ≤ 32 ∧
     staleEpoch { s with valleys := [(0, { epochs := [(streamKey ⟨.flood, 0⟩ 2, 5)] })] } 0 (0, 2, 3) = true) ∧
    (plainFits (plainTo (some (List.replicate 32 1)) 0 96 none) = true ∧ (List.replicate 32 (1 : Byte)).length = 32) ∧
    (plainFits (plainTo none 8 70 none) = true ∧ rf s (pgValley 0 + 0xD00) 11 8 ≠ 0) ∧
    (plainFits (plainTo none 1 70 none) = true ∧ rf (wf s (pgValley 0 + 0xD00) 11 8 0) (pgValley 0 + 0xD00) 11 8 = 0 ∧ (getV s 0).reads = []) ∧
    (let s : State := { s with valleys := [(0, { reads := [⟨0, 64, .core 3, [], 0⟩, ⟨0, 90, .core 4, [], 1⟩, ⟨0, 3, .core 4, [], 2⟩] })] }
     (∃ r ∈ (getV s 0).reads, r.core = 0 ∧ r.addr / 32 = 2) ∧ (∀ r ∈ (getV s 0).reads, r.core = 0 → r.addr / 32 = 2 → r.upset = []) ∧
     valleyRefuses s 0 = false) ∧
    plainFits (plainTo none 2 (163840 - 32) none) = false ∧
    (let s : State := { withRegs [(pgValley 0 + 0xC, 0x10017)] s with valleys := [(0, { reads := [⟨0, 64, .core 3, [], 1⟩, ⟨0, 96, .core 3, [], 1⟩] })] }
     valleyRefuses s 0 = true ∧ (getV s 0).reads.filter (fun r => decide (r.core = 0) && decide (r.addr / 32 = 2)) = [⟨0, 64, .core 3, [], 1⟩]) ∧
    (clocked s (pgValley 0) = true ∧ rb s (pgValley 0 + 0xD00) 0 = true ∧
      (let z := sramWord core0 (scrubCount (getV s 0) 0 7 % 640 * 8 + 7)
       (∀ u ∈ [[1], [0, 0, 1, 5]], (xorBytes (slice (u.map (BitVec.ofNat 8)) 0 35) (tget [] s.sramUpset z)).all (· = 0) = false) ∧
       eccDecode 3 (xorBytes (slice [0, 0, 1, 5] 0 35) (tget [] s.sramUpset z)) = .bad ∧
       (match eccDecode 3 (xorBytes (slice [1] 0 35) (tget [] s.sramUpset z)) with | .fixed _ _ => true | _ => false) = true ∧
       tget false s.sramPoison z = false)) ∧
    (present s (pgPass 11 3) = true ∧ stateOf s (pgPass 11 3) = 3) ∧
    (let s : State := { s with chans := [((0 * 4 + 1) * 256 + 167, { times := List.replicate 16 0 })] }
     let y := tget {} s.chans ((0 * 4 + 1) * 256 + 167)
     16 < ((localTime s (pgPass 0 1) :: y.times).filter (fun t => decide (localTime s (pgPass 0 1) - t < 1000))).length ∧ y.failed = false) := by
  decide +kernel

/-! ### Witnesses: HBM and the Berm units -/

/-- The last SMALL of a line buffer for HBM or host memory. -/
def lineOf (host : Bool) : LineBuf := ⟨host, 2, [(1, 5), (63, 9)], [(1, 4)]⟩
/-- Bytes in HBM, a SMALL in progress, its line buffer, and unit 0 poisoned. -/
def hbmState (host : Bool) : State :=
  { job0 with hbm := memSet tables 0x40 (List.replicate 70 8), hbmPoison := [(0, true)], lines := [lineOf host]
              ops := [{ queue := 1, seq := 4, job := 0, ring := 0, opcode := 0x11, cmd := command 0x11 0 0 [] }] }

theorem witness_HbmIsReadWrittenAndPatrolled :
    (∀ host ∈ [false, true], let s := hbmState host
      (up s && !s.hostWait) = true ∧ present s (pgHbm 0) = true ∧ held s (pgHbm 0) = false ∧ stateOf s (pgHbm 0) ≠ 1 ∧ stateOf s (pgHbm 0) ≠ 2 ∧
      s.lines[0]? = some (lineOf host) ∧ (lineOf host).smalls = [(1, 4)] ∧ (opFind s 1 4).map (·.phase) = some .running ∧
      ((lineOf host).bytes.map (·.1)).Nodup ∧ (∀ x ∈ (lineOf host).bytes, x.1 < 64) ∧ s.hl.busMaster.contains (hostFn s (.narrows 0)) = true ∧
      tget false s.hbmPoison 2 = false ∧ tget [] s.hbmUpset 2 = []) ∧
    (let s := hbmState false
     0 < 8 ∧ 7 < 8 ∧ 64 * (stackUnits - 1) < stackBytes ∧ tget false s.hbmPoison 1 = false ∧
     (xorBytes (slice [] 0 68) (tget [] s.hbmUpset 1)).all (· = 0) = true ∧ tget false s.hbmPoison 0 = true ∧
     (let e := xorBytes (slice [1, 2, 3, 4] 0 68) (tget [] s.hbmUpset 1)
      e.all (· = 0) = false ∧ eccDecode 4 e = .bad) ∧ (38 + 26 ≤ 64 ∧ (List.replicate 26 (3 : Byte)) ≠ [] ∧ (List.replicate 64 (3 : Byte)).length = 64) ∧
     (clocked s (pgHbm 0) = true ∧ rb s (pgHbm 0 + 0x84) 0 = true ∧ tget 0 s.patrols 0 = 0) ∧
     tget 0 ({ s with patrols := [(0, stackUnits - 1)] } : State).patrols 0 = stackUnits - 1) := by decide +kernel

/-- The word 0 of a block header: STAMP, IN_USE, VER, OLD, SEL, STASH, BUSY and EPOCH. -/
def headWord (stamp inUse ver old sel stash busy epoch : Nat) : Nat :=
  stamp + inUse * 2 ^ 32 + ver * 2 ^ 48 + old * 2 ^ 49 + sel * 2 ^ 50 + stash * 2 ^ 51 + busy * 2 ^ 52 + epoch * 2 ^ 56
/-- HBM with that header at 0x40000. -/
def headState (w : Nat) : State := { job0 with hbm := memSet tables 0x40000 (leBytes 8 w) }

theorem witness_HeaderOperationsAct :
    (let s := headState (headWord 4 0 1 0 1 1 0 7)
     0 < 8 ∧ up s = true ∧ s.hostWait = false ∧ present s (pgHbm 0) = true ∧ 0x40000 / 2 ^ 36 = 0 ∧ isHbm s.grade 0x40000 = true ∧ 0x40000 % 64 = 0 ∧
     stateOf s (pgHbm 0) ≠ 1 ∧ stateOf s (pgHbm 0) ≠ 2 ∧ tget false s.hbmPoison (0x40000 / 64) = false ∧ tget [] s.hbmUpset (0x40000 / 64) = [] ∧
     hInUse (leNat (memGet s.hbm 0x40000 8)) = 0 ∧ 63 < 64) ∧
    2 ^ 36 / 2 ^ 36 ≠ 0 := by decide +kernel

/-- An UPDATE of three blocks, step 5, whose norm waits for tidemark 9 at 5. -/
def updCmd : Rec := command 0x31 0 0 [4, 0x50000, 3 + 2 ^ 32 * 2 + 2 ^ 44, 5, 0, 9 + 2 ^ 13]
/-- Its optimiser record of that KIND, with flags. -/
def updOpt (k f : Nat) : Rec :=
  ([k + f, 0x3F80000000000000, 0, 0x3F8000003F800000, 0, 0x3F80000000000000, 0x100000, 0x200000, 0x300000, 0x400000, 0x500000, 0x600000, 0x1000, 0, 0,
    0]).map (BitVec.ofNat 64)
/-- That UPDATE in progress. -/
def upd (k f : Nat) : Upd := { queue := 1, seq := 4, job := 0, cmd := updCmd, started := true, opt := updOpt k f, normOk := true }
/-- It alone in Berm unit 0, with the header of its next block, tidemark 9, and the norm factor at 0x200000. -/
def berm (u : Upd) (w tm norm : Nat) : State :=
  { job0 with berms := [(0, [u])], tms := [(9, tm)]
              ops := [{ queue := 1, seq := 4, job := 0, ring := 0, opcode := 0x31, cmd := updCmd }]
              hbm := memSet (memSet tables 0x50000 (leBytes 8 w)) 0x200000 (leBytes 4 norm) }
/-- What every clause about an UPDATE asks. -/
def bermOne (s : State) (u : Upd) : Prop :=
  up s = true ∧ s.hostWait = false ∧ bermList s 0 = [u] ∧ u.started = true ∧ u.cancelled = false ∧ u.parked = false ∧ u.next < uCount u.cmd ∧
  opRunning s u.queue u.seq = true ∧ working s (pgBerm 0) = true ∧ clocked s (pgBerm 0) = true
/-- What the header unit answers to the claim of its next block. -/
def claimOf (s : State) (u : Upd) : State × HdrRes := hdrAt s u.job (handleOf u.queue u.seq) (updBlock u u.next) (some 0) (.claim (uStep u.cmd))

theorem witness_UpdateBlocksAreClaimedAndCommitted :
    (let u := upd 1 0
     ∀ e ∈ [(headWord 4 0 1 0 0 0 0 0, Claim.claimed), (headWord 5 0 1 0 0 0 0 0, .skip), (headWord 9 0 1 0 0 0 0 0, .mismatch),
         (headWord 9 0 1 0 0 0 1 0, .busy)],
       let s := berm u e.1 3 0x3F800000
       bermOne s u ∧ u.normOk = true ∧ u.waiting = [] ∧ oKind u.opt ≠ 5 ∧ u.next + 1 < uCount u.cmd ∧ (claimOf s u).2.kind = 0 ∧
       (claimOf s u).2.poison = false ∧ (claimOf s u).1.hostWait = false ∧ (claimOf s u).2.claim = e.2) ∧
    (let u : Upd := { upd 1 0 with normOk := false }
     bermOne (berm u 0 3 0x3F800000) u ∧ normReached (berm u 0 3 0x3F800000) u = false ∧
     ∀ norm ∈ [0x3F800000, 0xBF800000], let s := berm u 0 5 norm
       let g := vread s (bermReq u) (wf' u.opt 7 51 0) 4
       bermOne s u ∧ normReached s u = true ∧ g.failed = none ∧ g.s.hostWait = false ∧
       clipOk (BitVec.ofNat 32 (leNat g.bytes)) = decide (norm = 0x3F800000)) ∧
    (let u : Upd := { upd 1 0 with waiting := [0, 1], next := 2 }
     bermOne (berm u 0 3 0) u ∧ 0 ∈ u.waiting) := by
  unfold bermOne; decide +kernel

theorem witness_UpdateBlocksAreClaimedAndCommitted_squares :
    let u : Upd := { upd 5 32 with opt := (updOpt 5 32).set 6 (2 ^ 30) }
    let s := berm u 0 3 0
    let g := vread s (bermReq u) (gradAt u.opt u.next).1 (gradAt u.opt u.next).2
    bermOne s u ∧ u.normOk = true ∧ oKind u.opt = 5 ∧ u.next + 1 < uCount u.cmd ∧ g.fault = none ∧ g.bad.any id = false ∧ g.s.hostWait = false := by
  unfold bermOne; decide +kernel

/-- A KIND 4 UPDATE whose block 0 is claimed under that header: the header is the last of HBM before 2^30, the arrays and the
gradient lie in host memory. -/
def claimed (w0 : Nat) : Upd :=
  { upd 4 0 with
    cmd := command 0x31 0 0 [4, 2 ^ 30 - 0x1000, 3 + 2 ^ 32 * 2 + 2 ^ 44, 5, 0, 9 + 2 ^ 13]
    opt := (updOpt 4 0).set 6 (2 ^ 30 + 0x100000)
    next := 1
    claimed := [(0, w0)] }

theorem witness_UpdateBlocksAreClaimedAndCommitted_commit :
    let w0 := headWord 4 0 1 0 0 0 1 0
    let u := claimed w0
    let s : State := { berm u 0 3 0 with hbm := memSet tables (2 ^ 30 - 0x1000) (leBytes 8 w0) }
    let g := readParts (bermMod s 0 u.queue u.seq (fun u => { u with touched := true })) (bermReq u)
      ((List.range (optArrays u.opt)).map (fun k => (updBlock u 0 + arrayOff (hSel w0) k, 8192)) ++ [gradAt u.opt 0])
    let a := applyBlock u.opt u.clip 0 (1 - hVer w0) g.bytes
    let w := writeParts g.s (bermReq u) ((List.range a.arrays.length).map (fun k =>
      (updBlock u 0 + arrayOff (1 - hSel w0) k, arrayBytes (a.arrays.getD k []))) ++ a.copies)
    let c := hdrAt w.1 u.job (handleOf u.queue u.seq) (updBlock u 0) (some 0) (.commit (uStep u.cmd) (BitVec.ofNat 64 (handleOf u.queue u.seq)))
    bermOne s u ∧ u.claimed.find? (fun e => e.1 = 0) = some (0, w0) ∧ g.fault = none ∧ g.bad.any id = false ∧ w.2 = none ∧ c.2.ok = true ∧
    c.1.hostWait = false := by
  unfold bermOne; decide +kernel

/-! ### Witnesses: numbers and the whole machine -/

theorem witness_PajorElementsAndCounts : 7 < 8 ∧ 8 ≤ 15 ∧ 15 < 16 ∧ (List.replicate 64 (0 : Word32)).length ≤ 64 := by decide

theorem witness_NansAreCanonical :
    ((0xFFC00001 / 2 ^ FpFmt.fp32.mw) % 2 ^ FpFmt.fp32.ew = 2 ^ FpFmt.fp32.ew - 1 ∧ 0xFFC00001 % 2 ^ FpFmt.fp32.mw ≠ 0) ∧
    ((0xFF / 2 ^ FpFmt.e4m3.mw) % 2 ^ FpFmt.e4m3.ew = 2 ^ FpFmt.e4m3.ew - 1 ∧ 0xFF % 8 = 7) ∧ f32 0xFFC00001 = .nan ∧
    (Machine.Num.fin false 1 0 ≠ .nan) := by decide +kernel

theorem witness_EveryStepKeepsMemoriesCanonical : Safe.memories job0 = true ∧ Safe.goes { job0 with pending := [.idcode] } := by
  exact ⟨by decide +kernel, _, rfl⟩

/-! ### Small steps -/

/-- The state a command leads to. -/
def after (o : Host.Outcome State Fault Refusal) : State := match o with | .next t => t | _ => {}

/-- The reset state's memories are canonical. -/
theorem test_reset_memories : Safe.memories State.reset = true := by decide +kernel
/-- R411: CRC-32C of "123456789" is 0xE3069283. -/
theorem test_crc32c_check_value : crc32c [0x31, 0x32, 0x33, 0x34, 0x35, 0x36, 0x37, 0x38, 0x39] = 0xE3069283 := by decide +kernel
/-- R50: 1 + 1 = 2, and infinity less itself is the canonical NaN. -/
theorem test_fadd : fadd 0x3F800000 0x3F800000 = 0x40000000 ∧ fsub 0x7F800000 0x7F800000 = 0x7FC00000 := by decide +kernel
/-- R51: a number beyond E4M3's largest, 448, saturates there. -/
theorem test_e4m3_saturates : roundSat .e4m3 (.fin false 500 0) = (0x7E, true) := by decide +kernel
/-- R55: the PJ4i code 0xF stands for -1. -/
theorem test_pj4i_code : pj4iNum 15 = .fin true 1 0 := by decide
/-- R166: a NOP takes the next number and HEAD moves on. -/
theorem test_nop_advances : ((getQ (after (exec (.nop 0) (atHead nopCmd))) 0).nextSeq, (getQ (after (exec (.nop 0) (atHead nopCmd))) 0).head) = (1, 1) := by
  decide +kernel
/-- R221: an attached signal that adds wraps at 2^64. -/
theorem test_signal_wraps :
    tmGet (after (exec (.signal 0) { atHead (command 0x20 0x50600 9 []) with tms := [(5, 2 ^ 64 - 2)] })) 5 = 7 := by decide +kernel
/-- R223: a WAIT at its value goes on, one short of it waits. -/
theorem test_wait_at_value : (getQ (after (exec (.wait 0) { atHead waitCmd with tms := [(3, 5)] })) 0).waitKind = 0 := by decide +kernel
theorem test_wait_below_value : (getQ (after (exec (.wait 0) { atHead waitCmd with tms := [(3, 4)] })) 0).waitKind = 1 := by decide +kernel
/-- R185: a PATCH of word 0 makes an EMPTY slot LOADED. -/
theorem test_patch_loads : ((getV (after (exec (.patch 0) (atHead patchCmd))) 0).slot0.st, tget 0 (getV (after (exec (.patch 0) (atHead patchCmd))) 0).slot0.words 1)
    = (.loaded, 12) := by decide +kernel
/-- R213: a DOORBELL of the ring's size is bad. -/
theorem test_doorbell_bad : rb (after (exec (.doorbell 0 1 16) (withQ1 ringQ))) (pgQm + 0x14) 8 = true := by decide +kernel
/-- R221: the second half written to TM_ADD_VALUE adds with the latched low half. -/
theorem test_tm_add_halves :
    tmGet (after (exec (.tmAdd false 1) { job0 with tmLatch := 2 })) 0 = 2 ^ 32 + 2 := by decide +kernel
/-- R317: CREATE makes a job active. -/
theorem test_create : jobState (after (exec (.create 0 false) freeJob)) 0 = 1 := by decide +kernel
/-- R404: IDCODE is 32 bits. -/
theorem test_idcode : (after (exec .idcode up0)).out.map (fun o => match o with | .jtag l => l.length | _ => 0) = [32] := by decide +kernel
/-- R355: a write of 0x00 and a byte sets the read pointer. -/
theorem test_sideband_pointer : (after (exec (.sbPointerWrite [0, 0xFF]) up0)).hl.sbPtr = 0xFF := by decide
/-- R407: a bus master's bit is one function's. -/
theorem test_bus_master_clears : (after (exec (.configurationRequest (.busMaster 0 false)) job0)).hl.busMaster = [] := by decide
/-- R248: a release of a header whose IN_USE is 0 is a USE_UNDERFLOW. -/
theorem test_header_underflow :
    rb (after (exec (.headerOp 0 0x40000 ⟨0, .release 5 true⟩) (headState (headWord 4 0 1 0 1 1 0 7)))) (pgHbm 0 + 0x14) 9 = true := by decide +kernel

end Sys2Proof.Tests
end

section
/-! PROOFS. The number formats: PJ4i elements, zero blocks and block headers (R55, R61). -/

namespace Sys2Proof.Machine

/-! ### Elements -/

theorem pj4iNum_of_lt_eight {c : Nat} (h : c < 8) : pj4iNum c = .fin false c 0 := by
  have hs : signedOf 4 c = c := by
    unfold signedOf
    rw [if_pos] <;> omega
  simp [pj4iNum, hs, Num.ofInt]

theorem pj4iNum_of_eight_le {c : Nat} (h : 8 ≤ c) (hc : c < 16) : pj4iNum c = .fin true (16 - c) 0 := by
  have hs : signedOf 4 c = (c : Int) - 16 := by
    unfold signedOf
    rw [if_neg] <;> omega
  have hneg : (c : Int) - 16 < 0 := by omega
  have habs : ((c : Int) - 16).natAbs = 16 - c := by omega
  simp [pj4iNum, hs, Num.ofInt, hneg, habs]

theorem pj4Num_isFin (c : Nat) : (pj4Num c).isFin = true := rfl

theorem pj4iNum_isFin (c : Nat) : (pj4iNum c).isFin = true := rfl

theorem pj2Num_isFin (c : Nat) : (pj2Num c).isFin = true := by
  unfold pj2Num
  split
  · rfl
  · split <;> rfl

theorem e5m3Num_zero : e5m3Num 0 = .fin false 0 (-17) := rfl

/-- A zero times a finite value is a zero; times an infinity it would be NaN. -/
theorem Num.isZero_zero_mul {x : Num} (hx : x.isFin = true) (s : Bool) (e : Int) : ((Num.fin s 0 e).mul x).isZero = true := by
  cases x with
  | nan => cases hx
  | inf t => cases hx
  | fin t n d => simp [Num.mul, Num.isZero]

theorem isZero_scaleZero_mul {x : Num} (hx : x.isFin = true) : ((e5m3Num 0).mul x).isZero = true := by
  rw [e5m3Num_zero]
  exact Num.isZero_zero_mul hx false (-17)

/-! ### Counts -/

theorem hdrCount_eq_ite (h : Nat) : hdrCount h = if bitsOf h 14 8 ≤ 64 then bitsOf h 14 8 else 64 := by
  unfold hdrCount
  split <;> omega

/-- The CLIP field of a header gives back the count, in its seven bits. -/
theorem bitsOf_mkHeader_clip (clamp : Bool) (clip scale : Nat) : bitsOf (mkHeader clamp clip scale) 14 8 = clip % 128 := by
  simp only [bitsOf, mkHeader, Nat.shiftRight_eq_div_pow]
  omega

/-- R62: every block is written under a header whose CLIP counts some of the quantised values. -/
theorem quantisePj4_header (xs : List Word32) (draws : List Nat) :
    ∃ clamp clip scale, clip ≤ xs.length ∧ (quantisePj4 xs draws).header = mkHeader clamp clip scale := by
  unfold quantisePj4
  dsimp only
  split
  · exact ⟨_, _, _, List.length_filter_le .., rfl⟩
  · refine ⟨_, _, _, (List.length_filter_le ..).trans ?_, rfl⟩
    simp

theorem quantisePj4_clip_le_length (xs : List Word32) (draws : List Nat) : bitsOf (quantisePj4 xs draws).header 14 8 ≤ xs.length := by
  obtain ⟨clamp, clip, scale, hclip, hheader⟩ := quantisePj4_header xs draws
  rw [hheader, bitsOf_mkHeader_clip]
  exact (Nat.mod_le clip 128).trans hclip

theorem pj2Reserved_le (l : List Byte) : pj2Reserved l ≤ 64 :=
  (List.length_filter_le ..).trans_eq List.length_range

/-- Settles O56: a block's scale of 0 is an exact zero and its elements are finite, and every count is of a list of at most 64. -/
theorem pajorElementsAndCounts : Obligations.PajorElementsAndCounts := by
  unfold Obligations.PajorElementsAndCounts
  refine ⟨fun c => ⟨pj4iNum_of_lt_eight, pj4iNum_of_eight_le⟩, fun c => ⟨?pj4, ?pj4i, ?pj2⟩, hdrCount_eq_ite, ?clip, pj2Reserved_le⟩
  case pj4 => exact isZero_scaleZero_mul (pj4Num_isFin c)
  case pj4i => exact isZero_scaleZero_mul (pj4iNum_isFin c)
  case pj2 => exact isZero_scaleZero_mul (pj2Num_isFin c)
  case clip =>
    intro xs draws hlen
    exact (quantisePj4_clip_le_length xs draws).trans hlen

end Sys2Proof.Machine
end

section
/-! PROOFS. NaN in the published formats: read whatever its payload, carried through the arithmetic, written canonical (R50). -/

namespace Sys2Proof.Machine

/-! ### Reading -/

theorem decodeNum_of_ones {f : FpFmt} {w : Nat} (hf : f ≠ .e4m3) (he : w / 2 ^ f.mw % 2 ^ f.ew = 2 ^ f.ew - 1) :
    decodeNum f w = if w % 2 ^ f.mw = 0 then .inf (bitOf w (f.ew + f.mw)) else .nan := by
  cases f with
  | e4m3 => exact absurd rfl hf
  | _ => exact if_pos he

/-- E4M3 has no infinity: of the codes with every exponent bit set, NaN alone has every mantissa bit set too. -/
theorem decodeNum_e4m3_of_ones {w : Nat} (he : w / 2 ^ 3 % 2 ^ 4 = 15) (hm : w % 8 = 7) : decodeNum .e4m3 w = .nan :=
  if_pos ⟨he, hm⟩

/-! ### Writing -/

theorem roundNum_nan (f : FpFmt) : roundNum f .nan = f.nanCode := rfl
theorem roundSat_nan (f : FpFmt) : roundSat f .nan = (f.nanCode, false) := rfl
theorem roundStoch_nan (f : FpFmt) (r : Nat) : roundStoch f r .nan = f.nanCode := rfl
@[simp] theorem toF32_nan : toF32 .nan = f32Nan := rfl

theorem FpFmt.maxCode_lt_nanCode (f : FpFmt) : f.maxCode < f.nanCode := by cases f <;> decide
theorem FpFmt.overCode_lt_nanCode (f : FpFmt) : f.overCode < f.nanCode := by cases f <;> decide
theorem FpFmt.infCode_lt_nanCode (f : FpFmt) : f.infCode < f.nanCode := by cases f <;> decide

/-- The canonical NaN has sign 0. -/
theorem FpFmt.nanCode_lt_signBit (f : FpFmt) : f.nanCode < 2 ^ (f.ew + f.mw) := by cases f <;> decide

/-- No magnitude below the canonical NaN's gives its code, under either sign. -/
theorem withSign_ne_nanCode {f : FpFmt} {c : Nat} (h : c < f.nanCode) (s : Bool) : withSign f s c ≠ f.nanCode := by
  have hsign := f.nanCode_lt_signBit
  cases s with
  | false => simp only [withSign, Bool.false_eq_true, if_false]; omega
  | true => simp only [withSign, if_true]; omega

/-- Only a NaN is rounded to the canonical NaN: infinities and finite values keep below its magnitude. -/
theorem roundNum_ne_nanCode (f : FpFmt) {x : Num} (hx : x ≠ .nan) : roundNum f x ≠ f.nanCode := by
  cases x with
  | nan => exact absurd rfl hx
  | inf s => exact withSign_ne_nanCode f.infCode_lt_nanCode s
  | fin s m e =>
    apply withSign_ne_nanCode
    split
    · exact f.overCode_lt_nanCode
    · have := f.maxCode_lt_nanCode
      omega

/-! ### Arithmetic -/

@[simp] theorem Num.nan_mul (x : Num) : Num.nan.mul x = .nan := rfl
@[simp] theorem Num.mul_nan (x : Num) : x.mul .nan = .nan := by cases x <;> rfl
@[simp] theorem Num.nan_add (x : Num) : Num.nan.add x = .nan := rfl
@[simp] theorem Num.add_nan (x : Num) : x.add .nan = .nan := by cases x <;> rfl
@[simp] theorem Num.negate_nan : Num.nan.negate = .nan := rfl

section
variable {a : Word32} (h : f32 a = .nan)
include h

theorem fadd_nan_left (b : Word32) : fadd a b = f32Nan := by simp [fadd, h]
theorem fadd_nan_right (b : Word32) : fadd b a = f32Nan := by simp [fadd, h]
theorem fsub_nan_left (b : Word32) : fsub a b = f32Nan := by simp [fsub, h]
theorem fsub_nan_right (b : Word32) : fsub b a = f32Nan := by simp [fsub, h]
theorem fmul_nan_left (b : Word32) : fmul a b = f32Nan := by simp [fmul, h]
theorem fmul_nan_right (b : Word32) : fmul b a = f32Nan := by simp [fmul, h]
theorem fdiv_nan_left (b : Word32) : fdiv a b = f32Nan := by simp [fdiv, h]
theorem fdiv_nan_right (b : Word32) : fdiv b a = f32Nan := by
  unfold fdiv
  rw [h]
  cases f32 b <;> rfl
theorem fsqrt_nan : fsqrt a = f32Nan := by simp [fsqrt, h]
theorem ffma_nan_left (b c : Word32) : ffma a b c = f32Nan := by simp [ffma, h]
theorem ffma_nan_middle (b c : Word32) : ffma b a c = f32Nan := by simp [ffma, h]
theorem ffma_nan_right (b c : Word32) : ffma b c a = f32Nan := by simp [ffma, h]

end

/-- Settles O57: NaN is absorbing in the arithmetic, every rounding takes it to `nanCode`, and nothing else reaches that code. -/
theorem nansAreCanonical : Obligations.NansAreCanonical := by
  unfold Obligations.NansAreCanonical
  refine ⟨?read, ?written, ?arithmetic⟩
  case read =>
    intro f w he hm
    by_cases hf : f = .e4m3
    · subst hf
      rw [if_pos rfl] at hm
      exact decodeNum_e4m3_of_ones he hm
    · rw [if_neg hf] at hm
      rw [decodeNum_of_ones hf he, if_neg hm]
  case written =>
    intro f d c hfc
    have hc : f.nanCode = c := by
      revert hfc
      simp only [List.mem_cons, List.not_mem_nil, or_false, Prod.mk.injEq]
      rintro (⟨rfl, rfl⟩ | ⟨rfl, rfl⟩ | ⟨rfl, rfl⟩ | ⟨rfl, rfl⟩ | ⟨rfl, rfl⟩) <;> rfl
    subst hc
    exact ⟨roundNum_nan f, congrArg Prod.fst (roundSat_nan f), roundStoch_nan f d, fun x hx => roundNum_ne_nanCode f hx⟩
  case arithmetic =>
    intro a b c h
    exact ⟨fadd_nan_left h b, fadd_nan_right h b, fsub_nan_left h b, fsub_nan_right h b, fmul_nan_left h b, fmul_nan_right h b,
      fdiv_nan_left h b, fdiv_nan_right h b, fsqrt_nan h, ffma_nan_left h b c, ffma_nan_middle h b c, ffma_nan_right h b c⟩

end Sys2Proof.Machine
end
